-- ==== Sys2Proof/Word.lean ====
section
/-! DEFINITION. The widths of the machine (R3, R42, R43, R69) and the finite maps its tables are held in. -/

namespace Sys2Proof

/-- A byte of any memory. -/
abbrev Byte := BitVec 8
/-- A scalar register or a control register (R42, R68). -/
abbrev Word := BitVec 64
/-- An address register: window byte in bits 71..64, offset in bits 63..0 (R43). -/
abbrev Addr := BitVec 72
/-- A vector or mask register at the widest lease, 32 lanes of 256 bits (R69). -/
abbrev VReg := BitVec 8192

/-- A finite map from numbers: the first pair with the key counts. -/
abbrev Assoc (β : Type) := List (Nat × β)

namespace Assoc
variable {β : Type}

/-- The value at a key, or `d` when the map does not hold the key. -/
def get (d : β) (k : Nat) : Assoc β → β
  | [] => d
  | p :: t => if p.1 = k then p.2 else get d k t

/-- The value at a key, if the map holds it. -/
def find? (k : Nat) : Assoc β → Option β
  | [] => none
  | p :: t => if p.1 = k then some p.2 else find? k t

/-- Replaces the value at a key, or adds the key at the end. -/
def set (k : Nat) (v : β) : Assoc β → Assoc β
  | [] => [(k, v)]
  | p :: t => if p.1 = k then (k, v) :: t else p :: set k v t

/-- Removes a key. -/
def erase (k : Nat) (m : Assoc β) : Assoc β := m.filter (fun p => p.1 != k)

@[simp] theorem get_set_self (d v : β) (k : Nat) (m : Assoc β) : get d k (set k v m) = v := by
  induction m with
  | nil => simp [set, get]
  | cons p t ih => by_cases h : p.1 = k <;> simp [set, get, h, ih]

theorem get_set_ne (d v : β) {k j : Nat} (m : Assoc β) (h : j ≠ k) :
    get d j (set k v m) = get d j m := by
  induction m with
  | nil => simp [set, get, Ne.symm h]
  | cons p t ih =>
    by_cases h' : p.1 = k
    · simp [set, get, h', Ne.symm h]
    · rw [set, if_neg h', get, get, ih]

end Assoc
end Sys2Proof
end

