-- ==== Sys2Proof/Config.lean ====
section
/-! DEFINITION. What the part fixes (R35, R68) and the values the spec leaves open. An open value is an opaque constant:
no proof can see it, so a claim holds whatever it is (log entry 5). Most take a counter of their context, `State.frees`,
which each use advances, so that two uses need not agree. -/

namespace Sys2Proof.Config

/-- The stepping code of the part (R35, R68): B0. -/
def stepping : Nat := 0x00B0
/-- The clock periods that a step takes (R12, R68): timing is not modelled. -/
opaque ticks : Nat → Nat
/-- A vector register's bits after VSETL (R77). -/
opaque freeVReg : Nat → VReg
/-- A byte that the spec leaves open: Wharf contents after a hash write (R221), spill contents (R279), padding. -/
opaque freeByte : Nat → Byte
/-- A word that the spec leaves open. -/
opaque freeWord : Nat → Word
/-- An event that may or may not take place: whether an expired slice reads as lost (R103), a store is taken early. -/
opaque freeBit : Nat → Bool
/-- A choice among `n` things that the spec leaves open (R162, R303, R314). -/
opaque freeChoice : Nat → Nat → Nat

/-- The members of a domain group on other modules (R377, log entry 14), by group identifier and key handle: the module and its ranges. -/
opaque groupPeers : Nat → Nat → List (Nat × List (Nat × Nat))
/-- The Quays of the member's Piers on such a module (R378, log entry 14), by group identifier, key handle and module. -/
opaque peerQuays : Nat → Nat → Nat → List Nat
/-- Whether a Jetty receiver is short of buffers (R379, log entry 34): the spec gives no number of them. -/
opaque jettyShort : Nat → Bool
/-- The Jetty port that leads to a module (R378, R379, log entry 14). -/
opaque jettyPort : Nat → Nat
/-- The physical memory that firmware takes for loaded code and page tables (R375, log entry 52). -/
opaque freePage : Nat → Nat
/-- SHAKE256 of the ROM firmware, 32 bytes (R372). -/
opaque romDigest : List Byte
/-- The public system key in ROM (R375). -/
opaque systemKey : List Byte
/-- The window 0x00 offset of a partition's proxy mailbox (R362 PXBASE), which firmware chooses. -/
opaque proxyBase : Nat → Word
/-- Where in a partition's reserved memory firmware puts the mailbox, in units of 64 bytes (R365, R371, log entry 51). -/
opaque mailOffset : Nat → Nat

/-- SHAKE256 as FIPS 202 defines it (R358, R372, R374): a message and a length in bytes. -/
opaque shake256 : List Byte → Nat → List Byte
/-- Verification of a signature under a public key (R374): key, message, signature. -/
opaque sigVerify : List Byte → List Byte → List Byte → Bool
/-- A signature made with a private key (R358, R372): key handle, message. -/
opaque sigMake : Nat → List Byte → List Byte
/-- Authenticated encryption of a dump (R358): key, nonce, associated data, plain text; gives cipher text and tag. -/
opaque aead : List Byte → List Byte → List Byte → List Byte → List Byte
/-- CRC-64 of a record, where the spec names it and gives no polynomial. -/
opaque crc : List Byte → Nat

end Sys2Proof.Config
end

