-- ==== Sys2Proof/Syntax.lean ====
section
/-! DEFINITION. The instructions and the steps of the machine (R19-R32): one constructor for each row of the table of
operations and events. A row with a word has the word's fields as its arguments, register codes already resolved; a row
without a word has the object it acts on and what comes from outside. -/

namespace Sys2Proof

/-- Memory orders (R24). -/
inductive MOrd where
  | relaxed | acquire | release | acqRel
deriving DecidableEq, Repr

/-- Memory scopes, narrow to wide (R24). -/
inductive Scope where
  | hart | quay | die | module | domain | system
deriving DecidableEq, Repr

/-- The AtomicOps of PCI Express (R60, R360). -/
inductive HostOp where
  | fetchAdd | swap | cas
deriving DecidableEq, Repr

/-- What an ATS Translation Completion holds (R166): a translation of a range of `size` bytes from `base` with the
permissions it grants, or a completion with an error status. -/
inductive AtsAnswer where
  | mapped (base size bus : Nat) (r w : Bool)
  | failed
deriving DecidableEq, Repr

/-- A Quay instance that another module places here (R378): that module and its number for the launch, the launch record, which
every member maps at the same address, the partition, the Quay, the instance's indices at its levels above the harts, and for each level
where its barrier counter is (R378): 8 more than the rank of a Quay of that die, 192 times the module plus the Quay. -/
structure RemoteStart where
  module : Nat
  launch : Nat
  record : BitVec 72
  part   : Nat
  quay   : Nat
  index  : List Nat
  homes  : List Nat
deriving DecidableEq, Repr

/-- What a message between modules asks for (R377-R380, R388). The spec gives the layout of a flit and numbers no operations: which
operation number stands for what, and what the words of its payload are, is the model's choice (log entries 34 and 96).
`pause` and `replay` are the link's own: the sender stops or goes on, it sends its replay buffer again. A write or an atomic names its
writer as a home comparator records it (kind, slot or berth, Quay). `amo` asks the home for an atomic, `response` is its old value; `wait`
asks for the test of a FWAIT or FGET of a task, with a wait entry when the task is to park, `fset` for a setting, and `answer` says how the
future was found. `wake` tells the module of a waiter how the future has been set. `arrive`, `phase` and `halt` belong to
barrier groups that span modules, named by the launch's origin and number, the level and the indices above it; an arrival tells how many
BARVs the participant has made, whether it has ended, and its bartime (R330); `halt` that a participant is halted, or no longer.
`start` names the domain group, `ended` is an instance's end told to the origin, `lost` the end of a launch
told by its origin. `reset` says that a member of a domain group was destroyed or
reset; `allot` which comparators of a die there are allotted to the member there, `arm` that a member there sets a home comparator here,
allotted to the member here, with the address register that it reports (R351). The number of an atomic: 0 add, 1 swap, 2 compare and swap,
3 and 4 the signed and unsigned minimum, 5 and 6 the maximum, 7 and, 8 or, 9 exclusive or. -/
inductive LinkMsg where
  | other
  | pause (on : Bool)
  | replay
  | store (kind slot quay addr : Nat) (data : List Byte)
  | amo (tag fn kind slot quay addr width x y : Nat)
  | response (tag value : Nat)
  | wait (tag kind slot quay task addr group key : Nat) (park : Bool)
  | fset (tag kind slot quay addr value st : Nat)
  | answer (tag code value : Nat)
  | wake (addr st value : Nat)
  | arrive (origin launch level : Nat) (key : List Nat) (count : Nat) (last : Bool) (timeout : Nat)
  | phase (origin launch level : Nat) (key : List Nat) (done : Nat)
  | halt (origin launch level : Nat) (key : List Nat) (on : Bool)
  | start (group key : Nat) (r : RemoteStart)
  | ended (launch k : Nat) (code : BitVec 64) (fail : Bool)
  | lost (launch : Nat)
  | reset (group key : Nat)
  | allot (group key die mask : Nat)
  | arm (group key comp addr mask value : Nat)
deriving DecidableEq, Repr

/-- The instructions with a word, then the steps without one. -/
inductive Instr where
  /-- CSRR (R63). Reads a control register into a scalar register without writing it. -/
  | csrr (d : Fin 32) (c : BitVec 12)
  /-- CSRW (R63). Writes a scalar value to a control register field by field and returns the old value. -/
  | csrw (d : Fin 32) (a : Fin 32) (c : BitVec 12)
  /-- CSRS (R63). Sets the control register bits given by a scalar and returns the old value. -/
  | csrs (d : Fin 32) (a : Fin 32) (c : BitVec 12)
  /-- CSRC (R63). Clears the control register bits given by a scalar and returns the old value. -/
  | csrc (d : Fin 32) (a : Fin 32) (c : BitVec 12)
  /-- SVC (R65). Makes an implicit cut inside a strip and traps SVC with the service code, resuming after it. -/
  | svc (c : BitVec 12)
  /-- ERET (R338). Clears tctl.INH and resumes at tepc, continuing or restarting the strip as the trap left it. -/
  | eret
  /-- HALT (R356). Completes and stops the issuing agent, halting it for an attached debugger or parking it with a Report record. -/
  | halt
  /-- NOP (R67). Does nothing except advance instret. -/
  | nop
  /-- BRK (R66). Traps BRK precisely with the code, suspending an open strip after an implicit cut. -/
  | brk (c : BitVec 12)
  /-- TRCM (R354). Appends a mark record with a scalar and a code to the agent's memory trace ring. -/
  | trcm (a : Fin 32) (c : BitVec 12)
  /-- PFX (R28). Supplies 26 high bits that extend the immediate or offset of the instruction it governs. -/
  | pfx (i : BitVec 26)
  /-- FENCE (R217). Orders earlier operations before later ones at the named scope as an acquire, release or both. -/
  | fence (o : MOrd) (s : Scope)
  /-- VLSYNC (R218). Keeps the hart's earlier memory operations across all lane slices before its later ones at the named scope. -/
  | vlsync (s : Scope)
  /-- BARV (R329). Releases at the level's scope and arrives at the next phase of the level's barrier. -/
  | barv (l : Fin 8)
  /-- BARW (R329). Waits for the phase of the latest BARV to complete and acquires from every participant. -/
  | barw (l : Fin 8)
  /-- ADD (R47). Writes the 64-bit wrapping sum of two scalars. -/
  | add (d : Fin 32) (a : Fin 32) (b : Fin 32)
  /-- SUB (R47). Writes the 64-bit wrapping difference of two scalars. -/
  | sub (d : Fin 32) (a : Fin 32) (b : Fin 32)
  /-- AND (R47). Writes the bitwise AND of two scalars. -/
  | and (d : Fin 32) (a : Fin 32) (b : Fin 32)
  /-- OR (R47). Writes the bitwise OR of two scalars. -/
  | or (d : Fin 32) (a : Fin 32) (b : Fin 32)
  /-- XOR (R47). Writes the bitwise XOR of two scalars. -/
  | xor (d : Fin 32) (a : Fin 32) (b : Fin 32)
  /-- SLL (R47). Shifts a scalar left by the low six bits of another. -/
  | sll (d : Fin 32) (a : Fin 32) (b : Fin 32)
  /-- SRL (R47). Shifts a scalar right logically by the low six bits of another. -/
  | srl (d : Fin 32) (a : Fin 32) (b : Fin 32)
  /-- SRA (R47). Shifts a scalar right arithmetically by the low six bits of another. -/
  | sra (d : Fin 32) (a : Fin 32) (b : Fin 32)
  /-- SLT (R47). Writes 1 when the first scalar is less than the second, read signed. -/
  | slt (d : Fin 32) (a : Fin 32) (b : Fin 32)
  /-- SLTN (R47). Writes 1 when the first scalar is less than the second, read unsigned. -/
  | sltn (d : Fin 32) (a : Fin 32) (b : Fin 32)
  /-- MIN (R47). Writes the signed smaller of two scalars. -/
  | min (d : Fin 32) (a : Fin 32) (b : Fin 32)
  /-- MAX (R47). Writes the signed larger of two scalars. -/
  | max (d : Fin 32) (a : Fin 32) (b : Fin 32)
  /-- MINN (R47). Writes the unsigned smaller of two scalars. -/
  | minn (d : Fin 32) (a : Fin 32) (b : Fin 32)
  /-- MAXN (R47). Writes the unsigned larger of two scalars. -/
  | maxn (d : Fin 32) (a : Fin 32) (b : Fin 32)
  /-- CLZ (R47). Writes the number of leading zero bits of a scalar. -/
  | clz (d : Fin 32) (a : Fin 32)
  /-- POPC (R47). Writes the number of one bits of a scalar. -/
  | popc (d : Fin 32) (a : Fin 32)
  /-- ADDI (R48). Adds a sign-extended immediate to a scalar. -/
  | addi (d : Fin 32) (a : Fin 32) (i : BitVec 13)
  /-- ANDI (R48). ANDs a scalar with a sign-extended immediate. -/
  | andi (d : Fin 32) (a : Fin 32) (i : BitVec 13)
  /-- ORI (R48). ORs a scalar with a sign-extended immediate. -/
  | ori (d : Fin 32) (a : Fin 32) (i : BitVec 13)
  /-- XORI (R48). XORs a scalar with a sign-extended immediate. -/
  | xori (d : Fin 32) (a : Fin 32) (i : BitVec 13)
  /-- SLLI (R48). Shifts a scalar left by an immediate of 0 to 63. -/
  | slli (d : Fin 32) (a : Fin 32) (i : BitVec 13)
  /-- SRLI (R48). Shifts a scalar right logically by an immediate of 0 to 63. -/
  | srli (d : Fin 32) (a : Fin 32) (i : BitVec 13)
  /-- SRAI (R48). Shifts a scalar right arithmetically by an immediate of 0 to 63. -/
  | srai (d : Fin 32) (a : Fin 32) (i : BitVec 13)
  /-- SLTI (R48). Writes 1 when a scalar is less than a sign-extended immediate, read signed. -/
  | slti (d : Fin 32) (a : Fin 32) (i : BitVec 13)
  /-- LI (R49). Loads a sign-extended immediate into a scalar register. -/
  | li (d : Fin 32) (i : BitVec 21)
  /-- MUL (R50). Writes the low 64 bits of the signed product. -/
  | mul (d : Fin 32) (a : Fin 32) (b : Fin 32)
  /-- MULH (R50). Writes the high 64 bits of the signed product. -/
  | mulh (d : Fin 32) (a : Fin 32) (b : Fin 32)
  /-- MULHN (R50). Writes the high 64 bits of the unsigned product. -/
  | mulhn (d : Fin 32) (a : Fin 32) (b : Fin 32)
  /-- DIV (R50). Writes the signed quotient rounded toward zero, with fixed results for zero and overflow. -/
  | div (d : Fin 32) (a : Fin 32) (b : Fin 32)
  /-- DIVN (R50). Writes the unsigned quotient, all ones for a zero divisor. -/
  | divn (d : Fin 32) (a : Fin 32) (b : Fin 32)
  /-- REM (R50). Writes the signed remainder of the truncating division. -/
  | rem (d : Fin 32) (a : Fin 32) (b : Fin 32)
  /-- REMN (R50). Writes the unsigned remainder. -/
  | remn (d : Fin 32) (a : Fin 32) (b : Fin 32)
  /-- BEQ (R51). Branches when two scalars are equal. -/
  | beq (a : Fin 32) (b : Fin 32) (o : BitVec 13)
  /-- BNE (R51). Branches when two scalars differ. -/
  | bne (a : Fin 32) (b : Fin 32) (o : BitVec 13)
  /-- BLT (R51). Branches when the first scalar is less, read signed. -/
  | blt (a : Fin 32) (b : Fin 32) (o : BitVec 13)
  /-- BGE (R51). Branches when the first scalar is greater or equal, read signed. -/
  | bge (a : Fin 32) (b : Fin 32) (o : BitVec 13)
  /-- BLTN (R51). Branches when the first scalar is less, read unsigned. -/
  | bltn (a : Fin 32) (b : Fin 32) (o : BitVec 13)
  /-- BGEN (R51). Branches when the first scalar is greater or equal, read unsigned. -/
  | bgen (a : Fin 32) (b : Fin 32) (o : BitVec 13)
  /-- J (R52). Jumps by a signed word offset from the governed word. -/
  | j (o : BitVec 26)
  /-- CALL (R52). Writes the return address to a14 and jumps by a signed word offset. -/
  | call (o : BitVec 26)
  /-- JR (R53). Jumps to the address in an address register, trapping ALIGN on a misaligned target. -/
  | jr (a : Fin 16)
  /-- CALLR (R53). Jumps to the address in an address register and writes the return address to a14. -/
  | callr (a : Fin 16)
  /-- LDB (R55). Loads a sign-extended byte. -/
  | ldb (d : Fin 32) (a : Fin 16) (o : BitVec 13)
  /-- LDH (R55). Loads a sign-extended halfword. -/
  | ldh (d : Fin 32) (a : Fin 16) (o : BitVec 13)
  /-- LDW (R55). Loads a sign-extended word. -/
  | ldw (d : Fin 32) (a : Fin 16) (o : BitVec 13)
  /-- LDD (R55). Loads a doubleword. -/
  | ldd (d : Fin 32) (a : Fin 16) (o : BitVec 13)
  /-- LDBN (R55). Loads a zero-extended byte. -/
  | ldbn (d : Fin 32) (a : Fin 16) (o : BitVec 13)
  /-- LDHN (R55). Loads a zero-extended halfword. -/
  | ldhn (d : Fin 32) (a : Fin 16) (o : BitVec 13)
  /-- LDWN (R55). Loads a zero-extended word. -/
  | ldwn (d : Fin 32) (a : Fin 16) (o : BitVec 13)
  /-- LDA (R55). Loads a 72-bit address register from 16 bytes in STA layout. -/
  | lda (d : Fin 16) (a : Fin 16) (o : BitVec 13)
  /-- STB (R55). Stores the low byte of a scalar. -/
  | stb (d : Fin 32) (a : Fin 16) (o : BitVec 13)
  /-- STH (R55). Stores the low halfword of a scalar. -/
  | sth (d : Fin 32) (a : Fin 16) (o : BitVec 13)
  /-- STW (R55). Stores the low word of a scalar. -/
  | stw (d : Fin 32) (a : Fin 16) (o : BitVec 13)
  /-- STD (R55). Stores a scalar doubleword. -/
  | std (d : Fin 32) (a : Fin 16) (o : BitVec 13)
  /-- STA (R55). Stores an address register as 16 bytes in STA layout. -/
  | sta (d : Fin 16) (a : Fin 16) (o : BitVec 13)
  /-- AMOADD (R58). Atomically adds a scalar to memory and returns the old value. -/
  | amoadd (d : Fin 32) (a : Fin 16) (b : Fin 32) (w : Bool) (o : MOrd) (s : Scope)
  /-- AMOSWP (R58). Atomically swaps a scalar with memory and returns the old value. -/
  | amoswp (d : Fin 32) (a : Fin 16) (b : Fin 32) (w : Bool) (o : MOrd) (s : Scope)
  /-- AMOCAS (R58). Atomically compares memory with sd and writes sb when equal, returning the old value. -/
  | amocas (d : Fin 32) (a : Fin 16) (b : Fin 32) (w : Bool) (o : MOrd) (s : Scope)
  /-- AMOMIN (R58). Atomically stores the signed smaller value and returns the old value. -/
  | amomin (d : Fin 32) (a : Fin 16) (b : Fin 32) (w : Bool) (o : MOrd) (s : Scope)
  /-- AMOMAX (R58). Atomically stores the signed larger value and returns the old value. -/
  | amomax (d : Fin 32) (a : Fin 16) (b : Fin 32) (w : Bool) (o : MOrd) (s : Scope)
  /-- AMOAND (R58). Atomically ANDs a scalar into memory and returns the old value. -/
  | amoand (d : Fin 32) (a : Fin 16) (b : Fin 32) (w : Bool) (o : MOrd) (s : Scope)
  /-- AMOOR (R58). Atomically ORs a scalar into memory and returns the old value. -/
  | amoor (d : Fin 32) (a : Fin 16) (b : Fin 32) (w : Bool) (o : MOrd) (s : Scope)
  /-- AMOXOR (R58). Atomically XORs a scalar into memory and returns the old value. -/
  | amoxor (d : Fin 32) (a : Fin 16) (b : Fin 32) (w : Bool) (o : MOrd) (s : Scope)
  /-- AADD (R61). Adds a sign-extended scalar to an address register mod 2^72. -/
  | aadd (d : Fin 16) (a : Fin 16) (b : Fin 32)
  /-- AADDI (R61). Adds a sign-extended immediate to an address register mod 2^72. -/
  | aaddi (d : Fin 16) (a : Fin 16) (i : BitVec 13)
  /-- ASET (R61). Builds an address register from a window byte and a scalar plus an unsigned offset. -/
  | aset (d : Fin 16) (a : Fin 32) (i : BitVec 13)
  /-- ALO (R61). Copies the 64-bit offset of an address register into a scalar. -/
  | alo (d : Fin 32) (a : Fin 16)
  /-- AWN (R61). Copies the window byte of an address register into a scalar. -/
  | awn (d : Fin 32) (a : Fin 16)
  /-- ADIFF (R61). Writes the low 64 bits of the difference of two address registers. -/
  | adiff (d : Fin 32) (a : Fin 16) (b : Fin 16)
  /-- VSETL (R77). Ends any open strip, takes pre-emption or a lease step, and opens a strip with the granted VL under an immediate
  vtype. -/
  | vsetl (d : Fin 32) (a : Fin 32) (i : BitVec 13)
  /-- VSETLR (R77). Opens a strip as VSETL does with the vtype taken from a scalar register. -/
  | vsetlr (d : Fin 32) (a : Fin 32) (b : Fin 32)
  /-- VEND (R79). Ends an open strip by EndStrip. -/
  | vend
  /-- VCUT (R79). Makes an explicit cut that commits the buffer and takes a new checkpoint. -/
  | vcut
  /-- VADD (R112). Adds two vectors elementwise under the type in force. -/
  | vadd (d : Fin 48) (a : Fin 48) (b : Fin 48) (m : Option (Fin 12)) (h : Bool)
  /-- VSUB (R112). Subtracts two vectors elementwise. -/
  | vsub (d : Fin 48) (a : Fin 48) (b : Fin 48) (m : Option (Fin 12)) (h : Bool)
  /-- VMUL (R112). Multiplies two vectors elementwise. -/
  | vmul (d : Fin 48) (a : Fin 48) (b : Fin 48) (m : Option (Fin 12)) (h : Bool)
  /-- VMULH (R112). Writes the high half of each integer element product. -/
  | vmulh (d : Fin 48) (a : Fin 48) (b : Fin 48) (m : Option (Fin 12)) (h : Bool)
  /-- VDIV (R112). Divides two vectors elementwise. -/
  | vdiv (d : Fin 48) (a : Fin 48) (b : Fin 48) (m : Option (Fin 12)) (h : Bool)
  /-- VREM (R112). Writes the integer remainder of each element division (deprecated). -/
  | vrem (d : Fin 48) (a : Fin 48) (b : Fin 48) (m : Option (Fin 12)) (h : Bool)
  /-- VMIN (R112). Writes the elementwise minimum. -/
  | vmin (d : Fin 48) (a : Fin 48) (b : Fin 48) (m : Option (Fin 12)) (h : Bool)
  /-- VMAX (R112). Writes the elementwise maximum. -/
  | vmax (d : Fin 48) (a : Fin 48) (b : Fin 48) (m : Option (Fin 12)) (h : Bool)
  /-- VMAC (R112). Accumulates the product of two vectors into vd with one rounding. -/
  | vmac (d : Fin 48) (a : Fin 48) (b : Fin 48) (m : Option (Fin 12)) (h : Bool)
  /-- VNMAC (R112). Subtracts the product of two vectors from vd with one rounding. -/
  | vnmac (d : Fin 48) (a : Fin 48) (b : Fin 48) (m : Option (Fin 12)) (h : Bool)
  /-- VAND (R112). ANDs two vectors elementwise. -/
  | vand (d : Fin 48) (a : Fin 48) (b : Fin 48) (m : Option (Fin 12)) (h : Bool)
  /-- VOR (R112). ORs two vectors elementwise. -/
  | vor (d : Fin 48) (a : Fin 48) (b : Fin 48) (m : Option (Fin 12)) (h : Bool)
  /-- VXOR (R112). XORs two vectors elementwise. -/
  | vxor (d : Fin 48) (a : Fin 48) (b : Fin 48) (m : Option (Fin 12)) (h : Bool)
  /-- VSHL (R112). Shifts each element left. -/
  | vshl (d : Fin 48) (a : Fin 48) (b : Fin 48) (m : Option (Fin 12)) (h : Bool)
  /-- VSHR (R112). Shifts each element right logically. -/
  | vshr (d : Fin 48) (a : Fin 48) (b : Fin 48) (m : Option (Fin 12)) (h : Bool)
  /-- VSRA (R112). Shifts each element right arithmetically. -/
  | vsra (d : Fin 48) (a : Fin 48) (b : Fin 48) (m : Option (Fin 12)) (h : Bool)
  /-- VADD_VS (R112). Adds a scalar to each vector element. -/
  | vaddVs (d : Fin 48) (a : Fin 48) (b : Fin 32) (x : Bool) (m : Option (Fin 12)) (h : Bool)
  /-- VSUB_VS (R112). Subtracts between a vector and a scalar in the order x selects. -/
  | vsubVs (d : Fin 48) (a : Fin 48) (b : Fin 32) (x : Bool) (m : Option (Fin 12)) (h : Bool)
  /-- VMUL_VS (R112). Multiplies each vector element by a scalar. -/
  | vmulVs (d : Fin 48) (a : Fin 48) (b : Fin 32) (x : Bool) (m : Option (Fin 12)) (h : Bool)
  /-- VMULH_VS (R112). Writes the high half of each element's product with a scalar. -/
  | vmulhVs (d : Fin 48) (a : Fin 48) (b : Fin 32) (x : Bool) (m : Option (Fin 12)) (h : Bool)
  /-- VDIV_VS (R112). Divides between a vector and a scalar elementwise. -/
  | vdivVs (d : Fin 48) (a : Fin 48) (b : Fin 32) (x : Bool) (m : Option (Fin 12)) (h : Bool)
  /-- VREM_VS (R112). Writes integer remainders between a vector and a scalar (deprecated). -/
  | vremVs (d : Fin 48) (a : Fin 48) (b : Fin 32) (x : Bool) (m : Option (Fin 12)) (h : Bool)
  /-- VMIN_VS (R112). Writes the minimum of each element and a scalar. -/
  | vminVs (d : Fin 48) (a : Fin 48) (b : Fin 32) (x : Bool) (m : Option (Fin 12)) (h : Bool)
  /-- VMAX_VS (R112). Writes the maximum of each element and a scalar. -/
  | vmaxVs (d : Fin 48) (a : Fin 48) (b : Fin 32) (x : Bool) (m : Option (Fin 12)) (h : Bool)
  /-- VMAC_VS (R112). Accumulates each element times a scalar into vd. -/
  | vmacVs (d : Fin 48) (a : Fin 48) (b : Fin 32) (x : Bool) (m : Option (Fin 12)) (h : Bool)
  /-- VNMAC_VS (R112). Subtracts each element times a scalar from vd. -/
  | vnmacVs (d : Fin 48) (a : Fin 48) (b : Fin 32) (x : Bool) (m : Option (Fin 12)) (h : Bool)
  /-- VAND_VS (R112). ANDs each element with a scalar. -/
  | vandVs (d : Fin 48) (a : Fin 48) (b : Fin 32) (x : Bool) (m : Option (Fin 12)) (h : Bool)
  /-- VOR_VS (R112). ORs each element with a scalar. -/
  | vorVs (d : Fin 48) (a : Fin 48) (b : Fin 32) (x : Bool) (m : Option (Fin 12)) (h : Bool)
  /-- VXOR_VS (R112). XORs each element with a scalar. -/
  | vxorVs (d : Fin 48) (a : Fin 48) (b : Fin 32) (x : Bool) (m : Option (Fin 12)) (h : Bool)
  /-- VSHL_VS (R112). Shifts left between a vector and a scalar. -/
  | vshlVs (d : Fin 48) (a : Fin 48) (b : Fin 32) (x : Bool) (m : Option (Fin 12)) (h : Bool)
  /-- VSHR_VS (R112). Shifts right logically between a vector and a scalar. -/
  | vshrVs (d : Fin 48) (a : Fin 48) (b : Fin 32) (x : Bool) (m : Option (Fin 12)) (h : Bool)
  /-- VSRA_VS (R112). Shifts right arithmetically between a vector and a scalar. -/
  | vsraVs (d : Fin 48) (a : Fin 48) (b : Fin 32) (x : Bool) (m : Option (Fin 12)) (h : Bool)
  /-- VADD_VI (R112). Adds a sign-extended immediate to each element. -/
  | vaddVi (d : Fin 48) (a : Fin 48) (i : BitVec 6) (m : Option (Fin 12)) (h : Bool)
  /-- VSUB_VI (R112). Subtracts a sign-extended immediate from each element. -/
  | vsubVi (d : Fin 48) (a : Fin 48) (i : BitVec 6) (m : Option (Fin 12)) (h : Bool)
  /-- VAND_VI (R112). ANDs each integer element with an immediate. -/
  | vandVi (d : Fin 48) (a : Fin 48) (i : BitVec 6) (m : Option (Fin 12)) (h : Bool)
  /-- VOR_VI (R112). ORs each integer element with an immediate. -/
  | vorVi (d : Fin 48) (a : Fin 48) (i : BitVec 6) (m : Option (Fin 12)) (h : Bool)
  /-- VXOR_VI (R112). XORs each integer element with an immediate. -/
  | vxorVi (d : Fin 48) (a : Fin 48) (i : BitVec 6) (m : Option (Fin 12)) (h : Bool)
  /-- VSHL_VI (R112). Shifts each element left by an immediate. -/
  | vshlVi (d : Fin 48) (a : Fin 48) (i : BitVec 6) (m : Option (Fin 12)) (h : Bool)
  /-- VSHR_VI (R112). Shifts each element right logically by an immediate. -/
  | vshrVi (d : Fin 48) (a : Fin 48) (i : BitVec 6) (m : Option (Fin 12)) (h : Bool)
  /-- VSRA_VI (R112). Shifts each element right arithmetically by an immediate. -/
  | vsraVi (d : Fin 48) (a : Fin 48) (i : BitVec 6) (m : Option (Fin 12)) (h : Bool)
  /-- VABS (R113). Writes the absolute value of each element. -/
  | vabs (d : Fin 48) (a : Fin 48) (m : Option (Fin 12)) (h : Bool)
  /-- VNEG (R113). Negates each element. -/
  | vneg (d : Fin 48) (a : Fin 48) (m : Option (Fin 12)) (h : Bool)
  /-- VSQRT (R113). Writes the correctly rounded square root of each float element. -/
  | vsqrt (d : Fin 48) (a : Fin 48) (m : Option (Fin 12)) (h : Bool)
  /-- VEXP2 (R113). Writes the correctly rounded 2^x of each float element. -/
  | vexp2 (d : Fin 48) (a : Fin 48) (m : Option (Fin 12)) (h : Bool)
  /-- VLOG2 (R113). Writes the correctly rounded log2 of each float element. -/
  | vlog2 (d : Fin 48) (a : Fin 48) (m : Option (Fin 12)) (h : Bool)
  /-- VCLZ (R113). Counts the leading zeros of each integer element. -/
  | vclz (d : Fin 48) (a : Fin 48) (m : Option (Fin 12)) (h : Bool)
  /-- VPOPC (R113). Counts the one bits of each integer element. -/
  | vpopc (d : Fin 48) (a : Fin 48) (m : Option (Fin 12)) (h : Bool)
  /-- VMV (R113). Copies each element bit for bit. -/
  | vmv (d : Fin 48) (a : Fin 48) (m : Option (Fin 12)) (h : Bool)
  /-- VCMPEQ (R114). Sets mask bits where elements are equal. -/
  | vcmpeq (d : Fin 12) (a : Fin 48) (b : Fin 48) (m : Option (Fin 12)) (h : Bool)
  /-- VCMPNE (R114). Sets mask bits where elements differ. -/
  | vcmpne (d : Fin 12) (a : Fin 48) (b : Fin 48) (m : Option (Fin 12)) (h : Bool)
  /-- VCMPLT (R114). Sets mask bits where the first element is less. -/
  | vcmplt (d : Fin 12) (a : Fin 48) (b : Fin 48) (m : Option (Fin 12)) (h : Bool)
  /-- VCMPLE (R114). Sets mask bits where the first element is less or equal. -/
  | vcmple (d : Fin 12) (a : Fin 48) (b : Fin 48) (m : Option (Fin 12)) (h : Bool)
  /-- VCMPGT (R114). Sets mask bits where the first element is greater. -/
  | vcmpgt (d : Fin 12) (a : Fin 48) (b : Fin 48) (m : Option (Fin 12)) (h : Bool)
  /-- VCMPGE (R114). Sets mask bits where the first element is greater or equal. -/
  | vcmpge (d : Fin 12) (a : Fin 48) (b : Fin 48) (m : Option (Fin 12)) (h : Bool)
  /-- VCMPLTN (R114). Sets mask bits for unsigned less, or less-or-unordered under float. -/
  | vcmpltn (d : Fin 12) (a : Fin 48) (b : Fin 48) (m : Option (Fin 12)) (h : Bool)
  /-- VCMPGEN (R114). Sets mask bits for unsigned greater-or-equal, or greater-equal-or-unordered under float. -/
  | vcmpgen (d : Fin 12) (a : Fin 48) (b : Fin 48) (m : Option (Fin 12)) (h : Bool)
  /-- MAND (R115). ANDs two mask registers. -/
  | mand (d : Fin 12) (a : Fin 12) (b : Fin 12) (m : Option (Fin 12)) (h : Bool)
  /-- MOR (R115). ORs two mask registers. -/
  | mor (d : Fin 12) (a : Fin 12) (b : Fin 12) (m : Option (Fin 12)) (h : Bool)
  /-- MXOR (R115). XORs two mask registers. -/
  | mxor (d : Fin 12) (a : Fin 12) (b : Fin 12) (m : Option (Fin 12)) (h : Bool)
  /-- MANDN (R115). ANDs a mask with the complement of another. -/
  | mandn (d : Fin 12) (a : Fin 12) (b : Fin 12) (m : Option (Fin 12)) (h : Bool)
  /-- MSET (R115). Sets the active bits of a mask register. -/
  | mset (d : Fin 12) (m : Option (Fin 12)) (h : Bool)
  /-- MCLR (R115). Clears the active bits of a mask register. -/
  | mclr (d : Fin 12) (m : Option (Fin 12)) (h : Bool)
  /-- MCNT (R116). Counts the set active bits of a mask into a scalar. -/
  | mcnt (d : Fin 32) (a : Fin 12) (m : Option (Fin 12)) (h : Bool)
  /-- MFIRST (R116). Writes the index of the first set active mask bit, or all ones. -/
  | mfirst (d : Fin 32) (a : Fin 12) (m : Option (Fin 12)) (h : Bool)
  /-- MBRKB (R116). Sets mask bits for the elements before the first set bit. -/
  | mbrkb (d : Fin 12) (a : Fin 12) (m : Option (Fin 12)) (h : Bool)
  /-- MBRKI (R116). Sets mask bits for the elements up to and including the first set bit. -/
  | mbrki (d : Fin 12) (a : Fin 12) (m : Option (Fin 12)) (h : Bool)
  /-- VBCAST (R117). Broadcasts a scalar into the active elements. -/
  | vbcast (d : Fin 48) (a : Fin 32) (m : Option (Fin 12)) (h : Bool)
  /-- VINS (R117). Inserts a scalar at one element index. -/
  | vins (d : Fin 48) (a : Fin 32) (b : Fin 32) (h : Bool)
  /-- VEXT (R117). Extracts one element into a scalar. -/
  | vext (d : Fin 32) (a : Fin 48) (b : Fin 32) (h : Bool)
  /-- VLAST (R117). Moves the last active element into a scalar. -/
  | vlast (d : Fin 32) (a : Fin 48) (m : Option (Fin 12)) (h : Bool)
  /-- VIDX (R117). Writes each active element's index. -/
  | vidx (d : Fin 48) (m : Option (Fin 12)) (h : Bool)
  /-- VSLUP (R117). Slides elements up by a scalar count. -/
  | vslup (d : Fin 48) (a : Fin 48) (b : Fin 32) (m : Option (Fin 12)) (h : Bool)
  /-- VSLDN (R117). Slides elements down by a scalar count, filling with zero. -/
  | vsldn (d : Fin 48) (a : Fin 48) (b : Fin 32) (m : Option (Fin 12)) (h : Bool)
  /-- VPERM (R117). Gathers elements of va by the indices in vb. -/
  | vperm (d : Fin 48) (a : Fin 48) (b : Fin 48) (m : Option (Fin 12)) (h : Bool)
  /-- VCMPR (R118). Compresses the active elements to the front of vd. -/
  | vcmpr (d : Fin 48) (a : Fin 48) (m : Option (Fin 12)) (h : Bool)
  /-- VEXPD (R118). Expands leading elements of va into the active positions. -/
  | vexpd (d : Fin 48) (a : Fin 48) (m : Option (Fin 12)) (h : Bool)
  /-- VMERGE (R118). Writes va where active and vb elsewhere below VL. -/
  | vmerge (d : Fin 48) (a : Fin 48) (b : Fin 48) (m : Option (Fin 12)) (h : Bool)
  /-- VREDSUM (R121). Writes the fixed-tree sum of each segment. -/
  | vredsum (d : Fin 48) (a : Fin 48) (m : Option (Fin 12)) (h : Bool)
  /-- VREDOSUM (R122). Writes the sequential sum of each segment. -/
  | vredosum (d : Fin 48) (a : Fin 48) (m : Option (Fin 12)) (h : Bool)
  /-- VREDMIN (R120). Writes the least element of each segment. -/
  | vredmin (d : Fin 48) (a : Fin 48) (m : Option (Fin 12)) (h : Bool)
  /-- VREDMAX (R120). Writes the greatest element of each segment. -/
  | vredmax (d : Fin 48) (a : Fin 48) (m : Option (Fin 12)) (h : Bool)
  /-- VSCAN (R120). Writes the running sequential sum within each segment. -/
  | vscan (d : Fin 48) (a : Fin 48) (m : Option (Fin 12)) (h : Bool)
  /-- VCVT (R141). Converts each element to type T under the selected rounding. -/
  | vcvt (d : Fin 48) (a : Fin 48) (r : BitVec 2) (t : BitVec 4) (m : Option (Fin 12)) (h : Bool)
  /-- VQNT (R142). Quantizes float elements into a code image with the group parameters in force. -/
  | vqnt (d : Fin 48) (a : Fin 48) (r : BitVec 2) (q : Bool) (k : BitVec 2) (m : Option (Fin 12)) (h : Bool)
  /-- VDQNT (R142). Dequantizes a code image into float elements. -/
  | vdqnt (d : Fin 48) (a : Fin 48) (r : BitVec 2) (q : Bool) (k : BitVec 2) (m : Option (Fin 12)) (h : Bool)
  /-- VTOPK (R143). Marks the k largest active elements of each segment in a mask. -/
  | vtopk (d : Fin 12) (a : Fin 48) (b : Fin 32) (m : Option (Fin 12)) (h : Bool)
  /-- VTOPK_ABS (R143). Marks the k largest-magnitude active elements of each segment in a mask. -/
  | vtopkAbs (d : Fin 12) (a : Fin 48) (b : Fin 32) (m : Option (Fin 12)) (h : Bool)
  /-- VCONF (R147). Writes for each active element the latest earlier active element with the same pattern. -/
  | vconf (d : Fin 48) (a : Fin 48) (m : Option (Fin 12)) (h : Bool)
  /-- VPART (R148). Writes the mask of the dependence-free run that begins at start. -/
  | vpart (d : Fin 12) (a : Fin 48) (b : Fin 32) (m : Option (Fin 12)) (h : Bool)
  /-- VPARTE (R148). Writes the end of the dependence-free run that begins at start. -/
  | vparte (d : Fin 32) (a : Fin 48) (b : Fin 32) (m : Option (Fin 12)) (h : Bool)
  /-- VSEGL (R150). Packs whole rows into the strip, trims VL, marks row heads and sets segm. -/
  | vsegl (d : Fin 32) (a : Fin 48) (b : Fin 12) (h : Bool)
  /-- VLD (R176). Loads consecutive elements from memory. -/
  | vld (d : Fin 48) (a : Fin 16) (b : Fin 32) (m : Option (Fin 12)) (n : Bool)
  /-- VLDS (R176). Loads elements at a byte stride. -/
  | vlds (d : Fin 48) (a : Fin 16) (b : Fin 32) (m : Option (Fin 12)) (n : Bool)
  /-- VLDX (R176). Gathers elements at offsets from an index vector. -/
  | vldx (d : Fin 48) (a : Fin 16) (b : Fin 48) (m : Option (Fin 12)) (n : Bool) (c : Bool)
  /-- VLDFF (R179). Loads consecutive elements, trimming VL at the first faulting element after the first. -/
  | vldff (d : Fin 48) (a : Fin 16) (b : Fin 32) (m : Option (Fin 12)) (n : Bool)
  /-- VLDC (R183). Expands a packed sparse block into vector elements. -/
  | vldc (d : Fin 48) (a : Fin 16) (b : Fin 32) (m : Option (Fin 12)) (n : Bool)
  /-- VST (R177). Stores consecutive elements, writing zero-point codes into q-type padding. -/
  | vst (d : Fin 48) (a : Fin 16) (b : Fin 32) (m : Option (Fin 12)) (n : Bool)
  /-- VSTS (R177). Stores elements at a byte stride. -/
  | vsts (d : Fin 48) (a : Fin 16) (b : Fin 32) (m : Option (Fin 12)) (n : Bool)
  /-- VSTX (R177). Scatters elements to offsets from an index vector. -/
  | vstx (d : Fin 48) (a : Fin 16) (b : Fin 48) (m : Option (Fin 12)) (n : Bool) (c : Bool)
  /-- VSTC (R182). Writes the active non-zero elements as a packed sparse block within a capacity. -/
  | vstc (d : Fin 48) (a : Fin 16) (b : Fin 32) (m : Option (Fin 12)) (n : Bool)
  /-- VAMOADD (R185). Performs an atomic add per active element and returns old values. -/
  | vamoadd (d : Fin 48) (a : Fin 16) (b : Fin 48) (m : Option (Fin 12)) (o : MOrd)
  /-- VAMOSWP (R185). Performs an atomic swap per active element. -/
  | vamoswp (d : Fin 48) (a : Fin 16) (b : Fin 48) (m : Option (Fin 12)) (o : MOrd)
  /-- VAMOCAS (R185). Performs an atomic compare-and-swap per active element. -/
  | vamocas (d : Fin 48) (a : Fin 16) (b : Fin 48) (m : Option (Fin 12)) (o : MOrd)
  /-- VAMOMIN (R185). Performs an atomic minimum per active element. -/
  | vamomin (d : Fin 48) (a : Fin 16) (b : Fin 48) (m : Option (Fin 12)) (o : MOrd)
  /-- VAMOMAX (R185). Performs an atomic maximum per active element. -/
  | vamomax (d : Fin 48) (a : Fin 16) (b : Fin 48) (m : Option (Fin 12)) (o : MOrd)
  /-- VAMOAND (R185). Performs an atomic AND per active element. -/
  | vamoand (d : Fin 48) (a : Fin 16) (b : Fin 48) (m : Option (Fin 12)) (o : MOrd)
  /-- VAMOOR (R185). Performs an atomic OR per active element. -/
  | vamoor (d : Fin 48) (a : Fin 16) (b : Fin 48) (m : Option (Fin 12)) (o : MOrd)
  /-- VAMOXOR (R185). Performs an atomic XOR per active element. -/
  | vamoxor (d : Fin 48) (a : Fin 16) (b : Fin 48) (m : Option (Fin 12)) (o : MOrd)
  /-- VAMOCASW (R187). Performs a 128-bit compare-and-swap on each active element pair. -/
  | vamocasw (d : Fin 48) (a : Fin 16) (b : Fin 48) (m : Option (Fin 12)) (o : MOrd)
  /-- BRST (R232). Opens a berth for the issuer after its copies land, zeroing its counters and fault. -/
  | brst (n : Fin 16)
  /-- BRST_FREE (R232). Frees a berth owned by the issuer after its copies land. -/
  | brstFree (n : Fin 16)
  /-- GTHW (R233). Pushes a gather of memory rows into Wharf slots on a berth. -/
  | gthw (n : Fin 16) (a : Fin 16) (b : Fin 48) (m : Option (Fin 12)) (s : BitVec 2)
  /-- GTHV (R233). Pushes a gather of memory elements that land into a renamed vector register. -/
  | gthv (d : Fin 48) (a : Fin 16) (b : Fin 48) (n : Fin 16) (s : BitVec 2)
  /-- GTHV_FF (R236). Pushes a vector gather that stops at the first failing element after the first. -/
  | gthvFf (d : Fin 48) (a : Fin 16) (b : Fin 48) (n : Fin 16) (s : BitVec 2)
  /-- SCTW (R233). Pushes a scatter of Wharf slots to memory rows on a berth. -/
  | sctw (n : Fin 16) (a : Fin 16) (b : Fin 48) (m : Option (Fin 12)) (s : BitVec 2)
  /-- BCPY (R233). Pushes a strided block copy of n rows on a berth. -/
  | bcpy (n : Fin 16) (s : Fin 16) (c : Fin 32) (d : Fin 16) (p : BitVec 2)
  /-- BAVL (R237). Returns a berth's available count and acquires the landed elements, trapping on a recorded fault. -/
  | bavl (d : Fin 32) (n : Fin 16)
  /-- WAITC (R238). Waits until the agent's load, store, copy and tile counts are within the limits. -/
  | waitc (l : BitVec 5) (s : BitVec 5) (c : BitVec 5) (t : BitVec 5)
  /-- SEAL (R189). Freezes a region of SEALABLE pages against stores after waiting for accepted stores. -/
  | seal (d : Fin 32) (a : Fin 16)
  /-- UNSEAL (R191). Frees a sealed region after its replicas are dropped. -/
  | unseal (a : Fin 16)
  /-- PREF (R192). Hints a 64-byte line toward the die cache without any architectural effect. -/
  | pref (h : Bool) (a : Fin 16) (o : BitVec 13)
  /-- FLUSH (R193). Writes back and drops a line, or drains a write-combining line, by window. -/
  | flush (a : Fin 16) (o : BitVec 13)
  /-- TLD (R259). Appends a lazy tile-load node and enters a watch range. -/
  | tld (d : Fin 8) (a : Fin 16) (b : Fin 32)
  /-- TST (R260). Forces and stores a rectangle of a tile version to memory. -/
  | tst (d : Fin 8) (a : Fin 16) (b : Fin 32) (c : Fin 32)
  /-- TFORCE (R259). Synchronously forces a rectangle of a tile version. -/
  | tforce (d : Fin 8) (c : Fin 32)
  /-- TDROP (R259). Removes a tile register's current version and discards unreachable nodes. -/
  | tdrop (d : Fin 8)
  /-- TZERO (R259). Appends a node whose version is all zero. -/
  | tzero (d : Fin 8)
  /-- TFORCE_A (R251). Starts an asynchronous force of a rectangle and completes at once. -/
  | tforceA (d : Fin 8) (c : Fin 32)
  /-- TMMA (R263). Appends a tile multiply-accumulate node. -/
  | tmma (d : Fin 8) (a : Fin 8) (b : Fin 8)
  /-- TQMMA (R263). Appends a quantized tile multiply-accumulate node with group parameters. -/
  | tqmma (d : Fin 8) (a : Fin 8) (b : Fin 8) (g : BitVec 2) (q : Fin 8) (p : Fin 8)
  /-- TEW (R263). Appends an elementwise tile operation node. -/
  | tew (d : Fin 8) (a : Fin 8) (b : Fin 8) (o : BitVec 3)
  /-- TACT (R263). Appends a tile activation node. -/
  | tact (d : Fin 8) (a : Fin 8) (s : Fin 32) (o : BitVec 3)
  /-- TRED (R263). Appends a tile row or column reduction node. -/
  | tred (d : Fin 8) (a : Fin 8) (o : BitVec 2) (r : Bool)
  /-- TVIEW (R262). Appends an affine-mapped view node of a tile. -/
  | tview (d : Fin 8) (a : Fin 8) (s : Fin 32)
  /-- TFEED (R265). Writes one row of a tile register from a vector register, creating the version if needed. -/
  | tfeed (d : Fin 8) (s : Fin 32) (v : Fin 48)
  /-- TDRAIN (R266). Forces and reads one row of a tile register into a vector register. -/
  | tdrain (d : Fin 8) (s : Fin 32) (v : Fin 48)
  /-- TSTAT (R267). Reads a tile engine counter selected by sel into a scalar. -/
  | tstat (d : Fin 8) (s : Fin 32) (l : BitVec 4)
  /-- GBIND (R285). Binds a walker slot to a grammar image after checking its header. -/
  | gbind (d : Fin 16) (a : Fin 32)
  /-- GBIND_FREE (R285). Unbinds a walker slot. -/
  | gbindFree (a : Fin 32)
  /-- GSTEP (R286). Offers a token to a walker slot all or nothing and writes the status word. -/
  | gstep (d : Fin 32) (a : Fin 32) (b : Fin 32)
  /-- GMASK (R287). Writes the allowed-next-token mask of a slot to memory. -/
  | gmask (d : Fin 16) (a : Fin 32) (f : Bool)
  /-- GCKPT (R288). Appends a checkpoint of a walker slot. -/
  | gckpt (a : Fin 32)
  /-- GROLL (R289). Rolls a walker slot back to a checkpoint by undoing its log. -/
  | groll (a : Fin 32) (b : Fin 32)
  /-- GFORK (R290). Copies one walker slot into another. -/
  | gfork (d : Fin 32) (a : Fin 32)
  /-- GSAVE (R292). Writes a walker slot's record to memory with a tag. -/
  | gsave (d : Fin 16) (a : Fin 32) (b : Fin 32)
  /-- GREST (R293). Restores a walker slot from a record in memory and returns its tag. -/
  | grest (d : Fin 32) (a : Fin 32) (b : Fin 16)
  /-- GSTAT (R294). Reads a walker slot's status, state, stack top or log length. -/
  | gstat (d : Fin 32) (a : Fin 32) (s : BitVec 2)
  /-- SPAWN (R322). Appends a delta-coded task record to a task queue ring after a release. -/
  | spawn (d : Fin 32) (a : Fin 16) (b : Fin 16) (s : Scope)
  /-- LEASE (R323). Requests a new lane-quad lease that applies at the next VSETL. -/
  | lease (a : Fin 32) (b : Fin 32)
  /-- FSET (R324). Releases and sets a future's value, waking any waiters. -/
  | fset (a : Fin 16) (b : Fin 32) (s : Scope)
  /-- FWAIT (R324). Parks until a future is set and returns its state with an acquire. -/
  | fwait (d : Fin 32) (a : Fin 16) (s : Scope)
  /-- FGET (R324). Parks until a future is set and returns its value with an acquire. -/
  | fget (d : Fin 32) (a : Fin 16) (s : Scope)
  /-- EXIT (R325). Ends the task: frees berths, arrives at barriers, releases, returns quads and sets completion. -/
  | exit (b : Fin 32) (s : Scope)
  /-- YIELD (R326). Ends any strip, saves the context and requeues the task at its priority. -/
  | yield
  /-- TMMAS (R40). Appends a 2:4 structured-sparse tile multiply-accumulate node on stepping B0. -/
  | tmmas (d : Fin 8) (a : Fin 8) (b : Fin 8) (m : Fin 8)
  /-- WHASH_WRITE (R221). Waits for the Wharf to go idle and installs legal new bank hash masks. -/
  | whashWrite (q : Nat) (ix : Nat) (v : Word)
  /-- PART_CREATE (R371). Creates a partition from a PART_CREATE block with its Piers, VFs, memory and keys. -/
  | partCreate (f : Nat)
  /-- PART_DESTROY (R371). Halts and discards everything of a partition and frees its Piers and VFs. -/
  | partDestroy (f : Nat)
  /-- PART_RESET (R371). Discards a partition's contexts and state while keeping the partition and journal. -/
  | partReset (f : Nat)
  /-- CODE_LOAD (R375). Checks and maps an RCO code object and returns a handle. -/
  | codeLoad (f : Nat)
  /-- CODE_UNLOAD (R349). Unloads a code object, failing BUSY or dooming contexts with FORCE. -/
  | codeUnload (f : Nat)
  /-- CTX_CREATE (R371). Creates a context with zeroed state on a Quay set with a PASID and trap page. -/
  | ctxCreate (f : Nat)
  /-- CTX_SAVE (R345). Soft-pre-empts a context and writes its context image. -/
  | ctxSave (f : Nat)
  /-- CTX_RESTORE (R348). Restores a context image onto a Quay set subject to feature and lane checks. -/
  | ctxRestore (f : Nat)
  /-- QUEUE_CREATE (R371). Creates or resets a host launch queue or task queue. -/
  | queueCreate (f : Nat)
  /-- QUEUE_DESTROY (R371). Waits for started entries and frees a queue. -/
  | queueDestroy (f : Nat)
  /-- DUMP_GRANT (R371). Makes a dump slot readable by the partition's VFs, or frees it with RELEASE. -/
  | dumpGrant (f : Nat)
  /-- JOURNAL_READ (R373). Copies command journal records to a host buffer. -/
  | journalRead (f : Nat)
  /-- ATTEST (R372). Writes a signed attestation report with firmware digest, stepping, partition map and nonce. -/
  | attest (f : Nat)
  /-- RESOLVE (R342). Marks a replayable trap record resolved so its waiting source resumes. -/
  | resolve (f : Nat)
  /-- PROXY_DONE (R365). Marks a proxy mailbox entry done so the waiting agent takes the old values and resumes. -/
  | proxyDone (f : Nat)
  /-- HWC_ALLOT (R371). Allots or frees home comparators of a die for a partition. -/
  | hwcAllot (f : Nat)
  /-- ATTACH (R357). Attaches a debugger to a context of the function's partition. -/
  | attach (f : Nat)
  /-- DETACH (R357). Detaches the debugger and resumes every agent it halted. -/
  | detach (f : Nat)
  /-- DEBUG_HALT (R355). Halts an agent at its next instruction boundary and raises DEBUG_HALT to the debugger. -/
  | debugHalt (f : Nat)
  /-- RESUME (R355). Continues a halted agent. -/
  | resume (f : Nat)
  /-- STEP (R355). Executes one instruction or PFX group of a halted agent and halts it again. -/
  | stepCmd (f : Nat)
  /-- READ (R357). Reads a register, CSR, PC or checkpoint item of a halted agent. -/
  | readCmd (f : Nat)
  /-- WRITE (R357). Writes a register, CSR or PC of a halted agent. -/
  | writeCmd (f : Nat)
  /-- BUFFER (R355). Reads the strip store buffer of a halted hart into a host buffer. -/
  | bufferCmd (f : Nat)
  /-- FREEZE (R355). Stops the Quay's BTE so that no copy starts or lands. -/
  | freeze (f : Nat)
  /-- THAW (R355). Restarts a frozen BTE. -/
  | thaw (f : Nat)
  /-- NODES (R355). Reads the tile section of the context as it stands. -/
  | nodes (f : Nat)
  /-- DFORCE (R355). Forces a rectangle of a version for the debugger, returning any fault to it. -/
  | dforce (f : Nat)
  /-- RINGS (R355). Reads both trace rings of an agent. -/
  | rings (f : Nat)
  /-- PARTHALT (R357). Halts every agent of the partition and stops its host launch queues. -/
  | parthalt (f : Nat)
  /-- PARTRESUME (R357). Undoes PARTHALT. -/
  | partresume (f : Nat)
  /-- CRCTL_WRITE (R370). Sets the command ring size and enable, resetting CRHEAD and ERR when enabled. -/
  | crctlWrite (f : Nat) (v : Word)
  /-- CRBASE_WRITE (R370). Sets the command ring base, ignored while the ring is enabled. -/
  | crbaseWrite (f : Nat) (v : Word)
  /-- CRTAIL_WRITE (R370). Advances the command ring tail, or sets ERR for an out-of-range tail. -/
  | crtailWrite (f : Nat) (v : Word)
  /-- TQCONS_WRITE (R342). Advances the trap-queue consumer index, freeing record slots. -/
  | tqconsWrite (f : Nat) (v : Word)
  /-- INVGO (R363). Starts a TLB invalidation of the page range in INVADDR and INVLEN. -/
  | invgo (f : Nat) (v : Word)
  /-- INVALIDATION_DONE (R165). Completes an invalidation once no translation or dependent access or buffered granule remains. -/
  | invalidationDone (f : Nat)
  /-- ATOMLACK_WRITE (R364). Clears a port's ATOMLACK bit by writing 1. -/
  | atomlackWrite (v : Word)
  /-- CTXIRQ (R362). Sets ipend.HOST of the named agents of an owned context. -/
  | ctxirq (f : Nat) (v : Word)
  /-- QTAIL (R368). Advances a host launch queue's tail, stopping the queue if out of range. -/
  | qtail (f : Nat) (q : Nat) (v : Word)
  /-- REGISTER_WRITE (R362). Writes a device register that has no behaviour of its own. -/
  | registerWrite (f : Nat) (off : Nat) (v : Word)
  /-- BAR2_READ (R360). Serves a host read through the BAR2 aperture under the partition's page tables. -/
  | bar2Read (f : Nat) (off : Nat) (n : Nat)
  /-- BAR2_WRITE (R360). Performs a host write through BAR2, dropping and reporting a failed one. -/
  | bar2Write (f : Nat) (off : Nat) (data : List Byte)
  /-- BAR2_ATOMIC (R360). Performs a host AtomicOp through BAR2 as an acquire-release system-scope AMO. -/
  | bar2Atomic (f : Nat) (off : Nat) (op : HostOp) (w : Nat) (x : BitVec 128) (y : BitVec 128)
  /-- QUEUE_LAUNCH (R366). Starts a LAUNCH entry by checking the launch record and placing its grid. -/
  | queueLaunch (q : Nat)
  /-- QUEUE_WAIT (R366). Starts a WAIT entry that completes when the named queue's progress reaches its value. -/
  | queueWait (q : Nat)
  /-- QUEUE_SIGNAL (R366). Performs a SIGNAL entry's 8-byte write at system scope. -/
  | queueSignal (q : Nat)
  /-- QUEUE_NOP (R366). Completes a NOP entry at once. -/
  | queueNop (q : Nat)
  /-- QUEUE_SWITCH (R368). Switches a host launch queue in or out of residency, applying the mirror tail on switch-in. -/
  | queueSwitch (q : Nat)
  /-- WAVE_START (R304). Starts the next wave of a grid when quads are free for it. -/
  | waveStart (l : Nat)
  /-- TASK_DECODE (R309). Decodes the next task record of a queue, stopping it on a malformed record. -/
  | taskDecode (tq : Nat)
  /-- TASK_LAUNCH (R311). Starts a ready compute or copy task, failing it on a bad index. -/
  | taskLaunch (tq : Nat) (sq : Nat)
  /-- QUAD_GRANT (R315). Grants freed quads to waiting harts in priority order. -/
  | quadGrant (g : Nat)
  /-- PRIORITY_AGING (R314). Raises a ready task's effective priority after each 4 ms without running. -/
  | priorityAging (k : Nat)
  /-- TIME_SLICE (R314). Soft-pre-empts a task that has run 2 ms while an equal-priority task waits. -/
  | timeSlice (k : Nat)
  /-- HARD_PREEMPTION_TIMEOUT (R93). Hard-aborts a strip and saves the context when no pre-emption point is reached in time. -/
  | hardPreemptionTimeout (g : Nat)
  /-- TIMER_PENDING (R339). Sets TIMER pending when cycle reaches tmcmp. -/
  | timerPending (g : Nat)
  /-- INTR (R339). Takes a pending enabled interrupt as a Local trap at the next permitted point. -/
  | intr (g : Nat)
  /-- SALVAGE (R341). Halts the Quay context, posts the fatal record, writes the dump and ends the task failed. -/
  | salvage (g : Nat)
  /-- TRAP_RECORD_POST (R343). Posts a held replayable or Report record once the trap queue has room. -/
  | trapRecordPost (p : Nat)
  /-- ATS_TRANSLATION_COMPLETION (R166). Caches a returned ATS translation and proceeds, page-requests or fails the access. -/
  | atsTranslationCompletion (g : Nat) (c : AtsAnswer)
  /-- ATS_INVALIDATE_REQUEST (R168). Drops covered translations, aborts affected strips and waits for dependent accesses. -/
  | atsInvalidateRequest (p : Nat) (pasid : Nat) (va : Nat) (size : Nat)
  /-- INVALIDATE_COMPLETION (R168). Returns the ATS Invalidate Completion once every dependent read and write has finished. -/
  | invalidateCompletion (p : Nat)
  /-- PAGE_REQUEST_RESPONSE (R167). Resumes waiting accesses on Success, or fails them with PRGFAIL. -/
  | pageRequestResponse (k : Nat) (ok : Bool)
  /-- ATOMICOP_COMPLETION (R364). Handles a host AtomicOp completion, setting ATOMLACK and trapping on Unsupported Request. -/
  | atomicopCompletion (g : Nat) (ur : Bool)
  /-- FUTURE_WAKEUP (R318). Makes ready every task waiting on a future at its home die. -/
  | futureWakeup (pa : Nat)
  /-- BARRIER_PHASE_COMPLETE (R328). Completes a barrier phase when every participant has arrived. -/
  | barrierPhaseComplete (k : Nat)
  /-- BARRIER_TIMEOUT (R330). Posts a BARTIME record when a phase stays incomplete for bartime. -/
  | barrierTimeout (k : Nat)
  /-- BTE_ROW (R226). Lands a copied row or element and advances the berth's available count. -/
  | bteRow (q : Nat) (n : Nat) (k : Nat)
  /-- TFEED_WRITTEN (R265). Writes a fed row into the tile version and ends its transfer count. -/
  | tfeedWritten (q : Nat)
  /-- ASYNC_FORCE_DONE (R251). Ends an asynchronous force and removes it from the T count. -/
  | asyncForceDone (q : Nat)
  /-- WATCH_ENGINE (R351). Posts a Report record for a BTE or atomic write matched by a home comparator. -/
  | watchEngine (d : Nat)
  /-- WC_DRAIN_TIMEOUT (R178). Drains a write-combining line 4,096 cycles after its first store. -/
  | wcDrainTimeout (g : Nat)
  /-- FLIT_RECEIVE (R379). Receives a Jetty flit, discarding bad or duplicate flits and asking for replay; what it asks for, by its
  source module, is done when its header and payload say so. -/
  | flitReceive (p : Nat) (flit : List Byte) (x : LinkMsg)
  /-- FABRIC_TIMEOUT (R380). Raises a fatal MCHK_UE FABRIC when a remote response does not return in time. -/
  | fabricTimeout (g : Nat) (st : Bool) (va : Word)
  /-- LANE_RETIRE (R71). Marks a lease change pending to retire a lane with persistent SRAM errors. -/
  | laneRetire (q : Nat) (lane : Nat)
  /-- MODID_ASSIGN (R380). Assigns the module a routable module number over the management sideband. -/
  | modidAssign (k : Nat)
  /-- CLOCK_THROTTLE (R12). Lowers or raises the clock of all compute dies together against the power cap. -/
  | clockThrottle (k : Nat)
  /-- PORT_RESET (R364). Resets a PCI Express port, clearing its ATOMLACK bit. -/
  | portReset (p : Nat)
  /-- FUNCTION_LEVEL_RESET (R373). Resets one function while the command journal survives. -/
  | functionLevelReset (f : Nat)
  /-- MODULE_RESET (R68). Resets the module, zeroing cycle on every die and the journal's time base. -/
  | moduleReset
  /-- STORE_PERFORMED (R238). A store or commit is performed at its location scope and leaves WAITC's S count. -/
  | storePerformed (g : Nat) (i : Nat)
  /-- LOAD_RETURNED (R238). The elements of a vector load, or a remote load, return and leave WAITC's L count. -/
  | loadReturned (g : Nat)
  /-- TASK_RESUME (R318). The Harbour Master resumes a saved, yielded, pre-empted or woken task in a free hart slot of its Quay. -/
  | taskResume (k : Nat) (slot : Nat)
  /-- REMOTE_INSTANCE_START (R378). A module's Harbour Master starts an instance sent to it over Jetty by a launch's origin. -/
  | remoteInstanceStart (l : RemoteStart)
  /-- INSTANCE_END_REPORT (R378). The origin receives an instance's end with its exit code or failure record and sets the completion
  future when all have ended. -/
  | instanceEndReport (l : Nat) (k : Nat) (code : Word) (fail : Bool)
  /-- EPHEMERAL_HOLD_EXPIRY (R103). The 2,048-cycle hold of an ephemeral slice runs out, after which its reads may return 0xE5. -/
  | ephemeralHoldExpiry (g : Nat) (r : Nat) (sl : Nat)
  /-- KEY_PROVISION (R372). The management controller provisions a key into firmware so that a key handle names it. -/
  | keyProvision (k : Nat)
deriving DecidableEq, Repr

/-- Whether the word accepts a PFX: its format stands in the table of R28 and its entry declares an immediate
(R28, R30, R61, R76, R188). -/
def Instr.takesExt : Instr → Bool
  | .addi _ _ _ => true
  | .andi _ _ _ => true
  | .ori _ _ _ => true
  | .xori _ _ _ => true
  | .slli _ _ _ => true
  | .srli _ _ _ => true
  | .srai _ _ _ => true
  | .slti _ _ _ => true
  | .li _ _ => true
  | .beq _ _ _ => true
  | .bne _ _ _ => true
  | .blt _ _ _ => true
  | .bge _ _ _ => true
  | .bltn _ _ _ => true
  | .bgen _ _ _ => true
  | .j _ => true
  | .call _ => true
  | .ldb _ _ _ => true
  | .ldh _ _ _ => true
  | .ldw _ _ _ => true
  | .ldd _ _ _ => true
  | .ldbn _ _ _ => true
  | .ldhn _ _ _ => true
  | .ldwn _ _ _ => true
  | .lda _ _ _ => true
  | .stb _ _ _ => true
  | .sth _ _ _ => true
  | .stw _ _ _ => true
  | .std _ _ _ => true
  | .sta _ _ _ => true
  | .vaddVi _ _ _ _ _ => true
  | .vsubVi _ _ _ _ _ => true
  | .vandVi _ _ _ _ _ => true
  | .vorVi _ _ _ _ _ => true
  | .vxorVi _ _ _ _ _ => true
  | .vshlVi _ _ _ _ _ => true
  | .vshrVi _ _ _ _ _ => true
  | .vsraVi _ _ _ _ _ => true
  | .aaddi _ _ _ => true
  | .aset _ _ _ => true
  | .vsetl _ _ _ => true
  | .pref _ _ _ => true
  | .flush _ _ => true
  | _ => false

/-- Whether the instruction has a 32-bit word. -/
def Instr.hasWord : Instr → Bool
  | .whashWrite _ _ _ => false
  | .partCreate _ => false
  | .partDestroy _ => false
  | .partReset _ => false
  | .codeLoad _ => false
  | .codeUnload _ => false
  | .ctxCreate _ => false
  | .ctxSave _ => false
  | .ctxRestore _ => false
  | .queueCreate _ => false
  | .queueDestroy _ => false
  | .dumpGrant _ => false
  | .journalRead _ => false
  | .attest _ => false
  | .resolve _ => false
  | .proxyDone _ => false
  | .hwcAllot _ => false
  | .attach _ => false
  | .detach _ => false
  | .debugHalt _ => false
  | .resume _ => false
  | .stepCmd _ => false
  | .readCmd _ => false
  | .writeCmd _ => false
  | .bufferCmd _ => false
  | .freeze _ => false
  | .thaw _ => false
  | .nodes _ => false
  | .dforce _ => false
  | .rings _ => false
  | .parthalt _ => false
  | .partresume _ => false
  | .crctlWrite _ _ => false
  | .crbaseWrite _ _ => false
  | .crtailWrite _ _ => false
  | .tqconsWrite _ _ => false
  | .invgo _ _ => false
  | .invalidationDone _ => false
  | .atomlackWrite _ => false
  | .ctxirq _ _ => false
  | .qtail _ _ _ => false
  | .registerWrite _ _ _ => false
  | .bar2Read _ _ _ => false
  | .bar2Write _ _ _ => false
  | .bar2Atomic _ _ _ _ _ _ => false
  | .queueLaunch _ => false
  | .queueWait _ => false
  | .queueSignal _ => false
  | .queueNop _ => false
  | .queueSwitch _ => false
  | .waveStart _ => false
  | .taskDecode _ => false
  | .taskLaunch _ _ => false
  | .quadGrant _ => false
  | .priorityAging _ => false
  | .timeSlice _ => false
  | .hardPreemptionTimeout _ => false
  | .timerPending _ => false
  | .intr _ => false
  | .salvage _ => false
  | .trapRecordPost _ => false
  | .atsTranslationCompletion _ _ => false
  | .atsInvalidateRequest _ _ _ _ => false
  | .invalidateCompletion _ => false
  | .pageRequestResponse _ _ => false
  | .atomicopCompletion _ _ => false
  | .futureWakeup _ => false
  | .barrierPhaseComplete _ => false
  | .barrierTimeout _ => false
  | .bteRow _ _ _ => false
  | .tfeedWritten _ => false
  | .asyncForceDone _ => false
  | .watchEngine _ => false
  | .wcDrainTimeout _ => false
  | .flitReceive _ _ _ => false
  | .fabricTimeout _ _ _ => false
  | .laneRetire _ _ => false
  | .modidAssign _ => false
  | .clockThrottle _ => false
  | .portReset _ => false
  | .functionLevelReset _ => false
  | .moduleReset => false
  | .storePerformed _ _ => false
  | .loadReturned _ => false
  | .taskResume _ _ => false
  | .remoteInstanceStart _ => false
  | .instanceEndReport _ _ _ _ => false
  | .ephemeralHoldExpiry _ _ _ => false
  | .keyProvision _ => false
  | _ => true

end Sys2Proof
end

