-- ==== Sys2Proof/WellFormed.lean ====
section
/-! DEFINITION. Which instructions a word can stand for: the operand values that an entry shuts out within a field whose
type admits them (R139, R216, R261, R267), and the identifiers of steps without a word within their ranges (R11). -/

namespace Sys2Proof

/-- The operand values the entries admit. -/
def Instr.WellFormed : Instr → Prop
  | .fence o _ => o ≠ .relaxed
  | .vcvt _ _ _ t _ _ => t.toNat < 14
  | .vqnt _ _ _ _ k _ _ => k ≠ 0
  | .vdqnt _ _ _ _ k _ _ => k ≠ 0
  | .tqmma _ _ _ g _ _ => g ≠ 0
  | .tew _ _ _ o => o.toNat ≤ 4
  | .tact _ _ s o => o.toNat ≤ 4 ∧ (o = 3 ∨ s = 0)
  | .tred _ _ o _ => o ≠ 3
  | .tstat d _ l => l.toNat ≤ 7 ∧ (l = 6 ∨ d = 0)
  | .whashWrite q ix _ => q < 192 ∧ ix < 3
  | .quadGrant g => g < 3072
  | .bteRow q _ _ => q < 192
  | .tfeedWritten q => q < 192
  | .asyncForceDone q => q < 192
  | .watchEngine d => d < 8
  | .flitReceive p f _ => p < 64 ∧ f.length = 256
  | .laneRetire q lane => q < 192 ∧ lane < 32
  | .modidAssign k => k < 3072
  | .portReset p => p < 2
  | .storePerformed g _ => g < 3072
  | _ => True

/-- The check, as a value. -/
def Instr.wellFormed (i : Instr) : Bool :=
  match i with
  | .fence o _ => decide (o ≠ .relaxed)
  | .vcvt _ _ _ t _ _ => decide (t.toNat < 14)
  | .vqnt _ _ _ _ k _ _ => decide (k ≠ 0)
  | .vdqnt _ _ _ _ k _ _ => decide (k ≠ 0)
  | .tqmma _ _ _ g _ _ => decide (g ≠ 0)
  | .tew _ _ _ o => decide (o.toNat ≤ 4)
  | .tact _ _ s o => decide (o.toNat ≤ 4 ∧ (o = 3 ∨ s = 0))
  | .tred _ _ o _ => decide (o ≠ 3)
  | .tstat d _ l => decide (l.toNat ≤ 7 ∧ (l = 6 ∨ d = 0))
  | .whashWrite q ix _ => decide (q < 192 ∧ ix < 3)
  | .quadGrant g => decide (g < 3072)
  | .bteRow q _ _ => decide (q < 192)
  | .tfeedWritten q => decide (q < 192)
  | .asyncForceDone q => decide (q < 192)
  | .watchEngine d => decide (d < 8)
  | .flitReceive p f _ => decide (p < 64 ∧ f.length = 256)
  | .laneRetire q lane => decide (q < 192 ∧ lane < 32)
  | .modidAssign k => decide (k < 3072)
  | .portReset p => decide (p < 2)
  | .storePerformed g _ => decide (g < 3072)
  | _ => true

end Sys2Proof
end

