-- ==== Sys2Proof/Decode.lean ====
section
/-! DEFINITION. The decoder, total on any word, and the encoder after it, both from the encoding tables of the spec
(R19-R38). A word that fails more than one check is refused with the lowest subcode (R33, R34). -/

namespace Sys2Proof

/-- Why a word is no instruction: the subcodes of R34 for ILL, and of EXPER. -/
inductive Ill where
  | zero | major | fn | zfield | regcode | scopecode | expstep | expfn
deriving DecidableEq, Repr

/-- The field of `len` bits from bit `lo` up (R3). -/
def fld (n lo len : Nat) : Nat := n / 2 ^ lo % 2 ^ len

/-- A scalar register in five bits (R23). -/
def s5 (n lo : Nat) : Fin 32 := Fin.ofNat 32 (fld n lo 5)
/-- A tile register (R23). -/
def t3 (n lo : Nat) : Fin 8 := Fin.ofNat 8 (fld n lo 3)
/-- An address register in four bits, or a berth (R23, R230). -/
def n4 (n lo : Nat) : Fin 16 := Fin.ofNat 16 (fld n lo 4)
/-- A field of one bit. -/
def bitF (n lo : Nat) : Bool := decide (fld n lo 1 = 1)
/-- A field of bits. -/
def bvF (n lo len : Nat) : BitVec len := BitVec.ofNat len (fld n lo len)
/-- An order (R24). -/
def ordF (n lo : Nat) : MOrd :=
  match fld n lo 2 with
  | 0 => .relaxed | 1 => .acquire | 2 => .release | _ => .acqRel
/-- A scalar register in six bits (R107). -/
def s6 (n lo : Nat) : Option (Fin 32) := if h : fld n lo 6 < 32 then some ⟨_, h⟩ else none
/-- An address register in five bits (R23). -/
def a5 (n lo : Nat) : Option (Fin 16) := if h : fld n lo 5 < 16 then some ⟨_, h⟩ else none
/-- A vector register (R23). -/
def v6 (n lo : Nat) : Option (Fin 48) := if h : fld n lo 6 < 48 then some ⟨_, h⟩ else none
/-- A mask register in six bits (R23). -/
def m6 (n lo : Nat) : Option (Fin 12) := if h : fld n lo 6 < 12 then some ⟨_, h⟩ else none
/-- The governing mask: 0-11 a mask register, 15 unmasked (R23). -/
def gm (n lo : Nat) : Option (Option (Fin 12)) :=
  if h : fld n lo 4 < 12 then some (some ⟨_, h⟩) else if fld n lo 4 = 15 then some none else none
/-- A scope (R24). -/
def scopeF (n lo : Nat) : Option Scope :=
  match fld n lo 3 with
  | 0 => some .hart | 1 => some .quay | 2 => some .die | 3 => some .module | 4 => some .domain | 5 => some .system
  | _ => none
/-- A barrier level in five bits (R329). -/
def levF (n lo : Nat) : Option (Fin 8) := if h : fld n lo 5 < 8 then some ⟨_, h⟩ else none
/-- The hint of PREF in five bits (R188). -/
def hintF (n lo : Nat) : Option Bool :=
  match fld n lo 5 with
  | 0 => some false | 1 => some true | _ => none

/-- Goes on with a field's meaning, or refuses the word for its code. -/
def orIll {α : Type} (e : Ill) (o : Option α) (k : α → Except Ill Instr) : Except Ill Instr :=
  match o with
  | some x => k x
  | none => .error e

/-- The code of an order (R24). -/
def MOrd.code : MOrd → Nat
  | .relaxed => 0 | .acquire => 1 | .release => 2 | .acqRel => 3
/-- The code of a scope (R24). -/
def Scope.code : Scope → Nat
  | .hart => 0 | .quay => 1 | .die => 2 | .module => 3 | .domain => 4 | .system => 5
/-- The code of a governing mask (R23). -/
def gmCode : Option (Fin 12) → Nat
  | some m => m.val | none => 15

/-- The shape of CSRR (R21, R23, R24, R33). -/
def ofCsrr (k : Fin 32 → BitVec 12 → Instr) (n : Nat) : Except Ill Instr :=
  if fld n 16 5 ≠ 0 then .error .zfield else
  .ok (k (s5 n 21) (bvF n 4 12))

/-- The shape of CSRW, CSRS, CSRC (R21, R23, R24, R33). -/
def ofCsrw (k : Fin 32 → Fin 32 → BitVec 12 → Instr) (n : Nat) : Except Ill Instr :=
  .ok (k (s5 n 21) (s5 n 16) (bvF n 4 12))

/-- The shape of SVC, BRK (R21, R23, R24, R33). -/
def ofSvc (k : BitVec 12 → Instr) (n : Nat) : Except Ill Instr :=
  if fld n 16 10 ≠ 0 then .error .zfield else
  .ok (k (bvF n 4 12))

/-- The shape of ERET, HALT, NOP, YIELD (R21, R23, R24, R33). -/
def ofEret (k : Instr) (n : Nat) : Except Ill Instr :=
  if fld n 4 22 ≠ 0 then .error .zfield else
  .ok k

/-- The shape of TRCM (R21, R23, R24, R33). -/
def ofTrcm (k : Fin 32 → BitVec 12 → Instr) (n : Nat) : Except Ill Instr :=
  if fld n 21 5 ≠ 0 then .error .zfield else
  .ok (k (s5 n 16) (bvF n 4 12))

/-- The shape of PFX, J, CALL (R21, R23, R24, R33). -/
def ofPfx (k : BitVec 26 → Instr) (n : Nat) : Except Ill Instr :=
  .ok (k (bvF n 0 26))

/-- The shape of FENCE (R21, R23, R24, R33). -/
def ofFence (k : MOrd → Scope → Instr) (n : Nat) : Except Ill Instr :=
  if fld n 6 2 = 0 then .error .fn else
  if fld n 0 3 ≠ 0 ∨ fld n 12 14 ≠ 0 then .error .zfield else
  orIll .scopecode (scopeF n 3) fun x1 =>
  .ok (k (ordF n 6) x1)

/-- The shape of VLSYNC (R21, R23, R24, R33). -/
def ofVlsync (k : Scope → Instr) (n : Nat) : Except Ill Instr :=
  if fld n 6 2 ≠ 0 then .error .fn else
  if fld n 0 3 ≠ 0 ∨ fld n 12 14 ≠ 0 then .error .zfield else
  orIll .scopecode (scopeF n 3) fun x0 =>
  .ok (k x0)

/-- The shape of BARV, BARW (R21, R23, R24, R33). -/
def ofBarv (k : Fin 8 → Instr) (n : Nat) : Except Ill Instr :=
  if 8 ≤ fld n 12 5 then .error .fn else
  if fld n 0 8 ≠ 0 ∨ fld n 17 9 ≠ 0 then .error .zfield else
  orIll .fn (levF n 12) fun x0 =>
  .ok (k x0)

/-- The shape of ADD, SUB, AND, OR, XOR, SLL, SRL, SRA, SLT, SLTN, MIN, MAX, MINN, MAXN, MUL, MULH, MULHN, DIV, DIVN, REM, REMN (R21,
R23, R24, R33). -/
def ofAdd (k : Fin 32 → Fin 32 → Fin 32 → Instr) (n : Nat) : Except Ill Instr :=
  .ok (k (s5 n 21) (s5 n 16) (s5 n 11))

/-- The shape of CLZ, POPC (R21, R23, R24, R33). -/
def ofClz (k : Fin 32 → Fin 32 → Instr) (n : Nat) : Except Ill Instr :=
  if fld n 11 5 ≠ 0 then .error .zfield else
  .ok (k (s5 n 21) (s5 n 16))

/-- The shape of ADDI, ANDI, ORI, XORI, SLLI, SRLI, SRAI, SLTI, VSETL (R21, R23, R24, R33). -/
def ofAddi (k : Fin 32 → Fin 32 → BitVec 13 → Instr) (n : Nat) : Except Ill Instr :=
  .ok (k (s5 n 21) (s5 n 16) (bvF n 0 13))

/-- The shape of LI (R21, R23, R24, R33). -/
def ofLi (k : Fin 32 → BitVec 21 → Instr) (n : Nat) : Except Ill Instr :=
  .ok (k (s5 n 21) (bvF n 0 21))

/-- The shape of BEQ, BNE, BLT, BGE, BLTN, BGEN (R21, R23, R24, R33). -/
def ofBeq (k : Fin 32 → Fin 32 → BitVec 13 → Instr) (n : Nat) : Except Ill Instr :=
  .ok (k (s5 n 18) (s5 n 13) (bvF n 0 13))

/-- The shape of JR, CALLR (R21, R23, R24, R33). -/
def ofJr (k : Fin 16 → Instr) (n : Nat) : Except Ill Instr :=
  if fld n 11 5 ≠ 0 ∨ fld n 21 5 ≠ 0 then .error .zfield else
  orIll .regcode (a5 n 16) fun x0 =>
  .ok (k x0)

/-- The shape of LDB, LDH, LDW, LDD, LDBN, LDHN, LDWN, STB, STH, STW, STD (R21, R23, R24, R33). -/
def ofLdb (k : Fin 32 → Fin 16 → BitVec 13 → Instr) (n : Nat) : Except Ill Instr :=
  .ok (k (s5 n 21) (n4 n 17) (bvF n 0 13))

/-- The shape of LDA, STA (R21, R23, R24, R33). -/
def ofLda (k : Fin 16 → Fin 16 → BitVec 13 → Instr) (n : Nat) : Except Ill Instr :=
  orIll .regcode (a5 n 21) fun x0 =>
  .ok (k x0 (n4 n 17) (bvF n 0 13))

/-- The shape of AMOADD, AMOSWP, AMOCAS, AMOMIN, AMOMAX, AMOAND, AMOOR, AMOXOR (R21, R23, R24, R33). -/
def ofAmoadd (k : Fin 32 → Fin 16 → Fin 32 → Bool → MOrd → Scope → Instr) (n : Nat) : Except Ill Instr :=
  if fld n 0 3 ≠ 0 then .error .zfield else
  orIll .scopecode (scopeF n 3) fun x5 =>
  .ok (k (s5 n 21) (n4 n 17) (s5 n 12) (bitF n 11) (ordF n 6) x5)

/-- The shape of AADD (R21, R23, R24, R33). -/
def ofAadd (k : Fin 16 → Fin 16 → Fin 32 → Instr) (n : Nat) : Except Ill Instr :=
  if fld n 0 8 ≠ 0 then .error .zfield else
  orIll .regcode (a5 n 21) fun x0 =>
  orIll .regcode (a5 n 16) fun x1 =>
  .ok (k x0 x1 (s5 n 8))

/-- The shape of AADDI (R21, R23, R24, R33). -/
def ofAaddi (k : Fin 16 → Fin 16 → BitVec 13 → Instr) (n : Nat) : Except Ill Instr :=
  orIll .regcode (a5 n 21) fun x0 =>
  orIll .regcode (a5 n 16) fun x1 =>
  .ok (k x0 x1 (bvF n 0 13))

/-- The shape of ASET (R21, R23, R24, R33). -/
def ofAset (k : Fin 16 → Fin 32 → BitVec 13 → Instr) (n : Nat) : Except Ill Instr :=
  orIll .regcode (a5 n 21) fun x0 =>
  .ok (k x0 (s5 n 16) (bvF n 0 13))

/-- The shape of ALO, AWN (R21, R23, R24, R33). -/
def ofAlo (k : Fin 32 → Fin 16 → Instr) (n : Nat) : Except Ill Instr :=
  if fld n 0 13 ≠ 0 then .error .zfield else
  orIll .regcode (a5 n 16) fun x1 =>
  .ok (k (s5 n 21) x1)

/-- The shape of ADIFF (R21, R23, R24, R33). -/
def ofAdiff (k : Fin 32 → Fin 16 → Fin 16 → Instr) (n : Nat) : Except Ill Instr :=
  if fld n 0 8 ≠ 0 then .error .zfield else
  orIll .regcode (a5 n 16) fun x1 =>
  orIll .regcode (a5 n 8) fun x2 =>
  .ok (k (s5 n 21) x1 x2)

/-- The shape of VSETLR (R21, R23, R24, R33). -/
def ofVsetlr (k : Fin 32 → Fin 32 → Fin 32 → Instr) (n : Nat) : Except Ill Instr :=
  if fld n 0 8 ≠ 0 then .error .zfield else
  .ok (k (s5 n 21) (s5 n 16) (s5 n 8))

/-- The shape of VEND, VCUT (R21, R23, R24, R33). -/
def ofVend (k : Instr) (n : Nat) : Except Ill Instr :=
  if fld n 0 13 ≠ 0 ∨ fld n 16 10 ≠ 0 then .error .zfield else
  .ok k

/-- The shape of VADD, VSUB, VMUL, VMULH, VDIV, VREM, VMIN, VMAX, VMAC, VNMAC, VAND, VOR, VXOR, VSHL, VSHR, VSRA, VPERM, VMERGE (R21,
R23, R24, R33). -/
def ofVadd (k : Fin 48 → Fin 48 → Fin 48 → Option (Fin 12) → Bool → Instr) (n : Nat) : Except Ill Instr :=
  orIll .regcode (v6 n 20) fun x0 =>
  orIll .regcode (v6 n 14) fun x1 =>
  orIll .regcode (v6 n 8) fun x2 =>
  orIll .regcode (gm n 4) fun x3 =>
  .ok (k x0 x1 x2 x3 (bitF n 0))

/-- The shape of VADD_VS, VSUB_VS, VMUL_VS, VMULH_VS, VDIV_VS, VREM_VS, VMIN_VS, VMAX_VS, VMAC_VS, VNMAC_VS, VAND_VS, VOR_VS, VXOR_VS,
VSHL_VS, VSHR_VS, VSRA_VS (R21, R23, R24, R33). -/
def ofVaddVs (k : Fin 48 → Fin 48 → Fin 32 → Bool → Option (Fin 12) → Bool → Instr) (n : Nat) : Except Ill Instr :=
  orIll .regcode (v6 n 20) fun x0 =>
  orIll .regcode (v6 n 14) fun x1 =>
  orIll .regcode (gm n 4) fun x4 =>
  .ok (k x0 x1 (s5 n 9) (bitF n 8) x4 (bitF n 0))

/-- The shape of VADD_VI, VSUB_VI, VAND_VI, VOR_VI, VXOR_VI, VSHL_VI, VSHR_VI, VSRA_VI (R21, R23, R24, R33). -/
def ofVaddVi (k : Fin 48 → Fin 48 → BitVec 6 → Option (Fin 12) → Bool → Instr) (n : Nat) : Except Ill Instr :=
  orIll .regcode (v6 n 20) fun x0 =>
  orIll .regcode (v6 n 14) fun x1 =>
  orIll .regcode (gm n 4) fun x3 =>
  .ok (k x0 x1 (bvF n 8 6) x3 (bitF n 0))

/-- The shape of VABS, VNEG, VSQRT, VEXP2, VLOG2, VCLZ, VPOPC, VMV, VCMPR, VEXPD, VREDSUM, VREDOSUM, VREDMIN, VREDMAX, VSCAN, VCONF
(R21, R23, R24, R33). -/
def ofVabs (k : Fin 48 → Fin 48 → Option (Fin 12) → Bool → Instr) (n : Nat) : Except Ill Instr :=
  if fld n 8 6 ≠ 0 then .error .zfield else
  orIll .regcode (v6 n 20) fun x0 =>
  orIll .regcode (v6 n 14) fun x1 =>
  orIll .regcode (gm n 4) fun x2 =>
  .ok (k x0 x1 x2 (bitF n 0))

/-- The shape of VCMPEQ, VCMPNE, VCMPLT, VCMPLE, VCMPGT, VCMPGE, VCMPLTN, VCMPGEN (R21, R23, R24, R33). -/
def ofVcmpeq (k : Fin 12 → Fin 48 → Fin 48 → Option (Fin 12) → Bool → Instr) (n : Nat) : Except Ill Instr :=
  orIll .regcode (m6 n 20) fun x0 =>
  orIll .regcode (v6 n 14) fun x1 =>
  orIll .regcode (v6 n 8) fun x2 =>
  orIll .regcode (gm n 4) fun x3 =>
  .ok (k x0 x1 x2 x3 (bitF n 0))

/-- The shape of MAND, MOR, MXOR, MANDN (R21, R23, R24, R33). -/
def ofMand (k : Fin 12 → Fin 12 → Fin 12 → Option (Fin 12) → Bool → Instr) (n : Nat) : Except Ill Instr :=
  orIll .regcode (m6 n 20) fun x0 =>
  orIll .regcode (m6 n 14) fun x1 =>
  orIll .regcode (m6 n 8) fun x2 =>
  orIll .regcode (gm n 4) fun x3 =>
  .ok (k x0 x1 x2 x3 (bitF n 0))

/-- The shape of MSET, MCLR (R21, R23, R24, R33). -/
def ofMset (k : Fin 12 → Option (Fin 12) → Bool → Instr) (n : Nat) : Except Ill Instr :=
  if fld n 8 12 ≠ 0 then .error .zfield else
  orIll .regcode (m6 n 20) fun x0 =>
  orIll .regcode (gm n 4) fun x1 =>
  .ok (k x0 x1 (bitF n 0))

/-- The shape of MCNT, MFIRST (R21, R23, R24, R33). -/
def ofMcnt (k : Fin 32 → Fin 12 → Option (Fin 12) → Bool → Instr) (n : Nat) : Except Ill Instr :=
  if fld n 8 6 ≠ 0 then .error .zfield else
  orIll .regcode (s6 n 20) fun x0 =>
  orIll .regcode (m6 n 14) fun x1 =>
  orIll .regcode (gm n 4) fun x2 =>
  .ok (k x0 x1 x2 (bitF n 0))

/-- The shape of MBRKB, MBRKI (R21, R23, R24, R33). -/
def ofMbrkb (k : Fin 12 → Fin 12 → Option (Fin 12) → Bool → Instr) (n : Nat) : Except Ill Instr :=
  if fld n 8 6 ≠ 0 then .error .zfield else
  orIll .regcode (m6 n 20) fun x0 =>
  orIll .regcode (m6 n 14) fun x1 =>
  orIll .regcode (gm n 4) fun x2 =>
  .ok (k x0 x1 x2 (bitF n 0))

/-- The shape of VBCAST (R21, R23, R24, R33). -/
def ofVbcast (k : Fin 48 → Fin 32 → Option (Fin 12) → Bool → Instr) (n : Nat) : Except Ill Instr :=
  if fld n 8 6 ≠ 0 then .error .zfield else
  orIll .regcode (v6 n 20) fun x0 =>
  orIll .regcode (s6 n 14) fun x1 =>
  orIll .regcode (gm n 4) fun x2 =>
  .ok (k x0 x1 x2 (bitF n 0))

/-- The shape of VINS (R21, R23, R24, R33). -/
def ofVins (k : Fin 48 → Fin 32 → Fin 32 → Bool → Instr) (n : Nat) : Except Ill Instr :=
  if fld n 4 4 ≠ 15 then .error .zfield else
  orIll .regcode (v6 n 20) fun x0 =>
  orIll .regcode (s6 n 14) fun x1 =>
  orIll .regcode (s6 n 8) fun x2 =>
  .ok (k x0 x1 x2 (bitF n 0))

/-- The shape of VEXT (R21, R23, R24, R33). -/
def ofVext (k : Fin 32 → Fin 48 → Fin 32 → Bool → Instr) (n : Nat) : Except Ill Instr :=
  if fld n 4 4 ≠ 15 then .error .zfield else
  orIll .regcode (s6 n 20) fun x0 =>
  orIll .regcode (v6 n 14) fun x1 =>
  orIll .regcode (s6 n 8) fun x2 =>
  .ok (k x0 x1 x2 (bitF n 0))

/-- The shape of VLAST (R21, R23, R24, R33). -/
def ofVlast (k : Fin 32 → Fin 48 → Option (Fin 12) → Bool → Instr) (n : Nat) : Except Ill Instr :=
  if fld n 8 6 ≠ 0 then .error .zfield else
  orIll .regcode (s6 n 20) fun x0 =>
  orIll .regcode (v6 n 14) fun x1 =>
  orIll .regcode (gm n 4) fun x2 =>
  .ok (k x0 x1 x2 (bitF n 0))

/-- The shape of VIDX (R21, R23, R24, R33). -/
def ofVidx (k : Fin 48 → Option (Fin 12) → Bool → Instr) (n : Nat) : Except Ill Instr :=
  if fld n 8 12 ≠ 0 then .error .zfield else
  orIll .regcode (v6 n 20) fun x0 =>
  orIll .regcode (gm n 4) fun x1 =>
  .ok (k x0 x1 (bitF n 0))

/-- The shape of VSLUP, VSLDN (R21, R23, R24, R33). -/
def ofVslup (k : Fin 48 → Fin 48 → Fin 32 → Option (Fin 12) → Bool → Instr) (n : Nat) : Except Ill Instr :=
  orIll .regcode (v6 n 20) fun x0 =>
  orIll .regcode (v6 n 14) fun x1 =>
  orIll .regcode (s6 n 8) fun x2 =>
  orIll .regcode (gm n 4) fun x3 =>
  .ok (k x0 x1 x2 x3 (bitF n 0))

/-- The shape of VCVT (R21, R23, R24, R33). -/
def ofVcvt (k : Fin 48 → Fin 48 → BitVec 2 → BitVec 4 → Option (Fin 12) → Bool → Instr) (n : Nat) : Except Ill Instr :=
  if 14 ≤ fld n 8 4 then .error .fn else
  orIll .regcode (v6 n 20) fun x0 =>
  orIll .regcode (v6 n 14) fun x1 =>
  orIll .regcode (gm n 4) fun x4 =>
  .ok (k x0 x1 (bvF n 12 2) (bvF n 8 4) x4 (bitF n 0))

/-- The shape of VQNT, VDQNT (R21, R23, R24, R33). -/
def ofVqnt (k : Fin 48 → Fin 48 → BitVec 2 → Bool → BitVec 2 → Option (Fin 12) → Bool → Instr) (n : Nat) : Except Ill Instr :=
  if fld n 9 2 = 0 then .error .fn else
  if fld n 8 1 ≠ 0 then .error .zfield else
  orIll .regcode (v6 n 20) fun x0 =>
  orIll .regcode (v6 n 14) fun x1 =>
  orIll .regcode (gm n 4) fun x5 =>
  .ok (k x0 x1 (bvF n 12 2) (bitF n 11) (bvF n 9 2) x5 (bitF n 0))

/-- The shape of VTOPK, VTOPK_ABS, VPART (R21, R23, R24, R33). -/
def ofVtopk (k : Fin 12 → Fin 48 → Fin 32 → Option (Fin 12) → Bool → Instr) (n : Nat) : Except Ill Instr :=
  orIll .regcode (m6 n 20) fun x0 =>
  orIll .regcode (v6 n 14) fun x1 =>
  orIll .regcode (s6 n 8) fun x2 =>
  orIll .regcode (gm n 4) fun x3 =>
  .ok (k x0 x1 x2 x3 (bitF n 0))

/-- The shape of VPARTE (R21, R23, R24, R33). -/
def ofVparte (k : Fin 32 → Fin 48 → Fin 32 → Option (Fin 12) → Bool → Instr) (n : Nat) : Except Ill Instr :=
  orIll .regcode (s6 n 20) fun x0 =>
  orIll .regcode (v6 n 14) fun x1 =>
  orIll .regcode (s6 n 8) fun x2 =>
  orIll .regcode (gm n 4) fun x3 =>
  .ok (k x0 x1 x2 x3 (bitF n 0))

/-- The shape of VSEGL (R21, R23, R24, R33). -/
def ofVsegl (k : Fin 32 → Fin 48 → Fin 12 → Bool → Instr) (n : Nat) : Except Ill Instr :=
  if fld n 4 4 ≠ 15 then .error .zfield else
  orIll .regcode (s6 n 20) fun x0 =>
  orIll .regcode (v6 n 14) fun x1 =>
  orIll .regcode (m6 n 8) fun x2 =>
  .ok (k x0 x1 x2 (bitF n 0))

/-- The shape of VLD, VLDS, VLDFF, VLDC, VST, VSTS, VSTC (R21, R23, R24, R33). -/
def ofVld (k : Fin 48 → Fin 16 → Fin 32 → Option (Fin 12) → Bool → Instr) (n : Nat) : Except Ill Instr :=
  if fld n 0 1 ≠ 0 ∨ fld n 15 1 ≠ 0 then .error .zfield else
  orIll .regcode (v6 n 20) fun x0 =>
  orIll .regcode (gm n 6) fun x3 =>
  .ok (k x0 (n4 n 16) (s5 n 10) x3 (bitF n 1))

/-- The shape of VLDX, VSTX (R21, R23, R24, R33). -/
def ofVldx (k : Fin 48 → Fin 16 → Fin 48 → Option (Fin 12) → Bool → Bool → Instr) (n : Nat) : Except Ill Instr :=
  orIll .regcode (v6 n 20) fun x0 =>
  orIll .regcode (v6 n 10) fun x2 =>
  orIll .regcode (gm n 6) fun x3 =>
  .ok (k x0 (n4 n 16) x2 x3 (bitF n 1) (bitF n 0))

/-- The shape of VAMOADD, VAMOSWP, VAMOCAS, VAMOMIN, VAMOMAX, VAMOAND, VAMOOR, VAMOXOR, VAMOCASW (R21, R23, R24, R33). -/
def ofVamoadd (k : Fin 48 → Fin 16 → Fin 48 → Option (Fin 12) → MOrd → Instr) (n : Nat) : Except Ill Instr :=
  orIll .regcode (v6 n 20) fun x0 =>
  orIll .regcode (v6 n 10) fun x2 =>
  orIll .regcode (gm n 6) fun x3 =>
  .ok (k x0 (n4 n 16) x2 x3 (ordF n 0))

/-- The shape of BRST, BRST_FREE (R21, R23, R24, R33). -/
def ofBrst (k : Fin 16 → Instr) (n : Nat) : Except Ill Instr :=
  if fld n 6 14 ≠ 15 ∨ fld n 24 2 ≠ 0 then .error .zfield else
  .ok (k (n4 n 20))

/-- The shape of GTHW, SCTW (R21, R23, R24, R33). -/
def ofGthw (k : Fin 16 → Fin 16 → Fin 48 → Option (Fin 12) → BitVec 2 → Instr) (n : Nat) : Except Ill Instr :=
  if fld n 24 2 ≠ 0 then .error .zfield else
  orIll .regcode (v6 n 10) fun x2 =>
  orIll .regcode (gm n 6) fun x3 =>
  .ok (k (n4 n 20) (n4 n 16) x2 x3 (bvF n 0 2))

/-- The shape of GTHV, GTHV_FF (R21, R23, R24, R33). -/
def ofGthv (k : Fin 48 → Fin 16 → Fin 48 → Fin 16 → BitVec 2 → Instr) (n : Nat) : Except Ill Instr :=
  orIll .regcode (v6 n 20) fun x0 =>
  orIll .regcode (v6 n 10) fun x2 =>
  .ok (k x0 (n4 n 16) x2 (n4 n 6) (bvF n 0 2))

/-- The shape of BCPY (R21, R23, R24, R33). -/
def ofBcpy (k : Fin 16 → Fin 16 → Fin 32 → Fin 16 → BitVec 2 → Instr) (n : Nat) : Except Ill Instr :=
  if fld n 15 1 ≠ 0 ∨ fld n 24 2 ≠ 0 then .error .zfield else
  .ok (k (n4 n 20) (n4 n 16) (s5 n 10) (n4 n 6) (bvF n 0 2))

/-- The shape of BAVL (R21, R23, R33, R107, R230). -/
def ofBavl (k : Fin 32 → Fin 16 → Instr) (n : Nat) : Except Ill Instr :=
  if fld n 0 2 ≠ 0 ∨ fld n 6 10 ≠ 15 then .error .zfield else
  orIll .regcode (s6 n 20) fun x0 =>
  .ok (k x0 (n4 n 16))

/-- The shape of WAITC (R21, R23, R24, R33). -/
def ofWaitc (k : BitVec 5 → BitVec 5 → BitVec 5 → BitVec 5 → Instr) (n : Nat) : Except Ill Instr :=
  if fld n 0 6 ≠ 0 then .error .zfield else
  .ok (k (bvF n 21 5) (bvF n 16 5) (bvF n 11 5) (bvF n 6 5))

/-- The shape of SEAL (R21, R23, R24, R33). -/
def ofSeal (k : Fin 32 → Fin 16 → Instr) (n : Nat) : Except Ill Instr :=
  if fld n 0 13 ≠ 0 then .error .zfield else
  .ok (k (s5 n 21) (n4 n 17))

/-- The shape of UNSEAL (R21, R23, R24, R33). -/
def ofUnseal (k : Fin 16 → Instr) (n : Nat) : Except Ill Instr :=
  if fld n 0 13 ≠ 0 ∨ fld n 21 5 ≠ 0 then .error .zfield else
  .ok (k (n4 n 17))

/-- The shape of PREF (R21, R23, R24, R33). -/
def ofPref (k : Bool → Fin 16 → BitVec 13 → Instr) (n : Nat) : Except Ill Instr :=
  if 2 ≤ fld n 21 5 then .error .fn else
  orIll .fn (hintF n 21) fun x0 =>
  .ok (k x0 (n4 n 17) (bvF n 0 13))

/-- The shape of FLUSH (R21, R23, R24, R33). -/
def ofFlush (k : Fin 16 → BitVec 13 → Instr) (n : Nat) : Except Ill Instr :=
  if fld n 21 5 ≠ 0 then .error .zfield else
  .ok (k (n4 n 17) (bvF n 0 13))

/-- The shape of TLD (R21, R23, R24, R33). -/
def ofTld (k : Fin 8 → Fin 16 → Fin 32 → Instr) (n : Nat) : Except Ill Instr :=
  if fld n 0 5 ≠ 0 ∨ fld n 17 2 ≠ 0 then .error .zfield else
  .ok (k (t3 n 23) (n4 n 19) (s5 n 5))

/-- The shape of TST (R21, R23, R24, R33). -/
def ofTst (k : Fin 8 → Fin 16 → Fin 32 → Fin 32 → Instr) (n : Nat) : Except Ill Instr :=
  if fld n 17 2 ≠ 0 then .error .zfield else
  .ok (k (t3 n 23) (n4 n 19) (s5 n 5) (s5 n 0))

/-- The shape of TFORCE, TFORCE_A (R21, R23, R24, R33). -/
def ofTforce (k : Fin 8 → Fin 32 → Instr) (n : Nat) : Except Ill Instr :=
  if fld n 5 5 ≠ 0 ∨ fld n 17 6 ≠ 0 then .error .zfield else
  .ok (k (t3 n 23) (s5 n 0))

/-- The shape of TDROP, TZERO (R21, R23, R24, R33). -/
def ofTdrop (k : Fin 8 → Instr) (n : Nat) : Except Ill Instr :=
  if fld n 0 10 ≠ 0 ∨ fld n 17 6 ≠ 0 then .error .zfield else
  .ok (k (t3 n 23))

/-- The shape of TMMA (R21, R23, R24, R33). -/
def ofTmma (k : Fin 8 → Fin 8 → Fin 8 → Instr) (n : Nat) : Except Ill Instr :=
  if fld n 0 10 ≠ 0 then .error .zfield else
  .ok (k (t3 n 23) (t3 n 20) (t3 n 17))

/-- The shape of TQMMA (R21, R23, R24, R33). -/
def ofTqmma (k : Fin 8 → Fin 8 → Fin 8 → BitVec 2 → Fin 8 → Fin 8 → Instr) (n : Nat) : Except Ill Instr :=
  if fld n 6 2 = 0 then .error .fn else
  if fld n 8 2 ≠ 0 then .error .zfield else
  .ok (k (t3 n 23) (t3 n 20) (t3 n 17) (bvF n 6 2) (t3 n 3) (t3 n 0))

/-- The shape of TEW (R21, R23, R24, R33). -/
def ofTew (k : Fin 8 → Fin 8 → Fin 8 → BitVec 3 → Instr) (n : Nat) : Except Ill Instr :=
  if 5 ≤ fld n 0 3 then .error .fn else
  if fld n 3 7 ≠ 0 then .error .zfield else
  .ok (k (t3 n 23) (t3 n 20) (t3 n 17) (bvF n 0 3))

/-- The shape of TACT (R21, R23, R24, R33). -/
def ofTact (k : Fin 8 → Fin 8 → Fin 32 → BitVec 3 → Instr) (n : Nat) : Except Ill Instr :=
  if 5 ≤ fld n 0 3 then .error .fn else
  if fld n 8 2 ≠ 0 ∨ fld n 17 3 ≠ 0 ∨ (fld n 0 3 ≠ 3 ∧ fld n 3 5 ≠ 0) then .error .zfield else
  .ok (k (t3 n 23) (t3 n 20) (s5 n 3) (bvF n 0 3))

/-- The shape of TRED (R21, R23, R24, R33). -/
def ofTred (k : Fin 8 → Fin 8 → BitVec 2 → Bool → Instr) (n : Nat) : Except Ill Instr :=
  if fld n 1 2 = 3 then .error .fn else
  if fld n 3 7 ≠ 0 ∨ fld n 17 3 ≠ 0 then .error .zfield else
  .ok (k (t3 n 23) (t3 n 20) (bvF n 1 2) (bitF n 0))

/-- The shape of TVIEW (R21, R23, R24, R33). -/
def ofTview (k : Fin 8 → Fin 8 → Fin 32 → Instr) (n : Nat) : Except Ill Instr :=
  if fld n 5 5 ≠ 0 ∨ fld n 17 3 ≠ 0 then .error .zfield else
  .ok (k (t3 n 23) (t3 n 20) (s5 n 0))

/-- The shape of TFEED, TDRAIN (R21, R23, R24, R33). -/
def ofTfeed (k : Fin 8 → Fin 32 → Fin 48 → Instr) (n : Nat) : Except Ill Instr :=
  if fld n 0 4 ≠ 0 ∨ fld n 22 1 ≠ 0 then .error .zfield else
  orIll .regcode (v6 n 4) fun x2 =>
  .ok (k (t3 n 23) (s5 n 17) x2)

/-- The shape of TSTAT (R21, R23, R24, R33). -/
def ofTstat (k : Fin 8 → Fin 32 → BitVec 4 → Instr) (n : Nat) : Except Ill Instr :=
  if 8 ≤ fld n 0 4 then .error .fn else
  if fld n 4 6 ≠ 0 ∨ fld n 22 1 ≠ 0 ∨ (fld n 0 4 ≠ 6 ∧ fld n 23 3 ≠ 0) then .error .zfield else
  .ok (k (t3 n 23) (s5 n 17) (bvF n 0 4))

/-- The shape of GBIND (R21, R23, R24, R33). -/
def ofGbind (k : Fin 16 → Fin 32 → Instr) (n : Nat) : Except Ill Instr :=
  if fld n 5 11 ≠ 0 then .error .zfield else
  orIll .regcode (a5 n 21) fun x0 =>
  .ok (k x0 (s5 n 16))

/-- The shape of GBIND_FREE (R21, R23, R24, R33). -/
def ofGbindFree (k : Fin 32 → Instr) (n : Nat) : Except Ill Instr :=
  if fld n 5 11 ≠ 0 ∨ fld n 21 5 ≠ 0 then .error .zfield else
  .ok (k (s5 n 16))

/-- The shape of GSTEP (R21, R23, R24, R33). -/
def ofGstep (k : Fin 32 → Fin 32 → Fin 32 → Instr) (n : Nat) : Except Ill Instr :=
  if fld n 4 7 ≠ 0 then .error .zfield else
  .ok (k (s5 n 21) (s5 n 16) (s5 n 11))

/-- The shape of GMASK (R21, R23, R24, R33). -/
def ofGmask (k : Fin 16 → Fin 32 → Bool → Instr) (n : Nat) : Except Ill Instr :=
  if fld n 5 11 ≠ 0 then .error .zfield else
  orIll .regcode (a5 n 21) fun x0 =>
  .ok (k x0 (s5 n 16) (bitF n 4))

/-- The shape of GCKPT (R21, R23, R24, R33). -/
def ofGckpt (k : Fin 32 → Instr) (n : Nat) : Except Ill Instr :=
  if fld n 4 12 ≠ 0 ∨ fld n 21 5 ≠ 0 then .error .zfield else
  .ok (k (s5 n 16))

/-- The shape of GROLL, LEASE (R21, R23, R24, R33). -/
def ofGroll (k : Fin 32 → Fin 32 → Instr) (n : Nat) : Except Ill Instr :=
  if fld n 4 7 ≠ 0 ∨ fld n 21 5 ≠ 0 then .error .zfield else
  .ok (k (s5 n 16) (s5 n 11))

/-- The shape of GFORK (R21, R23, R24, R33). -/
def ofGfork (k : Fin 32 → Fin 32 → Instr) (n : Nat) : Except Ill Instr :=
  if fld n 4 12 ≠ 0 then .error .zfield else
  .ok (k (s5 n 21) (s5 n 16))

/-- The shape of GSAVE (R21, R23, R24, R33). -/
def ofGsave (k : Fin 16 → Fin 32 → Fin 32 → Instr) (n : Nat) : Except Ill Instr :=
  if fld n 4 7 ≠ 0 then .error .zfield else
  orIll .regcode (a5 n 21) fun x0 =>
  .ok (k x0 (s5 n 16) (s5 n 11))

/-- The shape of GREST (R21, R23, R24, R33). -/
def ofGrest (k : Fin 32 → Fin 32 → Fin 16 → Instr) (n : Nat) : Except Ill Instr :=
  if fld n 4 7 ≠ 0 then .error .zfield else
  orIll .regcode (a5 n 11) fun x2 =>
  .ok (k (s5 n 21) (s5 n 16) x2)

/-- The shape of GSTAT (R21, R23, R24, R33). -/
def ofGstat (k : Fin 32 → Fin 32 → BitVec 2 → Instr) (n : Nat) : Except Ill Instr :=
  if fld n 6 10 ≠ 0 then .error .zfield else
  .ok (k (s5 n 21) (s5 n 16) (bvF n 4 2))

/-- The shape of SPAWN (R21, R23, R24, R33). -/
def ofSpawn (k : Fin 32 → Fin 16 → Fin 16 → Scope → Instr) (n : Nat) : Except Ill Instr :=
  if fld n 7 4 ≠ 0 then .error .zfield else
  orIll .regcode (a5 n 16) fun x1 =>
  orIll .regcode (a5 n 11) fun x2 =>
  orIll .scopecode (scopeF n 4) fun x3 =>
  .ok (k (s5 n 21) x1 x2 x3)

/-- The shape of FSET (R21, R23, R24, R33). -/
def ofFset (k : Fin 16 → Fin 32 → Scope → Instr) (n : Nat) : Except Ill Instr :=
  if fld n 7 4 ≠ 0 ∨ fld n 21 5 ≠ 0 then .error .zfield else
  orIll .regcode (a5 n 16) fun x0 =>
  orIll .scopecode (scopeF n 4) fun x2 =>
  .ok (k x0 (s5 n 11) x2)

/-- The shape of FWAIT, FGET (R21, R23, R24, R33). -/
def ofFwait (k : Fin 32 → Fin 16 → Scope → Instr) (n : Nat) : Except Ill Instr :=
  if fld n 7 9 ≠ 0 then .error .zfield else
  orIll .regcode (a5 n 16) fun x1 =>
  orIll .scopecode (scopeF n 4) fun x2 =>
  .ok (k (s5 n 21) x1 x2)

/-- The shape of EXIT (R21, R23, R24, R33). -/
def ofExit (k : Fin 32 → Scope → Instr) (n : Nat) : Except Ill Instr :=
  if fld n 7 4 ≠ 0 ∨ fld n 16 10 ≠ 0 then .error .zfield else
  orIll .scopecode (scopeF n 4) fun x1 =>
  .ok (k (s5 n 11) x1)

/-- The shape of TMMAS (R21, R23, R24, R33). -/
def ofTmmas (k : Fin 8 → Fin 8 → Fin 8 → Fin 8 → Instr) (n : Nat) : Except Ill Instr :=
  if fld n 3 7 ≠ 0 then .error .zfield else
  .ok (k (t3 n 23) (t3 n 20) (t3 n 17) (t3 n 0))

/-- Major 0x01: the fn code selects the instruction (R32). -/
def decSys (n : Nat) : Except Ill Instr :=
  match fld n 0 4 with
  | 0 => ofCsrr .csrr n
  | 1 => ofCsrw .csrw n
  | 2 => ofCsrw .csrs n
  | 3 => ofCsrw .csrc n
  | 4 => ofSvc .svc n
  | 5 => ofEret .eret n
  | 6 => ofEret .halt n
  | 7 => ofEret .nop n
  | 8 => ofSvc .brk n
  | 9 => ofTrcm .trcm n
  | _ => .error .fn

/-- Major 0x03: the fn code selects the instruction (R32). -/
def decSync (n : Nat) : Except Ill Instr :=
  match fld n 8 4 with
  | 0 => ofFence .fence n
  | 1 => ofVlsync .vlsync n
  | 4 => ofBarv .barv n
  | 5 => ofBarv .barw n
  | _ => .error .fn

/-- Major 0x04: the fn code selects the instruction (R32). -/
def decAlu (n : Nat) : Except Ill Instr :=
  match fld n 0 11 with
  | 0 => ofAdd .add n
  | 1 => ofAdd .sub n
  | 2 => ofAdd .and n
  | 3 => ofAdd .or n
  | 4 => ofAdd .xor n
  | 5 => ofAdd .sll n
  | 6 => ofAdd .srl n
  | 7 => ofAdd .sra n
  | 8 => ofAdd .slt n
  | 9 => ofAdd .sltn n
  | 10 => ofAdd .min n
  | 11 => ofAdd .max n
  | 12 => ofAdd .minn n
  | 13 => ofAdd .maxn n
  | 14 => ofClz .clz n
  | 15 => ofClz .popc n
  | _ => .error .fn

/-- Major 0x05: the fn code selects the instruction (R32). -/
def decAlui (n : Nat) : Except Ill Instr :=
  match fld n 13 3 with
  | 0 => ofAddi .addi n
  | 1 => ofAddi .andi n
  | 2 => ofAddi .ori n
  | 3 => ofAddi .xori n
  | 4 => ofAddi .slli n
  | 5 => ofAddi .srli n
  | 6 => ofAddi .srai n
  | 7 => ofAddi .slti n
  | _ => .error .fn

/-- Major 0x07: the fn code selects the instruction (R32). -/
def decMulDiv (n : Nat) : Except Ill Instr :=
  match fld n 0 11 with
  | 0 => ofAdd .mul n
  | 1 => ofAdd .mulh n
  | 2 => ofAdd .mulhn n
  | 3 => ofAdd .div n
  | 4 => ofAdd .divn n
  | 5 => ofAdd .rem n
  | 6 => ofAdd .remn n
  | _ => .error .fn

/-- Major 0x08: the fn code selects the instruction (R32). -/
def decBranch (n : Nat) : Except Ill Instr :=
  match fld n 23 3 with
  | 0 => ofBeq .beq n
  | 1 => ofBeq .bne n
  | 2 => ofBeq .blt n
  | 3 => ofBeq .bge n
  | 4 => ofBeq .bltn n
  | 5 => ofBeq .bgen n
  | _ => .error .fn

/-- Major 0x0B: the fn code selects the instruction (R32). -/
def decJr (n : Nat) : Except Ill Instr :=
  match fld n 0 11 with
  | 0 => ofJr .jr n
  | 1 => ofJr .callr n
  | _ => .error .fn

/-- Major 0x0C: the fn code selects the instruction (R32). -/
def decLoad (n : Nat) : Except Ill Instr :=
  match fld n 13 4 with
  | 0 => ofLdb .ldb n
  | 1 => ofLdb .ldh n
  | 2 => ofLdb .ldw n
  | 3 => ofLdb .ldd n
  | 4 => ofLdb .ldbn n
  | 5 => ofLdb .ldhn n
  | 6 => ofLdb .ldwn n
  | 7 => ofLda .lda n
  | _ => .error .fn

/-- Major 0x0D: the fn code selects the instruction (R32). -/
def decStore (n : Nat) : Except Ill Instr :=
  match fld n 13 4 with
  | 0 => ofLdb .stb n
  | 1 => ofLdb .sth n
  | 2 => ofLdb .stw n
  | 3 => ofLdb .std n
  | 4 => ofLda .sta n
  | _ => .error .fn

/-- Major 0x0E: the fn code selects the instruction (R32). -/
def decAmo (n : Nat) : Except Ill Instr :=
  match fld n 8 3 with
  | 0 => ofAmoadd .amoadd n
  | 1 => ofAmoadd .amoswp n
  | 2 => ofAmoadd .amocas n
  | 3 => ofAmoadd .amomin n
  | 4 => ofAmoadd .amomax n
  | 5 => ofAmoadd .amoand n
  | 6 => ofAmoadd .amoor n
  | 7 => ofAmoadd .amoxor n
  | _ => .error .fn

/-- Major 0x0F: the fn code selects the instruction (R32). -/
def decAddr (n : Nat) : Except Ill Instr :=
  match fld n 13 3 with
  | 0 => ofAadd .aadd n
  | 1 => ofAaddi .aaddi n
  | 2 => ofAset .aset n
  | 3 => ofAlo .alo n
  | 4 => ofAlo .awn n
  | 5 => ofAdiff .adiff n
  | _ => .error .fn

/-- Major 0x10: the fn code selects the instruction (R32). -/
def decVcfg (n : Nat) : Except Ill Instr :=
  match fld n 13 3 with
  | 0 => ofAddi .vsetl n
  | 1 => ofVsetlr .vsetlr n
  | 2 => ofVend .vend n
  | 3 => ofVend .vcut n
  | _ => .error .fn

/-- Major 0x11: the fn code selects the instruction (R32). -/
def decVvA (n : Nat) : Except Ill Instr :=
  match fld n 1 3 with
  | 0 => ofVadd .vadd n
  | 1 => ofVadd .vsub n
  | 2 => ofVadd .vmul n
  | 3 => ofVadd .vmulh n
  | 4 => ofVadd .vdiv n
  | 5 => ofVadd .vrem n
  | 6 => ofVadd .vmin n
  | 7 => ofVadd .vmax n
  | _ => .error .fn

/-- Major 0x12: the fn code selects the instruction (R32). -/
def decVvB (n : Nat) : Except Ill Instr :=
  match fld n 1 3 with
  | 0 => ofVadd .vmac n
  | 1 => ofVadd .vnmac n
  | 2 => ofVadd .vand n
  | 3 => ofVadd .vor n
  | 4 => ofVadd .vxor n
  | 5 => ofVadd .vshl n
  | 6 => ofVadd .vshr n
  | 7 => ofVadd .vsra n
  | _ => .error .fn

/-- Major 0x13: the fn code selects the instruction (R32). -/
def decVsA (n : Nat) : Except Ill Instr :=
  match fld n 1 3 with
  | 0 => ofVaddVs .vaddVs n
  | 1 => ofVaddVs .vsubVs n
  | 2 => ofVaddVs .vmulVs n
  | 3 => ofVaddVs .vmulhVs n
  | 4 => ofVaddVs .vdivVs n
  | 5 => ofVaddVs .vremVs n
  | 6 => ofVaddVs .vminVs n
  | 7 => ofVaddVs .vmaxVs n
  | _ => .error .fn

/-- Major 0x14: the fn code selects the instruction (R32). -/
def decVsB (n : Nat) : Except Ill Instr :=
  match fld n 1 3 with
  | 0 => ofVaddVs .vmacVs n
  | 1 => ofVaddVs .vnmacVs n
  | 2 => ofVaddVs .vandVs n
  | 3 => ofVaddVs .vorVs n
  | 4 => ofVaddVs .vxorVs n
  | 5 => ofVaddVs .vshlVs n
  | 6 => ofVaddVs .vshrVs n
  | 7 => ofVaddVs .vsraVs n
  | _ => .error .fn

/-- Major 0x15: the fn code selects the instruction (R32). -/
def decVi (n : Nat) : Except Ill Instr :=
  match fld n 1 3 with
  | 0 => ofVaddVi .vaddVi n
  | 1 => ofVaddVi .vsubVi n
  | 2 => ofVaddVi .vandVi n
  | 3 => ofVaddVi .vorVi n
  | 4 => ofVaddVi .vxorVi n
  | 5 => ofVaddVi .vshlVi n
  | 6 => ofVaddVi .vshrVi n
  | 7 => ofVaddVi .vsraVi n
  | _ => .error .fn

/-- Major 0x16: the fn code selects the instruction (R32). -/
def decVunary (n : Nat) : Except Ill Instr :=
  match fld n 1 3 with
  | 0 => ofVabs .vabs n
  | 1 => ofVabs .vneg n
  | 2 => ofVabs .vsqrt n
  | 3 => ofVabs .vexp2 n
  | 4 => ofVabs .vlog2 n
  | 5 => ofVabs .vclz n
  | 6 => ofVabs .vpopc n
  | 7 => ofVabs .vmv n
  | _ => .error .fn

/-- Major 0x17: the fn code selects the instruction (R32). -/
def decVcmp (n : Nat) : Except Ill Instr :=
  match fld n 1 3 with
  | 0 => ofVcmpeq .vcmpeq n
  | 1 => ofVcmpeq .vcmpne n
  | 2 => ofVcmpeq .vcmplt n
  | 3 => ofVcmpeq .vcmple n
  | 4 => ofVcmpeq .vcmpgt n
  | 5 => ofVcmpeq .vcmpge n
  | 6 => ofVcmpeq .vcmpltn n
  | 7 => ofVcmpeq .vcmpgen n
  | _ => .error .fn

/-- Major 0x18: the fn code selects the instruction (R32). -/
def decMask (n : Nat) : Except Ill Instr :=
  match fld n 1 3 with
  | 0 => ofMand .mand n
  | 1 => ofMand .mor n
  | 2 => ofMand .mxor n
  | 3 => ofMand .mandn n
  | 4 => ofMset .mset n
  | 5 => ofMset .mclr n
  | _ => .error .fn

/-- Major 0x19: the fn code selects the instruction (R32). -/
def decMask2 (n : Nat) : Except Ill Instr :=
  match fld n 1 3 with
  | 0 => ofMcnt .mcnt n
  | 1 => ofMcnt .mfirst n
  | 2 => ofMbrkb .mbrkb n
  | 3 => ofMbrkb .mbrki n
  | _ => .error .fn

/-- Major 0x1A: the fn code selects the instruction (R32). -/
def decPerm (n : Nat) : Except Ill Instr :=
  match fld n 1 3 with
  | 0 => ofVbcast .vbcast n
  | 1 => ofVins .vins n
  | 2 => ofVext .vext n
  | 3 => ofVlast .vlast n
  | 4 => ofVidx .vidx n
  | 5 => ofVslup .vslup n
  | 6 => ofVslup .vsldn n
  | 7 => ofVadd .vperm n
  | _ => .error .fn

/-- Major 0x1B: the fn code selects the instruction (R32). -/
def decPerm2 (n : Nat) : Except Ill Instr :=
  match fld n 1 3 with
  | 0 => ofVabs .vcmpr n
  | 1 => ofVabs .vexpd n
  | 2 => ofVadd .vmerge n
  | 3 => ofVabs .vredsum n
  | 4 => ofVabs .vredosum n
  | 5 => ofVabs .vredmin n
  | 6 => ofVabs .vredmax n
  | 7 => ofVabs .vscan n
  | _ => .error .fn

/-- Major 0x1C: the fn code selects the instruction (R32). -/
def decConvert (n : Nat) : Except Ill Instr :=
  match fld n 1 3 with
  | 0 => ofVcvt .vcvt n
  | 1 => ofVqnt .vqnt n
  | 2 => ofVqnt .vdqnt n
  | 3 => ofVtopk .vtopk n
  | 4 => ofVtopk .vtopkAbs n
  | _ => .error .fn

/-- Major 0x1D: the fn code selects the instruction (R32). -/
def decDep (n : Nat) : Except Ill Instr :=
  match fld n 1 3 with
  | 0 => ofVabs .vconf n
  | 1 => ofVtopk .vpart n
  | 2 => ofVparte .vparte n
  | 3 => ofVsegl .vsegl n
  | _ => .error .fn

/-- Major 0x1E: the fn code selects the instruction (R32). -/
def decVload (n : Nat) : Except Ill Instr :=
  match fld n 2 4 with
  | 0 => ofVld .vld n
  | 1 => ofVld .vlds n
  | 2 => ofVldx .vldx n
  | 3 => ofVld .vldff n
  | 4 => ofVld .vldc n
  | _ => .error .fn

/-- Major 0x1F: the fn code selects the instruction (R32). -/
def decVstore (n : Nat) : Except Ill Instr :=
  match fld n 2 4 with
  | 0 => ofVld .vst n
  | 1 => ofVld .vsts n
  | 2 => ofVldx .vstx n
  | 3 => ofVld .vstc n
  | _ => .error .fn

/-- Major 0x20: the fn code selects the instruction (R32). -/
def decVamo (n : Nat) : Except Ill Instr :=
  match fld n 2 4 with
  | 0 => ofVamoadd .vamoadd n
  | 1 => ofVamoadd .vamoswp n
  | 2 => ofVamoadd .vamocas n
  | 3 => ofVamoadd .vamomin n
  | 4 => ofVamoadd .vamomax n
  | 5 => ofVamoadd .vamoand n
  | 6 => ofVamoadd .vamoor n
  | 7 => ofVamoadd .vamoxor n
  | 10 => ofVamoadd .vamocasw n
  | _ => .error .fn

/-- Major 0x21: the fn code selects the instruction (R32). -/
def decBerth (n : Nat) : Except Ill Instr :=
  match fld n 2 4 with
  | 0 => match fld n 0 2 with
    | 0 => ofBrst .brst n
    | 1 => ofBrst .brstFree n
    | _ => .error .fn
  | 1 => ofGthw .gthw n
  | 2 => ofGthv .gthv n
  | 3 => ofGthv .gthvFf n
  | 4 => ofGthw .sctw n
  | 5 => ofBcpy .bcpy n
  | 6 => ofBavl .bavl n
  | _ => .error .fn

/-- Major 0x23: the fn code selects the instruction (R32). -/
def decMemctl (n : Nat) : Except Ill Instr :=
  match fld n 13 4 with
  | 0 => ofSeal .seal n
  | 1 => ofUnseal .unseal n
  | 2 => ofPref .pref n
  | 3 => ofFlush .flush n
  | _ => .error .fn

/-- Major 0x24: the fn code selects the instruction (R32). -/
def decTileMem (n : Nat) : Except Ill Instr :=
  match fld n 10 7 with
  | 0 => ofTld .tld n
  | 1 => ofTst .tst n
  | 2 => ofTforce .tforce n
  | 3 => ofTdrop .tdrop n
  | 4 => ofTdrop .tzero n
  | 5 => ofTforce .tforceA n
  | _ => .error .fn

/-- Major 0x25: the fn code selects the instruction (R32). -/
def decTileMath (n : Nat) : Except Ill Instr :=
  match fld n 10 7 with
  | 0 => ofTmma .tmma n
  | 1 => ofTqmma .tqmma n
  | 2 => ofTew .tew n
  | 3 => ofTact .tact n
  | 4 => ofTred .tred n
  | 5 => ofTview .tview n
  | _ => .error .fn

/-- Major 0x26: the fn code selects the instruction (R32). -/
def decTileXfer (n : Nat) : Except Ill Instr :=
  match fld n 10 7 with
  | 0 => ofTfeed .tfeed n
  | 1 => ofTfeed .tdrain n
  | 2 => ofTstat .tstat n
  | _ => .error .fn

/-- Major 0x28: the fn code selects the instruction (R32). -/
def decGrammar (n : Nat) : Except Ill Instr :=
  match fld n 0 4 with
  | 0 => match fld n 4 1 with
    | 0 => ofGbind .gbind n
    | _ => ofGbindFree .gbindFree n
  | 1 => ofGstep .gstep n
  | 2 => ofGmask .gmask n
  | 3 => ofGckpt .gckpt n
  | 4 => ofGroll .groll n
  | 5 => ofGfork .gfork n
  | 6 => ofGsave .gsave n
  | 7 => ofGrest .grest n
  | 8 => ofGstat .gstat n
  | _ => .error .fn

/-- Major 0x29: the fn code selects the instruction (R32). -/
def decTask (n : Nat) : Except Ill Instr :=
  match fld n 0 4 with
  | 0 => ofSpawn .spawn n
  | 1 => ofGroll .lease n
  | 2 => ofFset .fset n
  | 3 => ofFwait .fwait n
  | 4 => ofFwait .fget n
  | 5 => ofExit .exit n
  | 6 => ofEret .yield n
  | _ => .error .fn

/-- Major 0x3F: its one layout (R38) is checked first, whatever fn says, and fn is judged only then (R33)
[DEDUCED: log entry 20]. -/
def decExper (n : Nat) : Except Ill Instr :=
  if fld n 3 7 ≠ 0 then .error .zfield else
  if Config.stepping ≠ 0x00B0 then .error .expstep else
  match fld n 10 7 with
  | 0 => ofTmmas .tmmas n
  | _ => .error .expfn

/-- The instruction of a word (R19-R35). Majors not assigned, 0x27 and 0x2A-0x3E are reserved (R32); major 0x3F holds
instructions only on stepping B0 (R35). -/
def decodeNat (n : Nat) : Except Ill Instr :=
  match fld n 26 6 with
  | 0 => .error (if n = 0 then .zero else .major)
  | 1 => decSys n
  | 2 => ofPfx .pfx n
  | 3 => decSync n
  | 4 => decAlu n
  | 5 => decAlui n
  | 6 => ofLi .li n
  | 7 => decMulDiv n
  | 8 => decBranch n
  | 9 => ofPfx .j n
  | 10 => ofPfx .call n
  | 11 => decJr n
  | 12 => decLoad n
  | 13 => decStore n
  | 14 => decAmo n
  | 15 => decAddr n
  | 16 => decVcfg n
  | 17 => decVvA n
  | 18 => decVvB n
  | 19 => decVsA n
  | 20 => decVsB n
  | 21 => decVi n
  | 22 => decVunary n
  | 23 => decVcmp n
  | 24 => decMask n
  | 25 => decMask2 n
  | 26 => decPerm n
  | 27 => decPerm2 n
  | 28 => decConvert n
  | 29 => decDep n
  | 30 => decVload n
  | 31 => decVstore n
  | 32 => decVamo n
  | 33 => decBerth n
  | 34 => ofWaitc .waitc n
  | 35 => decMemctl n
  | 36 => decTileMem n
  | 37 => decTileMath n
  | 38 => decTileXfer n
  | 40 => decGrammar n
  | 41 => decTask n
  | 63 => decExper n
  | _ => .error .major

/-- The instruction of a 32-bit word. -/
def decode (w : BitVec 32) : Except Ill Instr := decodeNat w.toNat

/-- Decoding bytes: a word is the first four, little-endian (R4, R19); fewer are no word. -/
def decodeBytes : List Byte → Option (Except Ill Instr × List Byte)
  | b0 :: b1 :: b2 :: b3 :: rest =>
    some (decodeNat (b0.toNat + b1.toNat * 2 ^ 8 + b2.toNat * 2 ^ 16 + b3.toNat * 2 ^ 24), rest)
  | _ => none

/-- The instruction the decoder reads from a row's word, the bits numbered as the table numbers them. A row without a
word gives no bits. -/
def decodeTableWord (nbits w : Nat) : Option Instr :=
  if nbits = 0 ∨ 32 < nbits then none
  else
    match decodeBytes [BitVec.ofNat 8 w, BitVec.ofNat 8 (w / 2 ^ 8), BitVec.ofNat 8 (w / 2 ^ 16), BitVec.ofNat 8 (w / 2 ^ 24)] with
    | some (.ok i, _) => some i
    | _ => none

/-- The word of the shape `ofCsrr`: major and fn in `base`. -/
def wCsrr (base : Nat) (x0 : Fin 32) (x1 : BitVec 12) : Nat :=
  base + x0.val * 2 ^ 21 + x1.toNat * 2 ^ 4

/-- The word of the shape `ofCsrw`: major and fn in `base`. -/
def wCsrw (base : Nat) (x0 : Fin 32) (x1 : Fin 32) (x2 : BitVec 12) : Nat :=
  base + x0.val * 2 ^ 21 + x1.val * 2 ^ 16 + x2.toNat * 2 ^ 4

/-- The word of the shape `ofSvc`: major and fn in `base`. -/
def wSvc (base : Nat) (x0 : BitVec 12) : Nat :=
  base + x0.toNat * 2 ^ 4

/-- The word of the shape `ofEret`: major and fn in `base`. -/
def wEret (base : Nat) : Nat :=
  base

/-- The word of the shape `ofTrcm`: major and fn in `base`. -/
def wTrcm (base : Nat) (x0 : Fin 32) (x1 : BitVec 12) : Nat :=
  base + x0.val * 2 ^ 16 + x1.toNat * 2 ^ 4

/-- The word of the shape `ofPfx`: major and fn in `base`. -/
def wPfx (base : Nat) (x0 : BitVec 26) : Nat :=
  base + x0.toNat

/-- The word of the shape `ofFence`: major and fn in `base`. -/
def wFence (base : Nat) (x0 : MOrd) (x1 : Scope) : Nat :=
  base + x0.code * 2 ^ 6 + x1.code * 2 ^ 3

/-- The word of the shape `ofVlsync`: major and fn in `base`. -/
def wVlsync (base : Nat) (x0 : Scope) : Nat :=
  base + x0.code * 2 ^ 3

/-- The word of the shape `ofBarv`: major and fn in `base`. -/
def wBarv (base : Nat) (x0 : Fin 8) : Nat :=
  base + x0.val * 2 ^ 12

/-- The word of the shape `ofAdd`: major and fn in `base`. -/
def wAdd (base : Nat) (x0 : Fin 32) (x1 : Fin 32) (x2 : Fin 32) : Nat :=
  base + x0.val * 2 ^ 21 + x1.val * 2 ^ 16 + x2.val * 2 ^ 11

/-- The word of the shape `ofClz`: major and fn in `base`. -/
def wClz (base : Nat) (x0 : Fin 32) (x1 : Fin 32) : Nat :=
  base + x0.val * 2 ^ 21 + x1.val * 2 ^ 16

/-- The word of the shape `ofAddi`: major and fn in `base`. -/
def wAddi (base : Nat) (x0 : Fin 32) (x1 : Fin 32) (x2 : BitVec 13) : Nat :=
  base + x0.val * 2 ^ 21 + x1.val * 2 ^ 16 + x2.toNat

/-- The word of the shape `ofLi`: major and fn in `base`. -/
def wLi (base : Nat) (x0 : Fin 32) (x1 : BitVec 21) : Nat :=
  base + x0.val * 2 ^ 21 + x1.toNat

/-- The word of the shape `ofBeq`: major and fn in `base`. -/
def wBeq (base : Nat) (x0 : Fin 32) (x1 : Fin 32) (x2 : BitVec 13) : Nat :=
  base + x0.val * 2 ^ 18 + x1.val * 2 ^ 13 + x2.toNat

/-- The word of the shape `ofJr`: major and fn in `base`. -/
def wJr (base : Nat) (x0 : Fin 16) : Nat :=
  base + x0.val * 2 ^ 16

/-- The word of the shape `ofLdb`: major and fn in `base`. -/
def wLdb (base : Nat) (x0 : Fin 32) (x1 : Fin 16) (x2 : BitVec 13) : Nat :=
  base + x0.val * 2 ^ 21 + x1.val * 2 ^ 17 + x2.toNat

/-- The word of the shape `ofLda`: major and fn in `base`. -/
def wLda (base : Nat) (x0 : Fin 16) (x1 : Fin 16) (x2 : BitVec 13) : Nat :=
  base + x0.val * 2 ^ 21 + x1.val * 2 ^ 17 + x2.toNat

/-- The word of the shape `ofAmoadd`: major and fn in `base`. -/
def wAmoadd (base : Nat) (x0 : Fin 32) (x1 : Fin 16) (x2 : Fin 32) (x3 : Bool) (x4 : MOrd) (x5 : Scope) : Nat :=
  base + x0.val * 2 ^ 21 + x1.val * 2 ^ 17 + x2.val * 2 ^ 12 + x3.toNat * 2 ^ 11 + x4.code * 2 ^ 6 + x5.code * 2 ^ 3

/-- The word of the shape `ofAadd`: major and fn in `base`. -/
def wAadd (base : Nat) (x0 : Fin 16) (x1 : Fin 16) (x2 : Fin 32) : Nat :=
  base + x0.val * 2 ^ 21 + x1.val * 2 ^ 16 + x2.val * 2 ^ 8

/-- The word of the shape `ofAaddi`: major and fn in `base`. -/
def wAaddi (base : Nat) (x0 : Fin 16) (x1 : Fin 16) (x2 : BitVec 13) : Nat :=
  base + x0.val * 2 ^ 21 + x1.val * 2 ^ 16 + x2.toNat

/-- The word of the shape `ofAset`: major and fn in `base`. -/
def wAset (base : Nat) (x0 : Fin 16) (x1 : Fin 32) (x2 : BitVec 13) : Nat :=
  base + x0.val * 2 ^ 21 + x1.val * 2 ^ 16 + x2.toNat

/-- The word of the shape `ofAlo`: major and fn in `base`. -/
def wAlo (base : Nat) (x0 : Fin 32) (x1 : Fin 16) : Nat :=
  base + x0.val * 2 ^ 21 + x1.val * 2 ^ 16

/-- The word of the shape `ofAdiff`: major and fn in `base`. -/
def wAdiff (base : Nat) (x0 : Fin 32) (x1 : Fin 16) (x2 : Fin 16) : Nat :=
  base + x0.val * 2 ^ 21 + x1.val * 2 ^ 16 + x2.val * 2 ^ 8

/-- The word of the shape `ofVsetlr`: major and fn in `base`. -/
def wVsetlr (base : Nat) (x0 : Fin 32) (x1 : Fin 32) (x2 : Fin 32) : Nat :=
  base + x0.val * 2 ^ 21 + x1.val * 2 ^ 16 + x2.val * 2 ^ 8

/-- The word of the shape `ofVend`: major and fn in `base`. -/
def wVend (base : Nat) : Nat :=
  base

/-- The word of the shape `ofVadd`: major and fn in `base`. -/
def wVadd (base : Nat) (x0 : Fin 48) (x1 : Fin 48) (x2 : Fin 48) (x3 : Option (Fin 12)) (x4 : Bool) : Nat :=
  base + x0.val * 2 ^ 20 + x1.val * 2 ^ 14 + x2.val * 2 ^ 8 + gmCode x3 * 2 ^ 4 + x4.toNat

/-- The word of the shape `ofVaddVs`: major and fn in `base`. -/
def wVaddVs (base : Nat) (x0 : Fin 48) (x1 : Fin 48) (x2 : Fin 32) (x3 : Bool) (x4 : Option (Fin 12)) (x5 : Bool) : Nat :=
  base + x0.val * 2 ^ 20 + x1.val * 2 ^ 14 + x2.val * 2 ^ 9 + x3.toNat * 2 ^ 8 + gmCode x4 * 2 ^ 4 + x5.toNat

/-- The word of the shape `ofVaddVi`: major and fn in `base`. -/
def wVaddVi (base : Nat) (x0 : Fin 48) (x1 : Fin 48) (x2 : BitVec 6) (x3 : Option (Fin 12)) (x4 : Bool) : Nat :=
  base + x0.val * 2 ^ 20 + x1.val * 2 ^ 14 + x2.toNat * 2 ^ 8 + gmCode x3 * 2 ^ 4 + x4.toNat

/-- The word of the shape `ofVabs`: major and fn in `base`. -/
def wVabs (base : Nat) (x0 : Fin 48) (x1 : Fin 48) (x2 : Option (Fin 12)) (x3 : Bool) : Nat :=
  base + x0.val * 2 ^ 20 + x1.val * 2 ^ 14 + gmCode x2 * 2 ^ 4 + x3.toNat

/-- The word of the shape `ofVcmpeq`: major and fn in `base`. -/
def wVcmpeq (base : Nat) (x0 : Fin 12) (x1 : Fin 48) (x2 : Fin 48) (x3 : Option (Fin 12)) (x4 : Bool) : Nat :=
  base + x0.val * 2 ^ 20 + x1.val * 2 ^ 14 + x2.val * 2 ^ 8 + gmCode x3 * 2 ^ 4 + x4.toNat

/-- The word of the shape `ofMand`: major and fn in `base`. -/
def wMand (base : Nat) (x0 : Fin 12) (x1 : Fin 12) (x2 : Fin 12) (x3 : Option (Fin 12)) (x4 : Bool) : Nat :=
  base + x0.val * 2 ^ 20 + x1.val * 2 ^ 14 + x2.val * 2 ^ 8 + gmCode x3 * 2 ^ 4 + x4.toNat

/-- The word of the shape `ofMset`: major and fn in `base`. -/
def wMset (base : Nat) (x0 : Fin 12) (x1 : Option (Fin 12)) (x2 : Bool) : Nat :=
  base + x0.val * 2 ^ 20 + gmCode x1 * 2 ^ 4 + x2.toNat

/-- The word of the shape `ofMcnt`: major and fn in `base`. -/
def wMcnt (base : Nat) (x0 : Fin 32) (x1 : Fin 12) (x2 : Option (Fin 12)) (x3 : Bool) : Nat :=
  base + x0.val * 2 ^ 20 + x1.val * 2 ^ 14 + gmCode x2 * 2 ^ 4 + x3.toNat

/-- The word of the shape `ofMbrkb`: major and fn in `base`. -/
def wMbrkb (base : Nat) (x0 : Fin 12) (x1 : Fin 12) (x2 : Option (Fin 12)) (x3 : Bool) : Nat :=
  base + x0.val * 2 ^ 20 + x1.val * 2 ^ 14 + gmCode x2 * 2 ^ 4 + x3.toNat

/-- The word of the shape `ofVbcast`: major and fn in `base`. -/
def wVbcast (base : Nat) (x0 : Fin 48) (x1 : Fin 32) (x2 : Option (Fin 12)) (x3 : Bool) : Nat :=
  base + x0.val * 2 ^ 20 + x1.val * 2 ^ 14 + gmCode x2 * 2 ^ 4 + x3.toNat

/-- The word of the shape `ofVins`: major and fn in `base`. -/
def wVins (base : Nat) (x0 : Fin 48) (x1 : Fin 32) (x2 : Fin 32) (x3 : Bool) : Nat :=
  base + 240 + x0.val * 2 ^ 20 + x1.val * 2 ^ 14 + x2.val * 2 ^ 8 + x3.toNat

/-- The word of the shape `ofVext`: major and fn in `base`. -/
def wVext (base : Nat) (x0 : Fin 32) (x1 : Fin 48) (x2 : Fin 32) (x3 : Bool) : Nat :=
  base + 240 + x0.val * 2 ^ 20 + x1.val * 2 ^ 14 + x2.val * 2 ^ 8 + x3.toNat

/-- The word of the shape `ofVlast`: major and fn in `base`. -/
def wVlast (base : Nat) (x0 : Fin 32) (x1 : Fin 48) (x2 : Option (Fin 12)) (x3 : Bool) : Nat :=
  base + x0.val * 2 ^ 20 + x1.val * 2 ^ 14 + gmCode x2 * 2 ^ 4 + x3.toNat

/-- The word of the shape `ofVidx`: major and fn in `base`. -/
def wVidx (base : Nat) (x0 : Fin 48) (x1 : Option (Fin 12)) (x2 : Bool) : Nat :=
  base + x0.val * 2 ^ 20 + gmCode x1 * 2 ^ 4 + x2.toNat

/-- The word of the shape `ofVslup`: major and fn in `base`. -/
def wVslup (base : Nat) (x0 : Fin 48) (x1 : Fin 48) (x2 : Fin 32) (x3 : Option (Fin 12)) (x4 : Bool) : Nat :=
  base + x0.val * 2 ^ 20 + x1.val * 2 ^ 14 + x2.val * 2 ^ 8 + gmCode x3 * 2 ^ 4 + x4.toNat

/-- The word of the shape `ofVcvt`: major and fn in `base`. -/
def wVcvt (base : Nat) (x0 : Fin 48) (x1 : Fin 48) (x2 : BitVec 2) (x3 : BitVec 4) (x4 : Option (Fin 12)) (x5 : Bool) : Nat :=
  base + x0.val * 2 ^ 20 + x1.val * 2 ^ 14 + x2.toNat * 2 ^ 12 + x3.toNat * 2 ^ 8 + gmCode x4 * 2 ^ 4 + x5.toNat

/-- The word of the shape `ofVqnt`: major and fn in `base`. -/
def wVqnt (base : Nat) (x0 : Fin 48) (x1 : Fin 48) (x2 : BitVec 2) (x3 : Bool) (x4 : BitVec 2) (x5 : Option (Fin 12)) (x6 : Bool) : Nat :=
  base + x0.val * 2 ^ 20 + x1.val * 2 ^ 14 + x2.toNat * 2 ^ 12 + x3.toNat * 2 ^ 11 + x4.toNat * 2 ^ 9 + gmCode x5 * 2 ^ 4 + x6.toNat

/-- The word of the shape `ofVtopk`: major and fn in `base`. -/
def wVtopk (base : Nat) (x0 : Fin 12) (x1 : Fin 48) (x2 : Fin 32) (x3 : Option (Fin 12)) (x4 : Bool) : Nat :=
  base + x0.val * 2 ^ 20 + x1.val * 2 ^ 14 + x2.val * 2 ^ 8 + gmCode x3 * 2 ^ 4 + x4.toNat

/-- The word of the shape `ofVparte`: major and fn in `base`. -/
def wVparte (base : Nat) (x0 : Fin 32) (x1 : Fin 48) (x2 : Fin 32) (x3 : Option (Fin 12)) (x4 : Bool) : Nat :=
  base + x0.val * 2 ^ 20 + x1.val * 2 ^ 14 + x2.val * 2 ^ 8 + gmCode x3 * 2 ^ 4 + x4.toNat

/-- The word of the shape `ofVsegl`: major and fn in `base`. -/
def wVsegl (base : Nat) (x0 : Fin 32) (x1 : Fin 48) (x2 : Fin 12) (x3 : Bool) : Nat :=
  base + 240 + x0.val * 2 ^ 20 + x1.val * 2 ^ 14 + x2.val * 2 ^ 8 + x3.toNat

/-- The word of the shape `ofVld`: major and fn in `base`. -/
def wVld (base : Nat) (x0 : Fin 48) (x1 : Fin 16) (x2 : Fin 32) (x3 : Option (Fin 12)) (x4 : Bool) : Nat :=
  base + x0.val * 2 ^ 20 + x1.val * 2 ^ 16 + x2.val * 2 ^ 10 + gmCode x3 * 2 ^ 6 + x4.toNat * 2 ^ 1

/-- The word of the shape `ofVldx`: major and fn in `base`. -/
def wVldx (base : Nat) (x0 : Fin 48) (x1 : Fin 16) (x2 : Fin 48) (x3 : Option (Fin 12)) (x4 : Bool) (x5 : Bool) : Nat :=
  base + x0.val * 2 ^ 20 + x1.val * 2 ^ 16 + x2.val * 2 ^ 10 + gmCode x3 * 2 ^ 6 + x4.toNat * 2 ^ 1 + x5.toNat

/-- The word of the shape `ofVamoadd`: major and fn in `base`. -/
def wVamoadd (base : Nat) (x0 : Fin 48) (x1 : Fin 16) (x2 : Fin 48) (x3 : Option (Fin 12)) (x4 : MOrd) : Nat :=
  base + x0.val * 2 ^ 20 + x1.val * 2 ^ 16 + x2.val * 2 ^ 10 + gmCode x3 * 2 ^ 6 + x4.code

/-- The word of the shape `ofBrst`: major and fn in `base`. -/
def wBrst (base : Nat) (x0 : Fin 16) : Nat :=
  base + 960 + x0.val * 2 ^ 20

/-- The word of the shape `ofGthw`: major and fn in `base`. -/
def wGthw (base : Nat) (x0 : Fin 16) (x1 : Fin 16) (x2 : Fin 48) (x3 : Option (Fin 12)) (x4 : BitVec 2) : Nat :=
  base + x0.val * 2 ^ 20 + x1.val * 2 ^ 16 + x2.val * 2 ^ 10 + gmCode x3 * 2 ^ 6 + x4.toNat

/-- The word of the shape `ofGthv`: major and fn in `base`. -/
def wGthv (base : Nat) (x0 : Fin 48) (x1 : Fin 16) (x2 : Fin 48) (x3 : Fin 16) (x4 : BitVec 2) : Nat :=
  base + x0.val * 2 ^ 20 + x1.val * 2 ^ 16 + x2.val * 2 ^ 10 + x3.val * 2 ^ 6 + x4.toNat

/-- The word of the shape `ofBcpy`: major and fn in `base`. -/
def wBcpy (base : Nat) (x0 : Fin 16) (x1 : Fin 16) (x2 : Fin 32) (x3 : Fin 16) (x4 : BitVec 2) : Nat :=
  base + x0.val * 2 ^ 20 + x1.val * 2 ^ 16 + x2.val * 2 ^ 10 + x3.val * 2 ^ 6 + x4.toNat

/-- The word of the shape `ofBavl`: major and fn in `base`. -/
def wBavl (base : Nat) (x0 : Fin 32) (x1 : Fin 16) : Nat :=
  base + 960 + x0.val * 2 ^ 20 + x1.val * 2 ^ 16

/-- The word of the shape `ofWaitc`: major and fn in `base`. -/
def wWaitc (base : Nat) (x0 : BitVec 5) (x1 : BitVec 5) (x2 : BitVec 5) (x3 : BitVec 5) : Nat :=
  base + x0.toNat * 2 ^ 21 + x1.toNat * 2 ^ 16 + x2.toNat * 2 ^ 11 + x3.toNat * 2 ^ 6

/-- The word of the shape `ofSeal`: major and fn in `base`. -/
def wSeal (base : Nat) (x0 : Fin 32) (x1 : Fin 16) : Nat :=
  base + x0.val * 2 ^ 21 + x1.val * 2 ^ 17

/-- The word of the shape `ofUnseal`: major and fn in `base`. -/
def wUnseal (base : Nat) (x0 : Fin 16) : Nat :=
  base + x0.val * 2 ^ 17

/-- The word of the shape `ofPref`: major and fn in `base`. -/
def wPref (base : Nat) (x0 : Bool) (x1 : Fin 16) (x2 : BitVec 13) : Nat :=
  base + x0.toNat * 2 ^ 21 + x1.val * 2 ^ 17 + x2.toNat

/-- The word of the shape `ofFlush`: major and fn in `base`. -/
def wFlush (base : Nat) (x0 : Fin 16) (x1 : BitVec 13) : Nat :=
  base + x0.val * 2 ^ 17 + x1.toNat

/-- The word of the shape `ofTld`: major and fn in `base`. -/
def wTld (base : Nat) (x0 : Fin 8) (x1 : Fin 16) (x2 : Fin 32) : Nat :=
  base + x0.val * 2 ^ 23 + x1.val * 2 ^ 19 + x2.val * 2 ^ 5

/-- The word of the shape `ofTst`: major and fn in `base`. -/
def wTst (base : Nat) (x0 : Fin 8) (x1 : Fin 16) (x2 : Fin 32) (x3 : Fin 32) : Nat :=
  base + x0.val * 2 ^ 23 + x1.val * 2 ^ 19 + x2.val * 2 ^ 5 + x3.val

/-- The word of the shape `ofTforce`: major and fn in `base`. -/
def wTforce (base : Nat) (x0 : Fin 8) (x1 : Fin 32) : Nat :=
  base + x0.val * 2 ^ 23 + x1.val

/-- The word of the shape `ofTdrop`: major and fn in `base`. -/
def wTdrop (base : Nat) (x0 : Fin 8) : Nat :=
  base + x0.val * 2 ^ 23

/-- The word of the shape `ofTmma`: major and fn in `base`. -/
def wTmma (base : Nat) (x0 : Fin 8) (x1 : Fin 8) (x2 : Fin 8) : Nat :=
  base + x0.val * 2 ^ 23 + x1.val * 2 ^ 20 + x2.val * 2 ^ 17

/-- The word of the shape `ofTqmma`: major and fn in `base`. -/
def wTqmma (base : Nat) (x0 : Fin 8) (x1 : Fin 8) (x2 : Fin 8) (x3 : BitVec 2) (x4 : Fin 8) (x5 : Fin 8) : Nat :=
  base + x0.val * 2 ^ 23 + x1.val * 2 ^ 20 + x2.val * 2 ^ 17 + x3.toNat * 2 ^ 6 + x4.val * 2 ^ 3 + x5.val

/-- The word of the shape `ofTew`: major and fn in `base`. -/
def wTew (base : Nat) (x0 : Fin 8) (x1 : Fin 8) (x2 : Fin 8) (x3 : BitVec 3) : Nat :=
  base + x0.val * 2 ^ 23 + x1.val * 2 ^ 20 + x2.val * 2 ^ 17 + x3.toNat

/-- The word of the shape `ofTact`: major and fn in `base`. -/
def wTact (base : Nat) (x0 : Fin 8) (x1 : Fin 8) (x2 : Fin 32) (x3 : BitVec 3) : Nat :=
  base + x0.val * 2 ^ 23 + x1.val * 2 ^ 20 + x2.val * 2 ^ 3 + x3.toNat

/-- The word of the shape `ofTred`: major and fn in `base`. -/
def wTred (base : Nat) (x0 : Fin 8) (x1 : Fin 8) (x2 : BitVec 2) (x3 : Bool) : Nat :=
  base + x0.val * 2 ^ 23 + x1.val * 2 ^ 20 + x2.toNat * 2 ^ 1 + x3.toNat

/-- The word of the shape `ofTview`: major and fn in `base`. -/
def wTview (base : Nat) (x0 : Fin 8) (x1 : Fin 8) (x2 : Fin 32) : Nat :=
  base + x0.val * 2 ^ 23 + x1.val * 2 ^ 20 + x2.val

/-- The word of the shape `ofTfeed`: major and fn in `base`. -/
def wTfeed (base : Nat) (x0 : Fin 8) (x1 : Fin 32) (x2 : Fin 48) : Nat :=
  base + x0.val * 2 ^ 23 + x1.val * 2 ^ 17 + x2.val * 2 ^ 4

/-- The word of the shape `ofTstat`: major and fn in `base`. -/
def wTstat (base : Nat) (x0 : Fin 8) (x1 : Fin 32) (x2 : BitVec 4) : Nat :=
  base + x0.val * 2 ^ 23 + x1.val * 2 ^ 17 + x2.toNat

/-- The word of the shape `ofGbind`: major and fn in `base`. -/
def wGbind (base : Nat) (x0 : Fin 16) (x1 : Fin 32) : Nat :=
  base + x0.val * 2 ^ 21 + x1.val * 2 ^ 16

/-- The word of the shape `ofGbindFree`: major and fn in `base`. -/
def wGbindFree (base : Nat) (x0 : Fin 32) : Nat :=
  base + x0.val * 2 ^ 16

/-- The word of the shape `ofGstep`: major and fn in `base`. -/
def wGstep (base : Nat) (x0 : Fin 32) (x1 : Fin 32) (x2 : Fin 32) : Nat :=
  base + x0.val * 2 ^ 21 + x1.val * 2 ^ 16 + x2.val * 2 ^ 11

/-- The word of the shape `ofGmask`: major and fn in `base`. -/
def wGmask (base : Nat) (x0 : Fin 16) (x1 : Fin 32) (x2 : Bool) : Nat :=
  base + x0.val * 2 ^ 21 + x1.val * 2 ^ 16 + x2.toNat * 2 ^ 4

/-- The word of the shape `ofGckpt`: major and fn in `base`. -/
def wGckpt (base : Nat) (x0 : Fin 32) : Nat :=
  base + x0.val * 2 ^ 16

/-- The word of the shape `ofGroll`: major and fn in `base`. -/
def wGroll (base : Nat) (x0 : Fin 32) (x1 : Fin 32) : Nat :=
  base + x0.val * 2 ^ 16 + x1.val * 2 ^ 11

/-- The word of the shape `ofGfork`: major and fn in `base`. -/
def wGfork (base : Nat) (x0 : Fin 32) (x1 : Fin 32) : Nat :=
  base + x0.val * 2 ^ 21 + x1.val * 2 ^ 16

/-- The word of the shape `ofGsave`: major and fn in `base`. -/
def wGsave (base : Nat) (x0 : Fin 16) (x1 : Fin 32) (x2 : Fin 32) : Nat :=
  base + x0.val * 2 ^ 21 + x1.val * 2 ^ 16 + x2.val * 2 ^ 11

/-- The word of the shape `ofGrest`: major and fn in `base`. -/
def wGrest (base : Nat) (x0 : Fin 32) (x1 : Fin 32) (x2 : Fin 16) : Nat :=
  base + x0.val * 2 ^ 21 + x1.val * 2 ^ 16 + x2.val * 2 ^ 11

/-- The word of the shape `ofGstat`: major and fn in `base`. -/
def wGstat (base : Nat) (x0 : Fin 32) (x1 : Fin 32) (x2 : BitVec 2) : Nat :=
  base + x0.val * 2 ^ 21 + x1.val * 2 ^ 16 + x2.toNat * 2 ^ 4

/-- The word of the shape `ofSpawn`: major and fn in `base`. -/
def wSpawn (base : Nat) (x0 : Fin 32) (x1 : Fin 16) (x2 : Fin 16) (x3 : Scope) : Nat :=
  base + x0.val * 2 ^ 21 + x1.val * 2 ^ 16 + x2.val * 2 ^ 11 + x3.code * 2 ^ 4

/-- The word of the shape `ofFset`: major and fn in `base`. -/
def wFset (base : Nat) (x0 : Fin 16) (x1 : Fin 32) (x2 : Scope) : Nat :=
  base + x0.val * 2 ^ 16 + x1.val * 2 ^ 11 + x2.code * 2 ^ 4

/-- The word of the shape `ofFwait`: major and fn in `base`. -/
def wFwait (base : Nat) (x0 : Fin 32) (x1 : Fin 16) (x2 : Scope) : Nat :=
  base + x0.val * 2 ^ 21 + x1.val * 2 ^ 16 + x2.code * 2 ^ 4

/-- The word of the shape `ofExit`: major and fn in `base`. -/
def wExit (base : Nat) (x0 : Fin 32) (x1 : Scope) : Nat :=
  base + x0.val * 2 ^ 11 + x1.code * 2 ^ 4

/-- The word of the shape `ofTmmas`: major and fn in `base`. -/
def wTmmas (base : Nat) (x0 : Fin 8) (x1 : Fin 8) (x2 : Fin 8) (x3 : Fin 8) : Nat :=
  base + x0.val * 2 ^ 23 + x1.val * 2 ^ 20 + x2.val * 2 ^ 17 + x3.val

/-- The word of an instruction as a number; a step without a word has none. -/
def encodeNat : Instr → Option Nat
  | .csrr d c => some (wCsrr 0x04000000 d c)
  | .csrw d a c => some (wCsrw 0x04000001 d a c)
  | .csrs d a c => some (wCsrw 0x04000002 d a c)
  | .csrc d a c => some (wCsrw 0x04000003 d a c)
  | .svc c => some (wSvc 0x04000004 c)
  | .eret => some (wEret 0x04000005)
  | .halt => some (wEret 0x04000006)
  | .nop => some (wEret 0x04000007)
  | .brk c => some (wSvc 0x04000008 c)
  | .trcm a c => some (wTrcm 0x04000009 a c)
  | .pfx i => some (wPfx 0x08000000 i)
  | .fence o s => some (wFence 0x0C000000 o s)
  | .vlsync s => some (wVlsync 0x0C000100 s)
  | .barv l => some (wBarv 0x0C000400 l)
  | .barw l => some (wBarv 0x0C000500 l)
  | .add d a b => some (wAdd 0x10000000 d a b)
  | .sub d a b => some (wAdd 0x10000001 d a b)
  | .and d a b => some (wAdd 0x10000002 d a b)
  | .or d a b => some (wAdd 0x10000003 d a b)
  | .xor d a b => some (wAdd 0x10000004 d a b)
  | .sll d a b => some (wAdd 0x10000005 d a b)
  | .srl d a b => some (wAdd 0x10000006 d a b)
  | .sra d a b => some (wAdd 0x10000007 d a b)
  | .slt d a b => some (wAdd 0x10000008 d a b)
  | .sltn d a b => some (wAdd 0x10000009 d a b)
  | .min d a b => some (wAdd 0x1000000A d a b)
  | .max d a b => some (wAdd 0x1000000B d a b)
  | .minn d a b => some (wAdd 0x1000000C d a b)
  | .maxn d a b => some (wAdd 0x1000000D d a b)
  | .clz d a => some (wClz 0x1000000E d a)
  | .popc d a => some (wClz 0x1000000F d a)
  | .addi d a i => some (wAddi 0x14000000 d a i)
  | .andi d a i => some (wAddi 0x14002000 d a i)
  | .ori d a i => some (wAddi 0x14004000 d a i)
  | .xori d a i => some (wAddi 0x14006000 d a i)
  | .slli d a i => some (wAddi 0x14008000 d a i)
  | .srli d a i => some (wAddi 0x1400A000 d a i)
  | .srai d a i => some (wAddi 0x1400C000 d a i)
  | .slti d a i => some (wAddi 0x1400E000 d a i)
  | .li d i => some (wLi 0x18000000 d i)
  | .mul d a b => some (wAdd 0x1C000000 d a b)
  | .mulh d a b => some (wAdd 0x1C000001 d a b)
  | .mulhn d a b => some (wAdd 0x1C000002 d a b)
  | .div d a b => some (wAdd 0x1C000003 d a b)
  | .divn d a b => some (wAdd 0x1C000004 d a b)
  | .rem d a b => some (wAdd 0x1C000005 d a b)
  | .remn d a b => some (wAdd 0x1C000006 d a b)
  | .beq a b o => some (wBeq 0x20000000 a b o)
  | .bne a b o => some (wBeq 0x20800000 a b o)
  | .blt a b o => some (wBeq 0x21000000 a b o)
  | .bge a b o => some (wBeq 0x21800000 a b o)
  | .bltn a b o => some (wBeq 0x22000000 a b o)
  | .bgen a b o => some (wBeq 0x22800000 a b o)
  | .j o => some (wPfx 0x24000000 o)
  | .call o => some (wPfx 0x28000000 o)
  | .jr a => some (wJr 0x2C000000 a)
  | .callr a => some (wJr 0x2C000001 a)
  | .ldb d a o => some (wLdb 0x30000000 d a o)
  | .ldh d a o => some (wLdb 0x30002000 d a o)
  | .ldw d a o => some (wLdb 0x30004000 d a o)
  | .ldd d a o => some (wLdb 0x30006000 d a o)
  | .ldbn d a o => some (wLdb 0x30008000 d a o)
  | .ldhn d a o => some (wLdb 0x3000A000 d a o)
  | .ldwn d a o => some (wLdb 0x3000C000 d a o)
  | .lda d a o => some (wLda 0x3000E000 d a o)
  | .stb d a o => some (wLdb 0x34000000 d a o)
  | .sth d a o => some (wLdb 0x34002000 d a o)
  | .stw d a o => some (wLdb 0x34004000 d a o)
  | .std d a o => some (wLdb 0x34006000 d a o)
  | .sta d a o => some (wLda 0x34008000 d a o)
  | .amoadd d a b w o s => some (wAmoadd 0x38000000 d a b w o s)
  | .amoswp d a b w o s => some (wAmoadd 0x38000100 d a b w o s)
  | .amocas d a b w o s => some (wAmoadd 0x38000200 d a b w o s)
  | .amomin d a b w o s => some (wAmoadd 0x38000300 d a b w o s)
  | .amomax d a b w o s => some (wAmoadd 0x38000400 d a b w o s)
  | .amoand d a b w o s => some (wAmoadd 0x38000500 d a b w o s)
  | .amoor d a b w o s => some (wAmoadd 0x38000600 d a b w o s)
  | .amoxor d a b w o s => some (wAmoadd 0x38000700 d a b w o s)
  | .aadd d a b => some (wAadd 0x3C000000 d a b)
  | .aaddi d a i => some (wAaddi 0x3C002000 d a i)
  | .aset d a i => some (wAset 0x3C004000 d a i)
  | .alo d a => some (wAlo 0x3C006000 d a)
  | .awn d a => some (wAlo 0x3C008000 d a)
  | .adiff d a b => some (wAdiff 0x3C00A000 d a b)
  | .vsetl d a i => some (wAddi 0x40000000 d a i)
  | .vsetlr d a b => some (wVsetlr 0x40002000 d a b)
  | .vend => some (wVend 0x40004000)
  | .vcut => some (wVend 0x40006000)
  | .vadd d a b m h => some (wVadd 0x44000000 d a b m h)
  | .vsub d a b m h => some (wVadd 0x44000002 d a b m h)
  | .vmul d a b m h => some (wVadd 0x44000004 d a b m h)
  | .vmulh d a b m h => some (wVadd 0x44000006 d a b m h)
  | .vdiv d a b m h => some (wVadd 0x44000008 d a b m h)
  | .vrem d a b m h => some (wVadd 0x4400000A d a b m h)
  | .vmin d a b m h => some (wVadd 0x4400000C d a b m h)
  | .vmax d a b m h => some (wVadd 0x4400000E d a b m h)
  | .vmac d a b m h => some (wVadd 0x48000000 d a b m h)
  | .vnmac d a b m h => some (wVadd 0x48000002 d a b m h)
  | .vand d a b m h => some (wVadd 0x48000004 d a b m h)
  | .vor d a b m h => some (wVadd 0x48000006 d a b m h)
  | .vxor d a b m h => some (wVadd 0x48000008 d a b m h)
  | .vshl d a b m h => some (wVadd 0x4800000A d a b m h)
  | .vshr d a b m h => some (wVadd 0x4800000C d a b m h)
  | .vsra d a b m h => some (wVadd 0x4800000E d a b m h)
  | .vaddVs d a b x m h => some (wVaddVs 0x4C000000 d a b x m h)
  | .vsubVs d a b x m h => some (wVaddVs 0x4C000002 d a b x m h)
  | .vmulVs d a b x m h => some (wVaddVs 0x4C000004 d a b x m h)
  | .vmulhVs d a b x m h => some (wVaddVs 0x4C000006 d a b x m h)
  | .vdivVs d a b x m h => some (wVaddVs 0x4C000008 d a b x m h)
  | .vremVs d a b x m h => some (wVaddVs 0x4C00000A d a b x m h)
  | .vminVs d a b x m h => some (wVaddVs 0x4C00000C d a b x m h)
  | .vmaxVs d a b x m h => some (wVaddVs 0x4C00000E d a b x m h)
  | .vmacVs d a b x m h => some (wVaddVs 0x50000000 d a b x m h)
  | .vnmacVs d a b x m h => some (wVaddVs 0x50000002 d a b x m h)
  | .vandVs d a b x m h => some (wVaddVs 0x50000004 d a b x m h)
  | .vorVs d a b x m h => some (wVaddVs 0x50000006 d a b x m h)
  | .vxorVs d a b x m h => some (wVaddVs 0x50000008 d a b x m h)
  | .vshlVs d a b x m h => some (wVaddVs 0x5000000A d a b x m h)
  | .vshrVs d a b x m h => some (wVaddVs 0x5000000C d a b x m h)
  | .vsraVs d a b x m h => some (wVaddVs 0x5000000E d a b x m h)
  | .vaddVi d a i m h => some (wVaddVi 0x54000000 d a i m h)
  | .vsubVi d a i m h => some (wVaddVi 0x54000002 d a i m h)
  | .vandVi d a i m h => some (wVaddVi 0x54000004 d a i m h)
  | .vorVi d a i m h => some (wVaddVi 0x54000006 d a i m h)
  | .vxorVi d a i m h => some (wVaddVi 0x54000008 d a i m h)
  | .vshlVi d a i m h => some (wVaddVi 0x5400000A d a i m h)
  | .vshrVi d a i m h => some (wVaddVi 0x5400000C d a i m h)
  | .vsraVi d a i m h => some (wVaddVi 0x5400000E d a i m h)
  | .vabs d a m h => some (wVabs 0x58000000 d a m h)
  | .vneg d a m h => some (wVabs 0x58000002 d a m h)
  | .vsqrt d a m h => some (wVabs 0x58000004 d a m h)
  | .vexp2 d a m h => some (wVabs 0x58000006 d a m h)
  | .vlog2 d a m h => some (wVabs 0x58000008 d a m h)
  | .vclz d a m h => some (wVabs 0x5800000A d a m h)
  | .vpopc d a m h => some (wVabs 0x5800000C d a m h)
  | .vmv d a m h => some (wVabs 0x5800000E d a m h)
  | .vcmpeq d a b m h => some (wVcmpeq 0x5C000000 d a b m h)
  | .vcmpne d a b m h => some (wVcmpeq 0x5C000002 d a b m h)
  | .vcmplt d a b m h => some (wVcmpeq 0x5C000004 d a b m h)
  | .vcmple d a b m h => some (wVcmpeq 0x5C000006 d a b m h)
  | .vcmpgt d a b m h => some (wVcmpeq 0x5C000008 d a b m h)
  | .vcmpge d a b m h => some (wVcmpeq 0x5C00000A d a b m h)
  | .vcmpltn d a b m h => some (wVcmpeq 0x5C00000C d a b m h)
  | .vcmpgen d a b m h => some (wVcmpeq 0x5C00000E d a b m h)
  | .mand d a b m h => some (wMand 0x60000000 d a b m h)
  | .mor d a b m h => some (wMand 0x60000002 d a b m h)
  | .mxor d a b m h => some (wMand 0x60000004 d a b m h)
  | .mandn d a b m h => some (wMand 0x60000006 d a b m h)
  | .mset d m h => some (wMset 0x60000008 d m h)
  | .mclr d m h => some (wMset 0x6000000A d m h)
  | .mcnt d a m h => some (wMcnt 0x64000000 d a m h)
  | .mfirst d a m h => some (wMcnt 0x64000002 d a m h)
  | .mbrkb d a m h => some (wMbrkb 0x64000004 d a m h)
  | .mbrki d a m h => some (wMbrkb 0x64000006 d a m h)
  | .vbcast d a m h => some (wVbcast 0x68000000 d a m h)
  | .vins d a b h => some (wVins 0x68000002 d a b h)
  | .vext d a b h => some (wVext 0x68000004 d a b h)
  | .vlast d a m h => some (wVlast 0x68000006 d a m h)
  | .vidx d m h => some (wVidx 0x68000008 d m h)
  | .vslup d a b m h => some (wVslup 0x6800000A d a b m h)
  | .vsldn d a b m h => some (wVslup 0x6800000C d a b m h)
  | .vperm d a b m h => some (wVadd 0x6800000E d a b m h)
  | .vcmpr d a m h => some (wVabs 0x6C000000 d a m h)
  | .vexpd d a m h => some (wVabs 0x6C000002 d a m h)
  | .vmerge d a b m h => some (wVadd 0x6C000004 d a b m h)
  | .vredsum d a m h => some (wVabs 0x6C000006 d a m h)
  | .vredosum d a m h => some (wVabs 0x6C000008 d a m h)
  | .vredmin d a m h => some (wVabs 0x6C00000A d a m h)
  | .vredmax d a m h => some (wVabs 0x6C00000C d a m h)
  | .vscan d a m h => some (wVabs 0x6C00000E d a m h)
  | .vcvt d a r t m h => some (wVcvt 0x70000000 d a r t m h)
  | .vqnt d a r q k m h => some (wVqnt 0x70000002 d a r q k m h)
  | .vdqnt d a r q k m h => some (wVqnt 0x70000004 d a r q k m h)
  | .vtopk d a b m h => some (wVtopk 0x70000006 d a b m h)
  | .vtopkAbs d a b m h => some (wVtopk 0x70000008 d a b m h)
  | .vconf d a m h => some (wVabs 0x74000000 d a m h)
  | .vpart d a b m h => some (wVtopk 0x74000002 d a b m h)
  | .vparte d a b m h => some (wVparte 0x74000004 d a b m h)
  | .vsegl d a b h => some (wVsegl 0x74000006 d a b h)
  | .vld d a b m n => some (wVld 0x78000000 d a b m n)
  | .vlds d a b m n => some (wVld 0x78000004 d a b m n)
  | .vldx d a b m n c => some (wVldx 0x78000008 d a b m n c)
  | .vldff d a b m n => some (wVld 0x7800000C d a b m n)
  | .vldc d a b m n => some (wVld 0x78000010 d a b m n)
  | .vst d a b m n => some (wVld 0x7C000000 d a b m n)
  | .vsts d a b m n => some (wVld 0x7C000004 d a b m n)
  | .vstx d a b m n c => some (wVldx 0x7C000008 d a b m n c)
  | .vstc d a b m n => some (wVld 0x7C00000C d a b m n)
  | .vamoadd d a b m o => some (wVamoadd 0x80000000 d a b m o)
  | .vamoswp d a b m o => some (wVamoadd 0x80000004 d a b m o)
  | .vamocas d a b m o => some (wVamoadd 0x80000008 d a b m o)
  | .vamomin d a b m o => some (wVamoadd 0x8000000C d a b m o)
  | .vamomax d a b m o => some (wVamoadd 0x80000010 d a b m o)
  | .vamoand d a b m o => some (wVamoadd 0x80000014 d a b m o)
  | .vamoor d a b m o => some (wVamoadd 0x80000018 d a b m o)
  | .vamoxor d a b m o => some (wVamoadd 0x8000001C d a b m o)
  | .vamocasw d a b m o => some (wVamoadd 0x80000028 d a b m o)
  | .brst n => some (wBrst 0x84000000 n)
  | .brstFree n => some (wBrst 0x84000001 n)
  | .gthw n a b m s => some (wGthw 0x84000004 n a b m s)
  | .gthv d a b n s => some (wGthv 0x84000008 d a b n s)
  | .gthvFf d a b n s => some (wGthv 0x8400000C d a b n s)
  | .sctw n a b m s => some (wGthw 0x84000010 n a b m s)
  | .bcpy n s c d p => some (wBcpy 0x84000014 n s c d p)
  | .bavl d n => some (wBavl 0x84000018 d n)
  | .waitc l s c t => some (wWaitc 0x88000000 l s c t)
  | .seal d a => some (wSeal 0x8C000000 d a)
  | .unseal a => some (wUnseal 0x8C002000 a)
  | .pref h a o => some (wPref 0x8C004000 h a o)
  | .flush a o => some (wFlush 0x8C006000 a o)
  | .tld d a b => some (wTld 0x90000000 d a b)
  | .tst d a b c => some (wTst 0x90000400 d a b c)
  | .tforce d c => some (wTforce 0x90000800 d c)
  | .tdrop d => some (wTdrop 0x90000C00 d)
  | .tzero d => some (wTdrop 0x90001000 d)
  | .tforceA d c => some (wTforce 0x90001400 d c)
  | .tmma d a b => some (wTmma 0x94000000 d a b)
  | .tqmma d a b g q p => some (wTqmma 0x94000400 d a b g q p)
  | .tew d a b o => some (wTew 0x94000800 d a b o)
  | .tact d a s o => some (wTact 0x94000C00 d a s o)
  | .tred d a o r => some (wTred 0x94001000 d a o r)
  | .tview d a s => some (wTview 0x94001400 d a s)
  | .tfeed d s v => some (wTfeed 0x98000000 d s v)
  | .tdrain d s v => some (wTfeed 0x98000400 d s v)
  | .tstat d s l => some (wTstat 0x98000800 d s l)
  | .gbind d a => some (wGbind 0xA0000000 d a)
  | .gbindFree a => some (wGbindFree 0xA0000010 a)
  | .gstep d a b => some (wGstep 0xA0000001 d a b)
  | .gmask d a f => some (wGmask 0xA0000002 d a f)
  | .gckpt a => some (wGckpt 0xA0000003 a)
  | .groll a b => some (wGroll 0xA0000004 a b)
  | .gfork d a => some (wGfork 0xA0000005 d a)
  | .gsave d a b => some (wGsave 0xA0000006 d a b)
  | .grest d a b => some (wGrest 0xA0000007 d a b)
  | .gstat d a s => some (wGstat 0xA0000008 d a s)
  | .spawn d a b s => some (wSpawn 0xA4000000 d a b s)
  | .lease a b => some (wGroll 0xA4000001 a b)
  | .fset a b s => some (wFset 0xA4000002 a b s)
  | .fwait d a s => some (wFwait 0xA4000003 d a s)
  | .fget d a s => some (wFwait 0xA4000004 d a s)
  | .exit b s => some (wExit 0xA4000005 b s)
  | .yield => some (wEret 0xA4000006)
  | .tmmas d a b m => some (wTmmas 0xFC000000 d a b m)
  | _ => none

/-- The word of an instruction. -/
def encode (i : Instr) : Option (BitVec 32) := (encodeNat i).map (BitVec.ofNat 32)

end Sys2Proof
end

