-- ==== Sys2Proof/Machine/Formats.lean ====
section
/-! DEFINITION. Number formats, flags, rounding, the Aster generator and exact arithmetic (R124-R136, R112, R113). A value is
an exact rational with a mark for an irrational excess; every result is rounded once from it. -/

namespace Sys2Proof.Machine

/-! ### Element types (R73, R124, R125) -/

/-- The width of a type's elements (R8). -/
def elemBits (t : Nat) : Nat :=
  match t with
  | 0 => 8 | 1 => 16 | 2 => 32 | 3 => 64
  | 4 => 8 | 5 => 16 | 6 => 32 | 7 => 64
  | 8 => 8 | 9 => 8 | 10 => 16 | 11 => 16 | 12 => 32 | 13 => 64
  | 14 => 4 | _ => 8

/-- Signed integer types. -/
def isI (t : Nat) : Bool := decide (t < 4)
/-- Unsigned integer types. -/
def isN (t : Nat) : Bool := decide (4 ≤ t ∧ t < 8)
/-- Floating-point types. -/
def isF (t : Nat) : Bool := decide (8 ≤ t ∧ t < 14)
/-- Quantized types. -/
def isQ (t : Nat) : Bool := decide (14 ≤ t)

/-- A floating-point format (R125): its width, p, bias, and whether it has an infinity. -/
structure Fmt where
  bits : Nat
  p    : Nat
  bias : Nat
  inf  : Bool
deriving DecidableEq, Repr

/-- The formats of the float types (R125). -/
def fmtOf (t : Nat) : Fmt :=
  match t with
  | 8  => ⟨8, 4, 7, false⟩
  | 9  => ⟨8, 3, 15, true⟩
  | 10 => ⟨16, 11, 15, true⟩
  | 11 => ⟨16, 8, 127, true⟩
  | 12 => ⟨32, 24, 127, true⟩
  | _  => ⟨64, 53, 1023, true⟩

/-- f32, the format of tile sums. -/
def f32 : Fmt := fmtOf 12
/-- f16, the format of scales. -/
def f16 : Fmt := fmtOf 10

/-- The magnitude bits of the greatest finite value. -/
def Fmt.maxBits (f : Fmt) : Nat :=
  if f.inf then (2 ^ (f.bits - f.p) - 1) * 2 ^ (f.p - 1) - 1 else 2 ^ (f.bits - 1) - 2
/-- The canonical NaN (R125, R128). -/
def Fmt.nan (f : Fmt) : Nat :=
  if f.inf then (2 ^ (f.bits - f.p) - 1) * 2 ^ (f.p - 1) + 2 ^ (f.p - 2) else 2 ^ (f.bits - 1) - 1
/-- A magnitude with a sign. -/
def Fmt.signed (f : Fmt) (neg : Bool) (mag : Nat) : Nat := if neg then mag + 2 ^ (f.bits - 1) else mag
/-- Infinity, or what stands for it under f8e4. -/
def Fmt.infBits (f : Fmt) (neg : Bool) : Nat := f.signed neg (if f.inf then f.maxBits + 1 else f.maxBits)

/-! ### Values -/

/-- A datum: NaN, an infinity, or the exact value (−1)^neg × n ÷ d, a little more in magnitude when `above` is set. -/
inductive Val where
  | nan
  | inf (neg : Bool)
  | num (neg : Bool) (n d : Nat) (above : Bool)
deriving DecidableEq, Repr

/-- An exact integer. -/
def Val.ofInt (x : Int) : Val := .num (decide (x < 0)) x.natAbs 1 false

/-- m × 2^e. -/
def Val.scaled (neg : Bool) (m : Nat) (e : Int) : Val :=
  if 0 ≤ e then .num neg (m * 2 ^ e.toNat) 1 false else .num neg m (2 ^ (-e).toNat) false

/-- Reading a pattern (R126, R127). -/
def Fmt.read (f : Fmt) (x : Nat) : Val :=
  let neg := decide (2 ^ (f.bits - 1) ≤ x % 2 ^ f.bits)
  let mag := x % 2 ^ (f.bits - 1)
  let e := mag / 2 ^ (f.p - 1)
  let frac := mag % 2 ^ (f.p - 1)
  if f.maxBits < mag then (if f.inf ∧ frac = 0 then .inf neg else .nan)
  else if e = 0 then Val.scaled neg frac (2 - (f.bias : Int) - f.p)
  else Val.scaled neg (frac + 2 ^ (f.p - 1)) ((e : Int) - f.bias - f.p + 1)

/-- Whether a value is NaN. -/
def Val.isNan : Val → Bool
  | .nan => true | _ => false
/-- Whether a value is zero. -/
def Val.isZero : Val → Bool
  | .num _ n _ above => decide (n = 0) && !above | _ => false
/-- The sign. -/
def Val.neg? : Val → Bool
  | .nan => false | .inf s => s | .num s _ _ _ => s
/-- The value with its sign inverted. -/
def Val.negate : Val → Val
  | .nan => .nan | .inf s => .inf (!s) | .num s n d a => .num (!s) n d a
/-- The magnitude. -/
def Val.abs : Val → Val
  | .nan => .nan | .inf _ => .inf false | .num _ n d a => .num false n d a

/-- A pattern with a NaN made canonical (R128). -/
def Fmt.canon (f : Fmt) (x : Nat) : Nat := if (f.read x).isNan then f.nan else x

/-- An integer key of the order of the numbers: `below` as −1, 0, 1 for less, equal, greater; NaN is not ordered here. -/
def Val.cmp (x y : Val) : Int :=
  match x, y with
  | .nan, _ => 0
  | _, .nan => 0
  | .inf a, .inf b => (if a then -1 else 1) - (if b then -1 else 1)
  | .inf a, _ => if a then -1 else 1
  | _, .inf b => if b then 1 else -1
  | .num s n d _, .num s' n' d' _ =>
    let a : Int := (if s then -(n : Int) else n) * d'
    let b : Int := (if s' then -(n' : Int) else n') * d
    if a < b then -1 else if a = b then 0 else 1

/-- The order that puts −0 below +0 (R112, R120). -/
def Val.cmpZ (x y : Val) : Int :=
  let c := Val.cmp x y
  if c = 0 ∧ x.isZero ∧ y.isZero then (if x.neg? then 0 else 1) - (if y.neg? then 0 else 1) else c

/-! ### Flags (R129) -/

/-- The five sticky flags. -/
abbrev Flags := BitVec 5
/-- An invalid operation. -/
def IVO : Flags := 1
/-- An inexact result. -/
def INX : Flags := 2
/-- Overflow. -/
def OFL : Flags := 4
/-- A tiny inexact result. -/
def UFL : Flags := 8
/-- Division by zero. -/
def DBZ : Flags := 16

/-! ### Rounding (R130, R131) -/

/-- The rounding modes. -/
inductive RMode where
  | rne | rtz | rup | rdn | rmm | sr
deriving DecidableEq, Repr

/-- The mode of an frm code (R130); codes 6 and 7 are never stored. -/
def RMode.ofCode (c : Nat) : RMode :=
  match c with
  | 0 => .rne | 1 => .rtz | 2 => .rup | 3 => .rdn | 4 => .rmm | _ => .sr

/-- floor(log2 (n ÷ d)) for n ≠ 0. -/
def floorLog (n d : Nat) : Int :=
  let e : Int := (Nat.log2 n : Int) - Nat.log2 d
  let ge : Bool := if 0 ≤ e then decide (d * 2 ^ e.toNat ≤ n) else decide (d ≤ n * 2 ^ (-e).toNat)
  if ge then e else e - 1

/-- Whether the step from n × u to (n + 1) × u is taken, for the discarded part rem ÷ den of a unit (R131). -/
def roundUp (mode : RMode) (r : Nat) (neg : Bool) (q rem den : Nat) (above : Bool) : Bool :=
  match mode with
  | .rne => decide (den < 2 * rem) || (decide (2 * rem = den) && (above || decide (q % 2 = 1)))
  | .rmm => decide (den ≤ 2 * rem)
  | .rtz => false
  | .rup => !neg
  | .rdn => neg
  | .sr  => decide (2 ^ 32 ≤ rem * 2 ^ 32 / den + r / 2 ^ 32)

/-- Round to a float format (R131): the pattern and the flags. `r` is the output of the Aster generator. -/
def Fmt.round (f : Fmt) (mode : RMode) (r : Nat) (x : Val) : Nat × Flags :=
  match x with
  | .nan => (f.nan, 0)
  | .inf neg => (f.infBits neg, if f.inf then 0 else INX ||| OFL)
  | .num neg n d above =>
    if n = 0 ∧ above = false then (f.signed neg 0, 0)
    else
      let emin : Int := 1 - f.bias
      let lg := if n = 0 then emin - 1 else floorLog n d
      let ue : Int := max lg emin - f.p + 1
      let num := if 0 ≤ ue then n else n * 2 ^ (-ue).toNat
      let den := if 0 ≤ ue then d * 2 ^ ue.toNat else d
      let q := num / den
      let rem := num % den
      let exact := decide (rem = 0) && !above
      let up := !exact && roundUp mode r neg q rem den above
      let m := if up then q + 1 else q
      let mag := (ue + f.p - 2 + f.bias).toNat * 2 ^ (f.p - 1) + m
      let fl : Flags := (if exact then 0 else INX) ||| (if !exact ∧ lg < emin then UFL else 0)
      if f.maxBits < mag then
        let toInf : Bool := match mode with
          | .rne | .rmm | .sr => true
          | .rup => !neg
          | .rdn => neg
          | .rtz => false
        (f.signed neg (if f.inf ∧ toInf then f.maxBits + 1 else f.maxBits), fl ||| OFL ||| INX)
      else (f.signed neg mag, fl)

/-- Round to an integer without a range (the format Z of R131); infinities and NaN are the caller's. -/
def roundZ (mode : RMode) (r : Nat) (x : Val) : Int × Flags :=
  match x with
  | .num neg n d above =>
    let q := n / d
    let rem := n % d
    let exact := decide (rem = 0) && !above
    let m := if !exact && roundUp mode r neg q rem d above then q + 1 else q
    (if neg then -(m : Int) else m, if exact then 0 else INX)
  | _ => (0, 0)

/-- Sat (R8). -/
def satTo (x : Int) (n : Nat) (signed : Bool) : Int :=
  if signed then max (-(2 ^ (n - 1) : Int)) (min x (2 ^ (n - 1) - 1)) else max 0 (min x (2 ^ n - 1))

/-! ### The Aster generator (R132) -/

/-- One of the four rounds: the state and the local key. -/
def asterRound (vk : Word × Word) : Word × Word :=
  let v := (vk.1 ^^^ vk.2) * 0xC3A59E174B6D2F81
  (v ^^^ (v >>> 31), (vk.2 <<< 21 ||| vk.2 >>> 43) + 0x5F1D83E9A26C07B5)

/-- The output R for a key, a counter and a step. -/
def aster (key ctr step : Word) : Nat :=
  (asterRound (asterRound (asterRound (asterRound (ctr ^^^ (step <<< 40 ||| step >>> 24), key))))).1.toNat

/-! ### Exact arithmetic with the specials of R112 -/

/-- A sum; the sign of a zero result by R112. -/
def Val.add (mode : RMode) (x y : Val) : Val × Flags :=
  match x, y with
  | .nan, _ => (.nan, 0)
  | _, .nan => (.nan, 0)
  | .inf a, .inf b => if a = b then (.inf a, 0) else (.nan, IVO)
  | .inf a, _ => (.inf a, 0)
  | _, .inf b => (.inf b, 0)
  | .num s n d _, .num s' n' d' _ =>
    let a : Int := (if s then -(n : Int) else n) * d' + (if s' then -(n' : Int) else n') * d
    if a = 0 then
      (.num (if n = 0 ∧ n' = 0 ∧ s = s' then s else decide (mode = .rdn)) 0 1 false, 0)
    else (.num (decide (a < 0)) a.natAbs (d * d') false, 0)

/-- A product. -/
def Val.mul (x y : Val) : Val × Flags :=
  match x, y with
  | .nan, _ => (.nan, 0)
  | _, .nan => (.nan, 0)
  | .inf a, y => if y.isZero then (.nan, IVO) else (.inf (a != y.neg?), 0)
  | x, .inf b => if x.isZero then (.nan, IVO) else (.inf (x.neg? != b), 0)
  | .num s n d _, .num s' n' d' _ => (.num (s != s') (n * n') (d * d') false, 0)

/-- A quotient. -/
def Val.div (x y : Val) : Val × Flags :=
  match x, y with
  | .nan, _ => (.nan, 0)
  | _, .nan => (.nan, 0)
  | .inf _, .inf _ => (.nan, IVO)
  | .inf a, y => (.inf (a != y.neg?), 0)
  | x, .inf b => (.num (x.neg? != b) 0 1 false, 0)
  | .num s n d _, .num s' n' d' _ =>
    if n' = 0 then (if n = 0 then (.nan, IVO) else (.inf (s != s'), DBZ))
    else (.num (s != s') (n * d') (d * n') false, 0)

/-- d + x × y with one rounding to come; 0 × ∞ raises IVO whatever d is. -/
def Val.fma (mode : RMode) (d x y : Val) : Val × Flags :=
  let pr := Val.mul x y
  let su := Val.add mode d pr.1
  (su.1, pr.2 ||| su.2)

/-- The integer square root by `k` binary digits. -/
def isqrtBits (n : Nat) : Nat → Nat → Nat
  | 0, r => r
  | k + 1, r => if (r + 2 ^ k) * (r + 2 ^ k) ≤ n then isqrtBits n k (r + 2 ^ k) else isqrtBits n k r
/-- floor(√n). -/
def isqrt (n : Nat) : Nat := isqrtBits n (Nat.log2 n / 2 + 1) 0

/-- The square root, with the excess over a grid finer than every rounding decision marked (R113). -/
def Val.sqrt (x : Val) : Val × Flags :=
  match x with
  | .nan => (.nan, 0)
  | .inf neg => if neg then (.nan, IVO) else (.inf false, 0)
  | .num neg n d _ =>
    if n = 0 then (.num neg 0 1 false, 0)
    else if neg then (.nan, IVO)
    else
      let k := 2 * (Nat.log2 d + 128)
      let m := n * 2 ^ (2 * k) / d
      let r := isqrt m
      (.num false r (2 ^ k) (decide (r * r * d ≠ n * 2 ^ (2 * k))), 0)

/-- The bits of working precision for 2^x and log2 x (log entry 7). -/
def transBits : Nat := 640

/-- The product of the roots 2^(2^-k) for the bits of a fraction, downwards rounded at `transBits` bits: `root` is the
present root, `acc` the product, `frac` the bits still to come, over 2^`left`. -/
def exp2Frac : Nat → Nat → Nat → Nat → Nat
  | 0, _, acc, _ => acc
  | left + 1, root, acc, frac =>
    let root' := isqrt (root * 2 ^ transBits)
    let acc' := if 2 ^ left ≤ frac then acc * root' / 2 ^ transBits else acc
    exp2Frac left root' acc' (frac % 2 ^ left)

/-- 2^x (R113). -/
def Val.exp2 (x : Val) : Val × Flags :=
  match x with
  | .nan => (.nan, 0)
  | .inf neg => (if neg then .num false 0 1 false else .inf false, 0)
  | .num neg n d _ =>
    let whole : Int := if neg then -(((n + d - 1) / d : Nat) : Int) else ((n / d : Nat) : Int)
    let fr : Nat := if neg then (d - n % d) % d else n % d
    let i : Int := max (-4000) (min whole 4000)
    if fr = 0 then (Val.scaled false 1 i, 0)
    else
      let f := fr * 2 ^ 256 / d
      let m := exp2Frac 256 (2 * 2 ^ transBits) (2 ^ transBits) f
      match Val.scaled false m (i - transBits) with
      | .num s n' d' _ => (.num s n' d' true, 0)
      | v => (v, 0)

/-- The binary digits of log2 of y, which lies in [1, 2) over 2^`transBits`, by repeated squaring. -/
def log2Digits : Nat → Nat → Nat → Nat
  | 0, _, acc => acc
  | k + 1, y, acc =>
    let y' := y * y / 2 ^ transBits
    if 2 ^ (transBits + 1) ≤ y' then log2Digits k (y' / 2) (2 * acc + 1) else log2Digits k y' (2 * acc)

/-- log2 x (R113). -/
def Val.log2 (x : Val) : Val × Flags :=
  match x with
  | .nan => (.nan, 0)
  | .inf neg => if neg then (.nan, IVO) else (.inf false, 0)
  | .num neg n d _ =>
    if n = 0 then (.inf true, DBZ)
    else if neg then (.nan, IVO)
    else
      let e := floorLog n d
      let y := if 0 ≤ e then n * 2 ^ transBits / (d * 2 ^ e.toNat) else n * 2 ^ ((-e).toNat + transBits) / d
      if y = 2 ^ transBits then (Val.ofInt e, 0)
      else
        let fr := log2Digits 256 y 0
        if 0 ≤ e then (.num false (e.toNat * 2 ^ 256 + fr) (2 ^ 256) true, 0)
        else (.num true ((-e).toNat * 2 ^ 256 - fr - 1) (2 ^ 256) true, 0)

end Sys2Proof.Machine
end

