-- ==== Sys2Proof/Machine/TileState.lean ====
section
/-! DEFINITION. The tile registers, versions and thunk nodes of a Quay as plain data (R243-R257, R265, R267). -/

namespace Sys2Proof.Machine

/-- What a node computes (R246, R263); the choices are those of the instruction's imm. -/
inductive TileOp where
  | tld | tzero | tmma
  | tqmma (g : Nat)
  | tew (op : Nat)
  | tact (op : Nat)
  | tred (op : Nat) (col : Bool)
  | tview
  | tmmas
deriving DecidableEq, Repr

/-- A suspended node (R246): its number, append order, operation, originating PC, rounding mode, source versions in
operand order, captured scalar, and for a TLD the address and stride. -/
structure Node where
  num    : Nat
  order  : Nat
  op     : TileOp
  pc     : Word
  mode   : RMode
  srcs   : List Nat
  scalar : Word := 0
  addr   : Addr := 0
  stride : Int := 0
deriving DecidableEq, Repr

/-- A version of a tile register (R245): its shape, the node that defines it if any, the units computed (bit 8r + b for row
r and column block b), and its elements by row and column, absent ones zero. -/
structure Version where
  ty       : Nat
  rows     : Nat
  cols     : Nat
  node     : Option Node
  computed : Nat
  data     : Assoc (Assoc Nat)
deriving DecidableEq, Repr

/-- A TFEED transfer accepted and not yet written (R265). -/
structure Feed where
  agent   : Nat
  serial  : Nat
  version : Nat
  row     : Nat
  vals    : List Nat
deriving DecidableEq, Repr

/-- An asynchronous force in progress (R251): the agent that issued it, the version, the units demanded, the host translation that it
waits for or the host page that it has seen fail (R166). -/
structure AsyncForce where
  agent   : Nat
  serial  : Nat
  version : Nat
  units   : Nat
  ats     : Option Nat := none
  fail    : Option (Nat × Nat) := none
deriving DecidableEq, Repr

/-- The tile side of a Quay (R244, R245, R267). `reads` is the model's: the element reads of the force in progress, empty between
steps. -/
structure TileState where
  tpol     : Bool := false
  tflags   : Flags := 0
  tshp     : Vector (BitVec 24) 8 := Vector.replicate 8 0
  cur      : Vector (Option Nat) 8 := Vector.replicate 8 none
  versions : Assoc Version := []
  nextId   : Nat := 0
  appended : Word := 0
  ovforce  : Word := 0
  blocks   : Word := 0
  wforce   : Word := 0
  feeds    : List Feed := []
  asyncs   : List AsyncForce := []
  reads    : List (Addr × Nat) := []
deriving DecidableEq, Repr

end Sys2Proof.Machine
end

