-- ==== Sys2Proof/Machine/State.lean ====
section
/-! DEFINITION. The state of a module: every piece of state the spec gives the machine (INVENTORY.md lists it with its
rules and reset values), and the model's own fields `cur`, `agenda`, `free` and the marks of an agent. Plain data. -/

namespace Sys2Proof.Machine

/-! ### Memory and places -/

/-- A memory: listed bytes in one canonical form, an unlisted byte reads 0 (log entry 4). -/
abbrev Mem := List Host.Cell

/-- What holds a physical byte: the HBM and device register space of the domain by 56-bit fabric address (R13), a Quay's
Wharf by offset (R219), the host by bus address (R166). -/
inductive Space where
  | fabric | wharf (quay : Nat) | host
deriving DecidableEq, Repr

/-- One physical byte. -/
structure Place where
  space : Space
  addr  : Nat
deriving DecidableEq, Repr

/-- A byte in a strip store buffer (R81): its address, the place it was translated to, the lane slice of the store that last wrote it
(R83), and whether a store in the buffer that writes the whole of its 64-byte granule has written it (R180, R182). -/
structure BufByte where
  va    : Nat
  place : Place
  byte  : Byte
  slice : Option Nat
  nt    : Bool
  whole : Bool := false
deriving DecidableEq, Repr

/-- A committed store not yet performed at its location scope (R83, R205): the bytes of one granule and one slice, the store operation
it belongs to (R238), and whether it is a part of what a store of the whole 64-byte granule wrote (R180). -/
structure Piece where
  op    : Nat
  slice : Option Nat
  nt    : Bool
  bytes : List (Place × Byte)
  wipes : Bool := false
deriving DecidableEq, Repr

/-- A line of the write-combining buffer (R178): bytes of one 64-byte host line, all of one kind; `op` is the earliest store
operation that it holds a byte of (R238). The buffer lists the lines from the one with the latest first store on. -/
structure WcLine where
  op    : Nat
  line  : Nat
  nt    : Bool
  bytes : List (Nat × Byte)
deriving DecidableEq, Repr

/-- A cached translation of a 64 KiB page, a contiguity group of 1 MiB or a page of 1 GiB (R159, R162, R165). -/
structure TlbEntry where
  part : Nat
  base : Nat
  size : Nat
  pte  : Nat
deriving DecidableEq, Repr

/-- A cached host translation of a partition's function (R166). -/
structure AtsEntry where
  part  : Nat
  func  : Nat
  die   : Nat
  pasid : Nat
  base  : Nat
  size  : Nat
  bus   : Nat
  r     : Bool
  w     : Bool
deriving DecidableEq, Repr

/-- A sealed region (R189): physical pages, its first virtual address, and whose it is. -/
structure Seal where
  part  : Nat
  base  : Addr
  home  : Nat
  pages : List Nat
deriving DecidableEq, Repr

/-! ### Traps -/

/-- A trap record (R340). DETAIL is bytes 40-55, byte 40 lowest. -/
structure TrapRecord where
  cause  : Nat
  sub    : Nat
  flags  : Nat
  src    : Nat
  srcix  : Nat
  quay   : Nat
  seq    : Nat
  module : Nat
  inner  : Nat
  win    : Nat
  pc     : Word
  pc2    : Word
  value  : Word
  detail : Nat
  cycle  : Word
deriving DecidableEq, Repr

/-- A host AtomicOp that an agent has sent and that has not completed (R60, R186): the operation, the width in bytes, the
place, operand and comparand, and the element (0 for AMO). -/
structure HostAtomic where
  op    : HostOp
  width : Nat
  va    : Nat
  bus   : Nat
  x     : Nat
  y     : Nat
  elem  : Nat
deriving DecidableEq, Repr

/-- What an agent is doing. -/
inductive Status where
  /-- No agent is placed here. -/
  | absent
  /-- It executes instructions. -/
  | run
  /-- An ATS Translation Request of its die is outstanding (R166). -/
  | ats (va : Nat)
  /-- A Page Request Group is outstanding (R167), under the trap record it posted (R172). -/
  | pri (group seq : Nat)
  /-- A replayable trap record is posted and not resolved (R172). -/
  | replay (seq : Nat)
  /-- A replayable record waits for room in the trap queue (R343). -/
  | unposted (r : TrapRecord)
  /-- A host AtomicOp is outstanding. -/
  | atomic (h : HostAtomic)
  /-- A proxy mailbox entry is posted for its AtomicOps (R365). -/
  | proxy (entry : Nat)
  /-- A request to the home of an atomic or a future on another module is outstanding (R316, R380): its tag, the element, the request. -/
  | remote (tag elem : Nat) (x : LinkMsg)
  /-- Halted by a debugger, or by HALT (R355, R356). -/
  | halted
  /-- Stopped at a fatal trap; SALVAGE is next (R341). -/
  | fatal (r : TrapRecord)
deriving DecidableEq, Repr

/-! ### An agent -/

/-- The scalar side (R42-R45, R68); `pfx` holds the PFX words taken so far of the group that begins at `pc` (R27). -/
structure Regs where
  s       : Vector Word 32 := Vector.replicate 32 0
  a       : Vector Addr 16 := Vector.replicate 16 0
  pc      : Word := 0
  pfx     : List (BitVec 26) := []
  instret : Word := 0
deriving DecidableEq, Repr

/-- The trap registers (R68, R336, R339). -/
structure TrapRegs where
  tvec   : Word := 0
  tepc   : Word := 0
  tcause : Word := 0
  tval   : Word := 0
  trec   : Word := 0
  ien    : BitVec 2 := 0
  irq    : Bool := false
  tmcmp  : Word := 0
  inh    : Bool := false
  wsup   : Bool := false
  wsupc  : Word := 0
  wpa    : Vector Word 4 := Vector.replicate 4 0
  wpm    : Vector Word 4 := Vector.replicate 4 0
deriving DecidableEq, Repr

/-- A map from the architectural to the physical vector and mask registers (R99). -/
structure VMap where
  v : Vector (Fin 96) 48 := Vector.ofFn (fun i => ⟨i.val, by omega⟩)
  m : Vector (Fin 24) 12 := Vector.ofFn (fun i => ⟨i.val, by omega⟩)
deriving DecidableEq, Repr

/-- The checkpoint (R86); `map` is the snapshot when the restart point is a cut. -/
structure Checkpoint where
  s      : Vector Word 32 := Vector.replicate 32 0
  a      : Vector Addr 16 := Vector.replicate 16 0
  vl     : BitVec 32 := 0
  pad    : BitVec 7 := 0
  vtype  : BitVec 8 := 0
  shut   : Bool := true
  srbase : Word := 0
  srstep : Word := 0
  segm   : BitVec 5 := 0
  spc    : Word := 0
  bhead  : Nat := 0
  map    : Option VMap := none
deriving DecidableEq, Repr

/-- Where a hart stands with a cut: at none, at one made by VCUT or before an instruction, or at one made after an
instruction, which serves as the next cut before one (R88, R92). -/
inductive CutMark where
  | none | here | after
deriving DecidableEq, Repr

/-- The strip registers (R75), the buffer (R81) and the checkpoint; `cap` is the vlcap that the last VSETL took (R72), `held` the
mark of a strip that an interrupt has suspended, for the ERET that continues it at its cut (R88, R91). -/
structure Strip where
  vl       : BitVec 32 := 0
  pad      : BitVec 7 := 0
  vtype    : BitVec 8 := 0
  shut     : Bool := true
  vlcap    : BitVec 32 := 0
  cap      : BitVec 32 := 0
  segm     : BitVec 5 := 0
  ephm     : BitVec 48 := 0
  isOpen   : Bool := false
  susp     : Bool := false
  lpend    : Bool := false
  ppend    : Bool := false
  noabort  : Bool := false
  live     : BitVec 32 := 0
  quads    : BitVec 8 := 0
  cutcnt   : Word := 0
  abortcnt : Word := 0
  spc      : Word := 0
  buf      : List BufByte := []
  ckpt     : Checkpoint := {}
  mark     : CutMark := .none
  held     : CutMark := .none
deriving DecidableEq, Repr

/-- The first fault of a berth (R227). -/
structure BerthFault where
  cause   : Nat
  sub     : Nat
  addr    : Addr
  ordinal : Nat
deriving DecidableEq, Repr

/-- What a stopped or faulted landing left on a physical register: the bits that never landed and that no instruction has written since
(R101), and either the element at which a consume trims VL (R236) or the berth and its recorded fault (R228). -/
structure RegMark where
  phys  : Nat
  left  : Nat
  elem  : Nat
  fault : Option (Nat × BerthFault)
deriving DecidableEq, Repr

/-- Bits of a physical register that landed poisoned, and the source address of their row (R223). -/
structure RegPoison where
  phys  : Nat
  lo    : Nat
  width : Nat
  addr  : Addr
deriving DecidableEq, Repr

/-- The physical vector and mask files behind the map (R99); `eph` the physical registers written ephemeral, `expired`
the slices whose hold has run out (R103), and what landings left. -/
structure VecFile where
  phys    : Vector VReg 96 := Vector.replicate 96 0
  masks   : Vector VReg 24 := Vector.replicate 24 0
  map     : VMap := {}
  eph     : List Nat := []
  expired : List (Nat × Nat) := []
  poison  : List RegPoison := []
  marks   : List RegMark := []
deriving DecidableEq, Repr

/-- Uncorrectable errors in an agent's own storage that it has not met yet (R71, R352): scalar, address and physical mask registers,
32-byte slices of physical vector registers, scalar and address registers of the checkpoint, granules of the strip store buffer. -/
structure RegErrors where
  s    : List (Fin 32) := []
  a    : List (Fin 16) := []
  v    : List (Nat × Nat) := []
  m    : List Nat := []
  cs   : List (Fin 32) := []
  ca   : List (Fin 16) := []
  sbuf : List Nat := []
deriving DecidableEq, Repr

/-- The number-format registers (R134). -/
structure FpRegs where
  frm    : BitVec 3 := 0
  fflags : BitVec 5 := 0
  srseed : Word := 0
  srbase : Word := 0
  srstep : Word := 0
  qparm  : BitVec 64 := 0
deriving DecidableEq, Repr

/-- The task registers (R319) and the phase counts of the barrier levels (R328). -/
structure TaskRegs where
  qmin    : Nat := 0
  qpref   : Nat := 0
  taskid  : Word := 0
  prio    : Nat := 0
  effPrio : Nat := 0
  bartime : Word := 1000000
  parkcnt : Word := 0
  phases  : Vector Nat 8 := Vector.replicate 8 0
deriving DecidableEq, Repr

/-- Stores committed and not performed, and the counters of WAITC (R178, R205, R238). -/
structure AgentMem where
  queue    : List Piece := []
  wc       : List WcLine := []
  nextOp   : Nat := 0
  loadsOut : Nat := 0
  nextCopy : Nat := 0
  nextTile : Nat := 0
deriving DecidableEq, Repr

/-- A branch record (R353). -/
structure BranchRec where
  source : Word := 0
  target : Word := 0
deriving DecidableEq, Repr

/-- A memory record (R353). -/
structure MemRec where
  addr : Word := 0
  info : Word := 0
deriving DecidableEq, Repr

/-- The trace rings (R353). -/
structure Trace where
  branch : Assoc BranchRec := []
  memory : Assoc MemRec := []
  bhead  : Nat := 0
  mhead  : Nat := 0
deriving DecidableEq, Repr

/-- The agent's own marks (the model's): whether the last attempt at the instruction could not go on, a host page whose Page Request or
translation failed and that its next attempt reports, whether a step of the debugger ends at the next boundary; whether a debugger's
command or PARTHALT halted it, and whether its strip was suspended then; the reason it was last saved for, the PC of its last retired
instruction (R380), the window byte of the last JR or CALLR target until the fetch there (R44); of an instruction that takes several
steps, its checked elements (number, address, place), the elements performed with their old values, whether its host AtomicOp completed
with Unsupported Request, the SEQ of the record that put it under the proxy and its mailbox entry (R186, R365, R384), and how far it has
come (R189); whether the Harbour Master has called in the quads above its QMIN (R315); whether its task waits in place for a future
(R317, R331). -/
structure Marks where
  stall    : Bool := false
  atsFail  : Option (Nat × Nat) := none
  stepping : Bool := false
  byDebug  : Bool := false
  byPart   : Bool := false
  wasSusp  : Bool := false
  reason   : Nat := 0
  lastPc   : Word := 0
  jumpWin  : Nat := 0
  plan     : List (Nat × Addr × Place) := []
  done     : List (Nat × Nat) := []
  ur       : Bool := false
  proxySeq : Option Nat := none
  entry    : Option Nat := none
  phase    : Nat := 0
  reclaim  : Bool := false
  inPlace  : Bool := false
deriving DecidableEq, Repr

/-- An agent: the Pilot or a hart of a Quay (R11). -/
structure Agent where
  status : Status := .absent
  regs   : Regs := {}
  trap   : TrapRegs := {}
  strip  : Strip := {}
  vec    : VecFile := {}
  fp     : FpRegs := {}
  task   : TaskRegs := {}
  mem    : AgentMem := {}
  trace  : Trace := {}
  errs   : RegErrors := {}
  marks  : Marks := {}
  part   : Nat := 0
  ctx    : Nat := 0
  tkey   : Nat := 0
deriving DecidableEq, Repr

/-! ### Quays and dies -/

/-- What a copy moves (R233): rows gathered into the Wharf or scattered from it, elements gathered into vector registers,
rows copied. -/
inductive CopyKind where
  | gthw | sctw | gthv (ff : Bool) | bcpy
deriving DecidableEq, Repr

/-- A copy of the Block-Transfer Engine with what the push captured (R224, R233): the issuer and its serial number among the
issuer's copies, the first ordinal and the number of elements, the row numbers of the indexed forms, the address, the
strides, the bytes of a row; for GTHV the element width, the register width and the physical registers; the elements that
have landed; the trap record a stalled row waits for (R227), its Page Request Group, the host page whose translation it waits
for or has seen fail (R166, R167). -/
structure Copy where
  kind   : CopyKind
  agent  : Nat
  serial : Nat
  base   : Nat
  count  : Nat
  rows   : List Int := []
  src    : Addr := 0
  dst    : Addr := 0
  sstr   : Int := 0
  dstr   : Int := 0
  bytes  : Nat := 0
  width  : Nat := 0
  vlen   : Nat := 0
  phys   : List Nat := []
  landed : List Nat := []
  stall  : Option Nat := none
  group  : Option Nat := none
  ats    : Option Nat := none
  fail   : Option (Nat × Nat) := none
deriving DecidableEq, Repr

/-- A berth (R224, R226); `ahead` holds the ordinals at or above `avail` that have landed. -/
structure Berth where
  owner  : Option Nat := none
  expect : Nat := 0
  avail  : Nat := 0
  ahead  : List Nat := []
  fault  : Option BerthFault := none
  bcfg   : Word := 0
  bstr   : Word := 0
  copies : List Copy := []
deriving DecidableEq, Repr

/-- A checkpoint of a walker slot (R280). -/
structure WalkCkpt where
  st     : Nat
  depth  : Nat
  logPos : Nat
  tokens : Nat
  done   : Bool
deriving DecidableEq, Repr

/-- The header of a grammar image (R271) as it was checked at the bind: counts, the start state, offsets, the length. -/
structure GrammarHdr where
  nclass : Nat
  nsym   : Nat
  nstate : Nat
  ntrans : Nat
  ntok   : Nat
  start  : Nat
  oState : Nat
  oTrans : Nat
  oTok   : Nat
  oBytes : Nat
  nTrie  : Nat
  oTrie  : Nat
  size   : Nat
deriving DecidableEq, Repr

/-- A bound walker slot (R269); the stack is held top first, the log oldest first, `spill` is the offset of its spill area. -/
structure Walker where
  image  : Addr
  hdr    : GrammarHdr
  spill  : Nat
  st     : Nat
  stack  : List Nat := []
  log    : List Nat := []
  ckpts  : List WalkCkpt := []
  tokens : Nat := 0
  err    : Nat := 0
  done   : Bool := false
deriving DecidableEq, Repr

/-- The walker side of a Quay (R269, R278): the slots, the LAST code of each, the registers. -/
structure Walkers where
  slots  : Vector (Option Walker) 16 := Vector.replicate 16 none
  last   : Vector Nat 16 := Vector.replicate 16 0
  gtrap  : BitVec 16 := 0
  gspill : Vector Word 16 := Vector.replicate 16 0
deriving DecidableEq, Repr

/-- A Quay (R11): the Wharf with its poisoned granules, uncorrectable words and words with a single-bit error (R219-R223), the hash
registers (R224), the retired lanes and the error count of each lane (R70, R71, R352), the engines' stops, its units, the copies of copy
tasks (R311). `epoch` names the unspecified contents that the Wharf took at its last hash write, `whold` holds the accesses that arrive
while a hash write waits, `hashPend` is one that waits without its Pilot (R221); `leaseq` holds the harts that wait in a lease step, in
order of arrival (R315). -/
structure Quay where
  wharf    : Mem := []
  poison   : List Nat := []
  ue       : List Nat := []
  ce       : List Nat := []
  whash    : Vector Word 3 := #v[0x0008208000041040, 0x0020820000104100, 0x0002080000010400]
  wbconf   : Word := 0
  wecc     : Word := 0
  retired  : BitVec 32 := 0
  laneErrs : Assoc Nat := []
  whold    : Bool := false
  hashPend : Option (Nat × Word) := none
  freeze   : Bool := false
  salvage  : Bool := false
  berths   : Vector Berth 16 := Vector.replicate 16 {}
  tcopies  : List (Nat × Copy) := []
  tile     : TileState := {}
  walk     : Walkers := {}
  epoch    : Option Nat := none
  leaseq   : List Nat := []
deriving DecidableEq, Repr

/-- A home comparator (R351): the partition it is allotted to, the physical line it watches, its mask register; when a member on another
module has set it, the address register there. -/
structure Comparator where
  part : Option Nat := none
  line : Option Nat := none
  mask : Word := 0
  addr : Option Word := none
deriving DecidableEq, Repr

/-- A write that a comparator has matched and whose record is not yet posted (R351, R388): the comparator with the partition that
had it, the writer, the bytes, the address reported. -/
structure CompHit where
  part  : Nat
  value : Word
  index : Nat
  kind  : Nat
  slot  : Nat
  bytes : Nat
  mod   : Nat
  quay  : Nat
  line  : Nat
  cycle : Word
deriving DecidableEq, Repr

/-- A wake-up on its way to a future's home (R318): the future's place, and ST and VALUE as it was set. -/
structure Wake where
  addr  : Nat
  st    : Nat
  value : Word
deriving DecidableEq, Repr

/-- A compute die: its cycle counter (R68), its comparators, and the wait entries of the futures it is home of, each a
future's place and a task (R317), and the wake-ups on their way (R318). -/
structure Die where
  cycle : Word := 0
  comp  : Vector Comparator 8 := Vector.replicate 8 {}
  hits  : List CompHit := []
  waits : List (Nat × Nat) := []
  wakes : List Wake := []
deriving DecidableEq, Repr

/-! ### Partitions, contexts, functions, queues (chapter 18) -/

/-- A posted record of a trap queue, and whether the service has marked it RESOLVED (R342). -/
structure Posted where
  record   : TrapRecord
  resolved : Bool := false
deriving DecidableEq, Repr

/-- An entry of the proxy mailbox with its element list (R365, R384); STATE 0 free, 1 posted, 2 done. -/
structure MailEntry where
  state : Nat := 0
  op    : Nat := 0
  width : Nat := 0
  count : Nat := 0
  seq   : Nat := 0
  va    : Nat := 0
  list  : Nat := 0
  elems : List HostAtomic := []
  agent : Nat := 0
deriving DecidableEq, Repr

/-- A dump slot in use (R358, R371). -/
structure DumpSlot where
  seq     : Nat
  granted : Bool
deriving DecidableEq, Repr

/-- A partition (R371, R372, R376, R377). -/
structure Part where
  exists_  : Bool := false
  owner    : Nat := 0
  piers    : Nat := 0
  vfs      : Nat := 0
  root     : Nat := 0
  ranges   : List (Nat × Nat) := []
  peers    : List (Nat × List (Nat × Nat)) := []
  resBase  : Nat := 0
  resSize  : Nat := 0
  dumpBase : Nat := 0
  dumpSize : Nat := 0
  dumps    : List (Option DumpSlot) := []
  dumpSeq  : Nat := 0
  dumpKey  : Nat := 0
  ideKey   : Nat := 0
  groupKey : Nat := 0
  group    : Nat := 0
  mooring  : Nat := 0
  moored   : List (Nat × Nat) := []
  hardUs   : Nat := 200
  haproxy  : Bool := false
  bar2     : Nat := 0
  tqProd   : Nat := 0
  tqCons   : Nat := 0
  seq      : Nat := 0
  ring     : List Posted := []
  held     : List TrapRecord := []
  mail     : Vector MailEntry 64 := Vector.replicate 64 {}
  halted   : Bool := false
  hwca     : Vector Word 8 := Vector.replicate 8 0
  hwcm     : Vector Word 8 := Vector.replicate 8 0
  hwDie    : Vector (Option Nat) 8 := Vector.replicate 8 none
deriving DecidableEq, Repr

/-- A context (R371): the function whose command created it (R383), its Quays, PASID and trap page, the debugger attached and the
records that it has been sent (R335, R355), the PC that was found in unloaded code when it is doomed (R349). -/
structure Ctx where
  exists_  : Bool := false
  part     : Nat := 0
  func     : Nat := 0
  quays    : List Nat := []
  pasid    : Nat := 0
  trapPage : Word := 0
  debugger : Bool := false
  records  : List TrapRecord := []
  doomed   : Option Word := none
  saved    : Bool := false
deriving DecidableEq, Repr

/-- A segment of a code object (R374). -/
structure Segment where
  va    : Nat
  size  : Nat
  flags : Nat
deriving DecidableEq, Repr

/-- A loaded code object (R375): its partition, its segments, its system bit. -/
structure Code where
  part   : Nat := 0
  segs   : List Segment := []
  system : Bool := false
deriving DecidableEq, Repr

/-- A translation invalidation in progress (R165, R363). -/
structure Inval where
  base : Nat
  size : Nat
  all  : Bool
deriving DecidableEq, Repr

/-- A command that has been accepted and runs (R369, R370, R373): its record, the bus address it was read from, its journal number; of
CODE_UNLOAD the contexts found to hold a PC, with it (R349). -/
structure Running where
  bytes   : List Byte
  addr    : Nat
  journal : Nat
  held    : List (Nat × Word) := []
deriving DecidableEq, Repr

/-- A function page (R362), the debug port slots (R357) with the host translation that a DFORCE waits for or has seen fail, the
partition the function belongs to, the command that runs, and the page requests that the host allows it to have outstanding (R359). -/
structure Func where
  part    : Option Nat := none
  crbase  : Nat := 0
  crsize  : Nat := 0
  cren    : Bool := false
  crerr   : Bool := false
  crtail  : Nat := 0
  crhead  : Nat := 0
  invaddr : Word := 0
  invlen  : Nat := 0
  inval   : Option Inval := none
  invdone : Bool := false
  ats     : Bool := false
  pri     : Bool := false
  dbgCmd  : Vector Byte 64 := Vector.replicate 64 0
  dbgResp : Vector Byte 64 := Vector.replicate 64 0
  dbgBusy : Bool := false
  dbgAts  : Option Nat := none
  dbgFail : Option (Nat × Nat) := none
  running  : Option Running := none
  prAlloc  : Nat := 512
deriving DecidableEq, Repr

/-- A host launch queue (R366-R368): the tails written while it was not resident in `mirror`, oldest first; the entries completed out
of order in `doneSet`, the WAIT entries started and not complete in `waits`, each with the queue and the progress awaited; `since` is
the time when their pending work arrived; `entering` tells a switch in from a switch out. -/
structure LaunchQueue where
  owned     : Bool := false
  func      : Nat := 0
  part      : Nat := 0
  ring      : Nat := 0
  size      : Nat := 0
  progAddr  : Nat := 0
  prio      : Nat := 0
  tail      : Nat := 0
  mirror    : List Nat := []
  next      : Nat := 0
  progress  : Nat := 0
  doneSet   : List Nat := []
  waits     : List (Nat × Nat × Nat) := []
  resident  : Bool := false
  switching : Bool := false
  entering  : Bool := false
  stopped   : Bool := false
  since     : Nat := 0
deriving DecidableEq, Repr

/-- A task record in its expanded form (R307). -/
structure TaskRecord where
  entry : Addr := 0
  args  : Addr := 0
  fut   : Addr := 0
  succ  : Addr := 0
  idx   : List Nat := [0, 0, 0, 0, 0, 0, 0, 0]
  lease : Nat := 0
  preds : Nat := 0
  prio  : Nat := 0
  flags : Nat := 0
deriving DecidableEq, Repr

/-- A decoded record that has not launched (R310): its sequence number, its offset, its predecessors still to come,
how often it has aged, and when it became ready (R314). -/
structure Decoded where
  seq    : Nat
  off    : Nat
  record : TaskRecord
  preds  : Nat
  aged   : Nat := 0
  since  : Nat := 0
deriving DecidableEq, Repr

/-- A task queue (R306-R309): its descriptor, the decoder's position and last record, the decoded records that have not
launched, the decrements and failures that records not yet decoded have met, the records that failed without launching, the Quays
its tasks were placed on. -/
structure TaskQueue where
  owned    : Bool := false
  part     : Nat := 0
  desc     : Addr := 0
  prio     : Nat := 0
  resident : Bool := false
  off      : Nat := 0
  seq      : Nat := 0
  last     : Option TaskRecord := none
  stopped  : Bool := false
  ready    : List Decoded := []
  credits  : Assoc Nat := []
  doomed   : List Nat := []
  failed   : List Nat := []
  placed   : List (List Nat × Nat) := []
deriving DecidableEq, Repr

/-- A journal record (R373). -/
structure JournalRec where
  seq     : Nat
  time    : Nat
  func    : Nat
  opcode  : Nat
  cmdSeq  : Nat
  digest  : List Byte
  outcome : Nat
  result  : Nat
deriving DecidableEq, Repr

/-- The tables of firmware: partitions, contexts, code objects, function pages, queues, journals (key 48 for the physical
functions), keys the management controller has provisioned. -/
structure Firmware where
  parts    : Assoc Part := []
  ctxs     : Assoc Ctx := []
  nextCtx  : Nat := 0
  codes    : Assoc Code := []
  nextCode : Nat := 1
  funcs    : Assoc Func := []
  lqs      : Assoc LaunchQueue := []
  tqs      : Assoc TaskQueue := []
  journals : Assoc (List JournalRec) := []
  keys     : List Nat := []
  seals    : List Seal := []
deriving DecidableEq, Repr

/-! ### Launches, tasks, barriers (chapter 15) -/

/-- A level of a launch record (R300). -/
structure Level where
  extent : Nat
  domain : Nat
  scope  : Nat
  qmin   : Nat
  qpref  : Nat
  bar    : Bool
deriving DecidableEq, Repr

/-- A launch record (R299). -/
structure LaunchRecord where
  pilot  : Bool := false
  seed   : Bool := false
  prio   : Nat := 0
  entry  : Addr := 0
  pentry : Addr := 0
  args   : Addr := 0
  fut    : Addr := 0
  seedv  : Word := 0
  stack  : Nat := 65536
  levels : List Level := []
deriving DecidableEq, Repr

/-- A launch (R304, R305): the host queue entry it completes, its record and where that lies, the Quay instances placed so far with
their Quays, how many are to be placed, the tasks that still run here and elsewhere, the exit codes gathered and the first failure, the
effective priority of the instances that wait and when they became ready (R314); `origin` is the module that issued it and its number
there, when that is another one (R378). -/
structure Launch where
  live    : Bool := false
  part    : Nat := 0
  queue   : Option (Nat × Nat) := none
  record  : LaunchRecord := {}
  addr    : Addr := 0
  placed  : List (List Nat × Nat) := []
  total   : Nat := 0
  running : Nat := 0
  remote  : Nat := 0
  orVal   : Word := 0
  failed  : Option Word := none
  effPrio : Nat := 0
  since   : Nat := 0
  origin  : Option (Nat × Nat) := none
deriving DecidableEq, Repr

/-- What a task is: an instance of a grid, the Pilot of a Quay instance, or a record of a task queue. -/
inductive TaskKind where
  | hart (launch : Nat) (index : List Nat)
  | pilot (launch : Nat) (index : List Nat)
  | queued (tq seq : Nat) (record : TaskRecord)
deriving DecidableEq, Repr

/-- Where a task is: ready to resume, running as an agent, parked on a future (R317), ended. -/
inductive TaskState where
  | ready | running (agent : Nat) | parked (future : Nat) | halted | ended
deriving DecidableEq, Repr

/-- A task (R314): the levels of its launch, its agent's state while it does not run, the quads it must receive again (R318) and the
lanes it was saved with (R346), when it last became ready, what it waits for. -/
structure Task where
  kind    : TaskKind := .hart 0 []
  levels  : List Level := []
  state   : TaskState := .ended
  part    : Nat := 0
  ctx     : Nat := 0
  quay    : Nat := 0
  saved   : Option Agent := none
  needs   : Nat := 0
  lanes   : BitVec 32 := 0
  prio    : Nat := 0
  effPrio : Nat := 0
  since   : Nat := 0
  fut     : Addr := 0
  futPa   : Nat := 0
  get     : Bool := false
  dest    : Nat := 0
deriving DecidableEq, Repr

/-- A barrier group (R328, R330): its launch, level and upper indices, its participants here by their tasks with their arrivals, how
many lie on other modules, those that have ended here; its die, or 8 more than the module where its counter is; the phases completed; of
the phase in progress the arrivals from other modules, the timeout, and whether its record is posted; how many participants on other
modules have ended, and the timeout that the first participant to end fixed for the phases after it; how many participants on other modules
are halted, and the tasks here whose halt has been told to the module of the counter. -/
structure Group where
  launch   : Nat
  level    : Nat
  key      : List Nat
  arrivals : Assoc Nat := []
  remote   : Nat := 0
  gone     : List Nat := []
  die      : Nat := 0
  phase    : Nat := 0
  away     : Nat := 0
  timeout  : Nat := 0
  posted   : Bool := false
  lost     : Nat := 0
  later    : Nat := 0
  stopped  : Nat := 0
  told     : List Nat := []
deriving DecidableEq, Repr

/-- What the Harbour Master has begun and may have to wait in (R301, R309, R311, R325, R400): to start the launch of a queue entry, to
set a future, to write a SIGNAL entry's value (R366), to write bytes of a queue's descriptor (R306), to end a queue task (with its
failure, or none and its exit code), to decode, to launch a record, to start an instance of another module's launch (R378). -/
inductive Act where
  | launch (q entry : Nat) (rec : Addr)
  | setFuture (fut : Addr) (value : Word) (st : Nat)
  | signal (q entry : Nat) (a : Addr) (value : Word)
  | write (a : Addr) (bs : List Byte)
  | finish (tq seq : Nat) (record : TaskRecord) (fail : Option (Nat × Nat)) (code : Word)
  | decode (tq : Nat)
  | taskLaunch (tq seq : Nat)
  | remoteStart (r : RemoteStart)
deriving DecidableEq, Repr

/-- Such an act with what it waits for: the record of a replayable fault (R172), its Page Request Group, a host translation, the answer to
a request with a tag to a future's home on another module; the host page seen to fail. -/
structure Job where
  key   : Nat
  part  : Nat
  act   : Act
  stall : Option Nat := none
  group : Option Nat := none
  ats   : Option Nat := none
  fail  : Option (Nat × Nat) := none
  asked : Option Nat := none
deriving DecidableEq, Repr

/-- An arrival from another module at a barrier group (R378): the origin of its launch and the number there, the level and the indices above
it, how many BARVs the participant has made, whether it has ended, its bartime. -/
structure Early where
  origin  : Nat
  launch  : Nat
  level   : Nat
  key     : List Nat
  count   : Nat
  last    : Bool
  timeout : Nat
deriving DecidableEq, Repr

/-- The work of the module; `placing` holds the instances that other modules have sent here and that have no place yet, with when they
came, `early` holds arrivals from other modules at barrier groups that have not been formed here yet; `nextReady` counts what has become
ready (R314). -/
structure Work where
  launches   : Assoc Launch := []
  nextLaunch : Nat := 0
  tasks      : Assoc Task := []
  nextTask   : Nat := 0
  groups     : List Group := []
  jobs       : List Job := []
  nextJob    : Nat := 0
  placing    : List (RemoteStart × Nat) := []
  early      : List Early := []
  nextReady  : Nat := 0
deriving DecidableEq, Repr

/-! ### The host's side and the links (R359-R368, R379) -/

/-- A Page Request Group (R167): the agent that waits, the function, its pages, the die and PASID, and whether its requests have been
sent, which waits for an allocation. -/
structure PageGroup where
  agent : Nat
  func  : Nat
  sent  : Bool
  pages : List Nat
  die   : Nat
  pasid : Nat
deriving DecidableEq, Repr

/-- A Jetty port (R379): the receiver's next sequence number and whether it has asked for a replay; the sender's next sequence
number, its replay buffer of flits by their numbers, the messages that wait, each with its destination module, whether the other side has
sent pause, and the flits that the port has put on the line, in their order. -/
structure Jetty where
  expect : Nat := 0
  replay : Bool := false
  next   : Nat := 0
  buffer : List (Nat × List Byte) := []
  queue  : List (Nat × LinkMsg) := []
  paused : Bool := false
  wire   : List (List Byte) := []
deriving DecidableEq, Repr

/-- What the module shares with the host and the other modules; `nextTag` tags the next request to another module (R379), `barAsk` is
the one for which a host's AtomicOp waits (R360). -/
structure Link where
  mem       : Mem := []
  ats       : List AtsEntry := []
  groups    : Assoc PageGroup := []
  nextGroup : Nat := 0
  invalidating : List (Nat × Nat × Nat × Nat) := []
  atomlack  : BitVec 2 := 0
  relaxed   : BitVec 2 := 0
  msix      : List (Nat × Nat) := []
  barData   : List Byte := []
  jetty     : Assoc Jetty := []
  nextTag   : Nat := 0
  barAsk    : Option LinkMsg := none
deriving DecidableEq, Repr

/-- What moves next (the model's): an agent, or a step without a word. -/
inductive Turn where
  | agent (g : Nat)
  | event (i : Instr)
deriving DecidableEq, Repr

/-- The state of a module. An agent's key is 16 times its Quay plus its slot: 0-7 a hart, 8 the Pilot. `rsvacc` is the
reserved-access counter (R10, R63, R336, log entry 22), `time` the nanoseconds since reset with the rest of a division by the clock
in `frac` (R373), `free` the counter of the module's free values and `frees` those of each context (R2). -/
structure State where
  agents : Assoc Agent := []
  quays  : Assoc Quay := []
  dies   : Assoc Die := []
  mem    : Mem := []
  poison : List Nat := []
  ue     : List Nat := []
  tlb    : List TlbEntry := []
  fw     : Firmware := {}
  work   : Work := {}
  link   : Link := {}
  rsvacc : Word := 0
  modid  : Nat := 0
  clock  : Nat := 3300
  time   : Nat := 0
  frac   : Nat := 0
  cur    : Nat := 0
  agenda : List Turn := []
  free   : Nat := 0
  frees  : Assoc Nat := []
deriving DecidableEq, Repr

/-- The machine never stops: a trap, a wait and a halt are states. -/
inductive Fault where
  /-- Raised by nothing: every stop of the spec is a state (a fatal trap, a halt). It keeps the type inhabited. Safe. -/
  | none
deriving DecidableEq, Repr

/-- Why an instruction has no meaning here. -/
inductive Refusal where
  /-- Raised by an arm of `exec` for an instruction that the model does not give a meaning. Safe. -/
  | notModelled (mnemonic : String)
deriving DecidableEq, Repr

/-- An agent after reset: nothing is placed. -/
def Agent.reset : Agent := {}

/-- The module right after reset (R68, R336, R362 and the other reset values of INVENTORY.md; log entries 3 and 4). -/
def State.reset : State := {}

end Sys2Proof.Machine
end

