-- ==== Sys2Proof/Machine/Basic.lean ====
section
/-! DEFINITION. Accessors of the state, byte order, immediates, causes, and the result type of an instruction's body. -/

namespace Sys2Proof.Machine

/-! ### Naming (R11) -/

/-- The Quay of an agent. -/
def quayOf (g : Nat) : Nat := g / 16
/-- The slot of an agent. -/
def slotOf (g : Nat) : Nat := g % 16
/-- Whether an agent is a Pilot. -/
def isPilot (g : Nat) : Bool := decide (slotOf g = 8)
/-- The die of a Quay. -/
def dieOf (q : Nat) : Nat := q / 24
/-- The Pilot of an agent's Quay. -/
def pilotOf (g : Nat) : Nat := quayOf g * 16 + 8

/-! ### Accessors -/

/-- The agent with a key. -/
def State.ag (s : State) (g : Nat) : Agent := Assoc.get {} g s.agents
/-- Puts an agent. -/
def State.setAg (s : State) (g : Nat) (a : Agent) : State := { s with agents := Assoc.set g a s.agents }
/-- Changes an agent. -/
def State.modAg (s : State) (g : Nat) (f : Agent → Agent) : State := s.setAg g (f (s.ag g))
/-- A Quay. -/
def State.qy (s : State) (q : Nat) : Quay := Assoc.get {} q s.quays
/-- Changes a Quay. -/
def State.modQy (s : State) (q : Nat) (f : Quay → Quay) : State := { s with quays := Assoc.set q (f (s.qy q)) s.quays }
/-- A die. -/
def State.die (s : State) (d : Nat) : Die := Assoc.get {} d s.dies
/-- Changes a die. -/
def State.modDie (s : State) (d : Nat) (f : Die → Die) : State := { s with dies := Assoc.set d (f (s.die d)) s.dies }
/-- A partition. -/
def State.part (s : State) (p : Nat) : Part := Assoc.get {} p s.fw.parts
/-- Changes a partition. -/
def State.modPart (s : State) (p : Nat) (f : Part → Part) : State :=
  { s with fw := { s.fw with parts := Assoc.set p (f (s.part p)) s.fw.parts } }
/-- A context. -/
def State.ctx (s : State) (c : Nat) : Ctx := Assoc.get {} c s.fw.ctxs
/-- Changes a context. -/
def State.modCtx (s : State) (c : Nat) (f : Ctx → Ctx) : State :=
  { s with fw := { s.fw with ctxs := Assoc.set c (f (s.ctx c)) s.fw.ctxs } }
/-- A function page. -/
def State.func (s : State) (f : Nat) : Func := Assoc.get {} f s.fw.funcs
/-- Changes a function page. -/
def State.modFunc (s : State) (f : Nat) (h : Func → Func) : State :=
  { s with fw := { s.fw with funcs := Assoc.set f (h (s.func f)) s.fw.funcs } }
/-- A task. -/
def State.task (s : State) (k : Nat) : Task := Assoc.get {} k s.work.tasks
/-- Changes a task. -/
def State.modTask (s : State) (k : Nat) (f : Task → Task) : State :=
  { s with work := { s.work with tasks := Assoc.set k (f (s.task k)) s.work.tasks } }
/-- Puts a task at the tail of the tasks, where it stands in the order of readiness (R314). -/
def State.toTail (s : State) (k : Nat) (t : Task) : State :=
  { s with work := { s.work with
      tasks := Assoc.erase k s.work.tasks ++ [(k, { t with since := s.work.nextReady })], nextReady := s.work.nextReady + 1 } }
/-- A launch. -/
def State.launch (s : State) (l : Nat) : Launch := Assoc.get {} l s.work.launches
/-- Changes a launch. -/
def State.modLaunch (s : State) (l : Nat) (f : Launch → Launch) : State :=
  { s with work := { s.work with launches := Assoc.set l (f (s.launch l)) s.work.launches } }
/-- A host launch queue. -/
def State.lq (s : State) (q : Nat) : LaunchQueue := Assoc.get {} q s.fw.lqs
/-- Changes a host launch queue. -/
def State.modLq (s : State) (q : Nat) (f : LaunchQueue → LaunchQueue) : State :=
  { s with fw := { s.fw with lqs := Assoc.set q (f (s.lq q)) s.fw.lqs } }
/-- A task queue. -/
def State.tq (s : State) (q : Nat) : TaskQueue := Assoc.get {} q s.fw.tqs
/-- Changes a task queue. -/
def State.modTq (s : State) (q : Nat) (f : TaskQueue → TaskQueue) : State :=
  { s with fw := { s.fw with tqs := Assoc.set q (f (s.tq q)) s.fw.tqs } }
/-- Changes the host's side. -/
def State.modLink (s : State) (f : Link → Link) : State := { s with link := f s.link }
/-- The tile state of a Quay. -/
def State.tile (s : State) (q : Nat) : TileState := (s.qy q).tile
/-- Changes the tile state of a Quay. -/
def State.setTile (s : State) (q : Nat) (t : TileState) : State := s.modQy q (fun y => { y with tile := t })
/-- Advances the module's counter of free values, which the passing of time uses. -/
def State.useFree (s : State) : State := { s with free := s.free + 1 }
/-- The index of the next free value of a context: it follows from the context's own uses alone (R2, log entry 5). -/
def State.freeOf (s : State) (c : Nat) : Nat := Assoc.get 0 c s.frees * 2 ^ 33 + c
/-- Advances the counter of a context's free values. -/
def State.useFreeOf (s : State) (c : Nat) : State := { s with frees := Assoc.set c (Assoc.get 0 c s.frees + 1) s.frees }
/-- The key of a partition among the counters of free values: what firmware chooses for it draws on no context. -/
def partFree (p : Nat) : Nat := 2 ^ 32 + p
/-- The context of an agent. -/
def State.ctxOf (s : State) (g : Nat) : Nat := (s.ag g).ctx
/-- Counts a reserved access (R10, R63, R130, R220, R351, R362). -/
def State.countRsv (s : State) : State := { s with rsvacc := s.rsvacc + 1 }
/-- The cycle counter of an agent's die (R68). -/
def State.cycleOf (s : State) (g : Nat) : Word := (s.die (dieOf (quayOf g))).cycle

/-- A scalar register; s0 reads zero (R42). -/
def Agent.rs (a : Agent) (r : Fin 32) : Word := if r = 0 then 0 else a.regs.s[r]
/-- Writes a scalar register; a write to s0 is discarded (R42). -/
def Agent.ws (a : Agent) (r : Fin 32) (v : Word) : Agent :=
  if r = 0 then a else { a with regs := { a.regs with s := a.regs.s.set r v } }
/-- An address register (R43). -/
def Agent.ra (a : Agent) (r : Fin 16) : Addr := a.regs.a[r]
/-- Writes an address register. -/
def Agent.wa (a : Agent) (r : Fin 16) (v : Addr) : Agent := { a with regs := { a.regs with a := a.regs.a.set r v } }
/-- Sets the program counter. -/
def Agent.setPc (a : Agent) (v : Word) : Agent := { a with regs := { a.regs with pc := v } }
/-- The address of the word being executed: past the PFX words of its group (R29). -/
def Agent.wordAddr (a : Agent) : Word := a.regs.pc + BitVec.ofNat 64 (4 * a.regs.pfx.length)
/-- Whether an agent executes instructions. -/
def Agent.running (a : Agent) : Bool := decide (a.status = .run)
/-- Changes the strip registers. -/
def Agent.modStrip (a : Agent) (f : Strip → Strip) : Agent := { a with strip := f a.strip }
/-- Changes the trap registers. -/
def Agent.modTrap (a : Agent) (f : TrapRegs → TrapRegs) : Agent := { a with trap := f a.trap }
/-- Changes the vector file. -/
def Agent.modVec (a : Agent) (f : VecFile → VecFile) : Agent := { a with vec := f a.vec }
/-- Raises flags (R129). -/
def Agent.flag (a : Agent) (f : Flags) : Agent := { a with fp := { a.fp with fflags := a.fp.fflags ||| f } }

/-- A vector with one entry replaced; an index outside it changes nothing. -/
def setIx {α : Type} {n : Nat} (v : Vector α n) (k : Nat) (x : α) : Vector α n := if h : k < n then v.set k x h else v

/-! ### Bytes and immediates -/

/-- The little-endian value of bytes (R4). -/
def leNat : List Byte → Nat
  | [] => 0
  | b :: t => b.toNat + 256 * leNat t

/-- The `n` bytes of a value, little-endian (R4). -/
def leBytes : Nat → Nat → List Byte
  | 0, _ => []
  | n + 1, x => BitVec.ofNat 8 x :: leBytes n (x / 256)

/-- SignExt of a value of `w` bits as an integer (R8). -/
def sext (w x : Nat) : Int :=
  if 0 < w ∧ 2 ^ (w - 1) ≤ x % 2 ^ w then (x % 2 ^ w : Nat) - (2 ^ w : Nat) else (x % 2 ^ w : Nat)

/-- The extended field of a PFX group (R28): its value and its width. -/
def extField (pfx : List (BitVec 26)) (wf f : Nat) : Nat × Nat :=
  pfx.foldl (fun acc p => (acc.1 + p.toNat * 2 ^ (wf + 26 * (pfx.length - 1 - acc.2)), acc.2 + 1)) (f, 0)
    |> fun r => (r.1, wf + 26 * pfx.length)

/-- The extended field read as a signed integer (R28). -/
def extS (pfx : List (BitVec 26)) (wf f : Nat) : Int := sext (extField pfx wf f).2 (extField pfx wf f).1
/-- The extended field read as unsigned (R28). -/
def extU (pfx : List (BitVec 26)) (wf f : Nat) : Nat := (extField pfx wf f).1

/-- A field of a number. -/
def bitsOf (x p w : Nat) : Nat := (x >>> p) % 2 ^ w

/-- Puts a field into a number. -/
def putBits (x p w y : Nat) : Nat := x - (bitsOf x p w) <<< p + (y % 2 ^ w) <<< p

/-- The pattern of a lost ephemeral slice (R103). -/
def lostSlice : Nat := leNat (List.replicate 32 (0xE5 : Byte))

/-- The window byte of an address (R43). -/
def winOf (a : Addr) : Nat := a.toNat / 2 ^ 64
/-- The offset of an address. -/
def offOf (a : Addr) : Word := a.setWidth 64
/-- An address from a window and an offset. -/
def mkAddr (w : Nat) (o : Nat) : Addr := BitVec.ofNat 72 (w * 2 ^ 64 + o % 2 ^ 64)
/-- The 16 bytes of an address slot, in the layout of STA (R55). -/
def staBytes (a : Addr) : List Byte := leBytes 9 a.toNat ++ List.replicate 7 0
/-- The address of a 16-byte slot, in the layout of LDA (R55). -/
def ldaBytes (bs : List Byte) : Addr := BitVec.ofNat 72 (leNat (bs.take 9))

/-! ### Causes (R335) -/

namespace Cause
/-- An illegal word. -/
abbrev ill : Nat := 0x01
/-- An operation without meaning for the vtype in force. -/
abbrev illtype : Nat := 0x02
/-- A privileged operation outside a system segment. -/
abbrev priv : Nat := 0x03
/-- An experimental word the stepping does not implement. -/
abbrev exper : Nat := 0x04
/-- An instruction the agent may not execute. -/
abbrev agent : Nat := 0x05
/-- A misaligned access. -/
abbrev align : Nat := 0x08
/-- A missing translation. -/
abbrev xlateMiss : Nat := 0x09
/-- A permission that is missing. -/
abbrev perm : Nat := 0x0A
/-- An address in no window. -/
abbrev window : Nat := 0x0B
/-- A store to a sealed page. -/
abbrev sealed : Nat := 0x0C
/-- A host translation that failed. -/
abbrev atsFail : Nat := 0x0D
/-- A page request that is outstanding. -/
abbrev priPending : Nat := 0x0E
/-- A host atomic completed with Unsupported Request. -/
abbrev hostAtomicUr : Nat := 0x0F
/-- A packed block that does not fit or is malformed. -/
abbrev packedOverrun : Nat := 0x10
/-- Misuse of a berth. -/
abbrev berthMisuse : Nat := 0x11
/-- No room for a node. -/
abbrev thunkFull : Nat := 0x12
/-- A shape or register that a tile instruction refuses. -/
abbrev tileShape : Nat := 0x13
/-- A fault in a force. -/
abbrev lateFault : Nat := 0x14
/-- A walker fault. -/
abbrev grammar : Nat := 0x18
/-- No room to park, or a barrier timeout. -/
abbrev waitOverflow : Nat := 0x20
/-- A future set twice. -/
abbrev futureDoubleSet : Nat := 0x21
/-- Poison met by a load. -/
abbrev mchkPoison : Nat := 0x28
/-- An uncorrectable error. -/
abbrev mchkUe : Nat := 0x29
/-- BRK. -/
abbrev brk : Nat := 0x30
/-- A watchpoint. -/
abbrev watch : Nat := 0x31
/-- A home comparator. -/
abbrev watchEngine : Nat := 0x32
/-- SVC. -/
abbrev svc : Nat := 0x33
/-- Soft pre-emption. -/
abbrev preempt : Nat := 0x38
/-- Hard pre-emption. -/
abbrev preemptHard : Nat := 0x39
/-- A halt. -/
abbrev debugHalt : Nat := 0x3A
/-- An interrupt. -/
abbrev intr : Nat := 0x3B
/-- Code that was unloaded. -/
abbrev codeGone : Nat := 0x3F
end Cause

/-! ### The result of a body -/

/-- A trap as its raiser describes it: cause, subcode, tval, the window of tval when it is an address, the record's DETAIL,
whether the record has MORE, its INNER and PC2, the PC that the cause's entry names for tepc, and whether the trap suspends
an open strip (R91). -/
structure TrapInfo where
  cause    : Nat
  sub      : Nat := 0
  val      : Word := 0
  win      : Nat := 0
  detail   : Nat := 0
  more     : Bool := false
  inner    : Nat := 0
  pc2      : Option Word := none
  tepc     : Option Word := none
  suspends : Bool := false
deriving DecidableEq, Repr

/-- How a body ends when it does not complete: a trap, with the state to keep when the entry says that something is kept
(R9); a wait for something outside the agent, in the state it has come to; an attempt that could not go on and is made
again. -/
inductive Stop where
  | trap (t : TrapInfo) (keep : Option State)
  | wait (st : Status) (s : State)
  | again (s : State)

/-- A body: it completes with a value and a state, or stops. -/
abbrev M (α : Type) := StateT State (Except Stop) α

/-- Ends with a trap that leaves nothing behind (R9). -/
def trap {α : Type} (t : TrapInfo) : M α := fun _ => .error (.trap t none)
/-- Ends with a trap that keeps the state reached. -/
def trapKeep {α : Type} (t : TrapInfo) : M α := fun s => .error (.trap t (some s))
/-- Waits in a status. -/
def waitIn {α : Type} (st : Status) : M α := fun s => .error (.wait st s)
/-- Gives up this attempt; the instruction is executed again. -/
def retryLater {α : Type} : M α := fun s => .error (.again s)
/-- Runs a body's part or not. -/
def whenM (c : Bool) (m : M Unit) : M Unit := if c then m else pure ()

/-- What an instruction's body knows: the agent, the PC of the group, the address of the word, and the PFX words (R29). -/
structure Issue where
  g   : Nat
  pc  : Word
  at_ : Word
  pfx : List (BitVec 26)
deriving DecidableEq, Repr

/-- The issue of the current agent's instruction. -/
def State.issue (s : State) : Issue :=
  ⟨s.cur, (s.ag s.cur).regs.pc, (s.ag s.cur).wordAddr, (s.ag s.cur).regs.pfx⟩

end Sys2Proof.Machine
end

