-- ==== Sys2Proof/Machine/Memory.lean ====
section
/-! DEFINITION. Memories, the device registers as they read, translation (R157-R172), and what an agent reads (R82, R199). -/

namespace Sys2Proof.Machine

/-! ### Memories in canonical form -/

/-- The byte at an address; `d` is what an unlisted one reads as. -/
def Mem.get (d : Byte) : Mem → Nat → Byte
  | [], _ => d
  | c :: t, a => if c.1 = a then c.2 else if a < c.1 then d else Mem.get d t a

/-- Writes a byte and keeps the canonical form: rising addresses, no listed byte that reads as an unlisted one. -/
def Mem.set (d : Byte) : Mem → Nat → Byte → Mem
  | [], a, b => if b = d then [] else [(a, b)]
  | c :: t, a, b =>
    if a < c.1 then (if b = d then c :: t else (a, b) :: c :: t)
    else if a = c.1 then (if b = d then t else (a, b) :: t)
    else c :: Mem.set d t a b

/-- Every listed address is at least `lo`, they rise, and none is listed with the value of an unlisted one. -/
def Mem.wfFrom (f : Nat → Byte) : Nat → Mem → Bool
  | _, [] => true
  | lo, c :: t => decide (lo ≤ c.1) && decide (c.2 ≠ f c.1) && Mem.wfFrom f (c.1 + 1) t

/-- What an unlisted byte of fabric or host memory reads as (log entry 4). -/
def zeroByte (_ : Nat) : Byte := 0

/-- What an unlisted byte of a Wharf reads as: 0 from reset, an unspecified value after a hash write (R221). -/
def Quay.blank (y : Quay) (a : Nat) : Byte :=
  match y.epoch with
  | none => 0
  | some e => Config.freeByte (e * 2 ^ 22 + a)

/-- The canonical form of fabric and host memory. -/
def Memory.wf (m : Mem) : Bool := Mem.wfFrom zeroByte 0 m

/-- The canonical form of a Wharf. -/
def Quay.wf (y : Quay) : Bool := Mem.wfFrom y.blank 0 y.wharf

/-- A physical byte. -/
def State.byte (s : State) (p : Place) : Byte :=
  match p.space with
  | .fabric => Mem.get 0 s.mem p.addr
  | .wharf q => Mem.get ((s.qy q).blank p.addr) (s.qy q).wharf p.addr
  | .host => Mem.get 0 s.link.mem p.addr

/-- Writes a physical byte. -/
def State.setByte (s : State) (p : Place) (b : Byte) : State :=
  match p.space with
  | .fabric => { s with mem := Mem.set 0 s.mem p.addr b }
  | .wharf q => s.modQy q (fun y => { y with wharf := Mem.set (y.blank p.addr) y.wharf p.addr b })
  | .host => s.modLink (fun l => { l with mem := Mem.set 0 l.mem p.addr b })

/-- The place `k` bytes on. -/
def Place.plus (p : Place) (k : Nat) : Place := ⟨p.space, p.addr + k⟩

/-- Bytes at a place. -/
def State.bytes (s : State) (p : Place) (n : Nat) : List Byte := (List.range n).map (fun k => s.byte (p.plus k))

/-- Writes bytes one after another. -/
def State.setBytes (s : State) (bs : List (Place × Byte)) : State := bs.foldl (fun s x => s.setByte x.1 x.2) s

/-- A 64-bit value of fabric memory. -/
def State.u64 (s : State) (pa : Nat) : Nat := leNat (s.bytes ⟨.fabric, pa⟩ 8)
/-- Bytes of host memory by bus address. -/
def State.hostBytes (s : State) (bus n : Nat) : List Byte := s.bytes ⟨.host, bus⟩ n
/-- Writes host memory by bus address. -/
def State.hostWrite (s : State) (bus : Nat) (bs : List Byte) : State :=
  s.setBytes (bs.zipIdx.map (fun x => (⟨.host, bus + x.2⟩, x.1)))

/-! ### Poison and uncorrectable words (R180, R222) -/

/-- Whether the granule of a place is poisoned. Host memory carries none. -/
def State.poisoned (s : State) (p : Place) : Bool :=
  match p.space with
  | .fabric => s.poison.contains (p.addr / 64)
  | .wharf q => (s.qy q).poison.contains (p.addr / 64)
  | .host => false

/-- Whether the 8-byte word of a place is uncorrectable. -/
def State.uncorrectable (s : State) (p : Place) : Bool :=
  match p.space with
  | .fabric => s.ue.contains (p.addr / 8)
  | .wharf q => (s.qy q).ue.contains (p.addr / 8)
  | .host => false

/-- Poisons the granule of a place. -/
def State.setPoison (s : State) (p : Place) : State :=
  if s.poisoned p then s else
  match p.space with
  | .fabric => { s with poison := p.addr / 64 :: s.poison }
  | .wharf q => s.modQy q (fun y => { y with poison := p.addr / 64 :: y.poison })
  | .host => s

/-- Clears the poison of a granule. -/
def State.clearPoison (s : State) (p : Place) : State :=
  match p.space with
  | .fabric => { s with poison := s.poison.filter (· ≠ p.addr / 64) }
  | .wharf q => s.modQy q (fun y => { y with poison := y.poison.filter (· ≠ p.addr / 64) })
  | .host => s

/-- A write of whole words leaves no erroneous word among them. -/
def State.clearUe (s : State) (p : Place) : State :=
  match p.space with
  | .fabric => { s with ue := s.ue.filter (· ≠ p.addr / 8) }
  | .wharf q => s.modQy q (fun y => { y with ue := y.ue.filter (· ≠ p.addr / 8), ce := y.ce.filter (· ≠ p.addr / 8) })
  | .host => s

/-- wecc after some words were corrected (R222, R224): CE saturates. -/
def weccCorrected (w : Word) (n : Nat) : Word := BitVec.ofNat 64 (w.toNat / 2 ^ 32 * 2 ^ 32 + min (2 ^ 32 - 1) (w.toNat % 2 ^ 32 + n))

/-- A read of `n` bytes corrects the single-bit errors it meets in a Wharf, writes the words back and counts them (R222). A write of
a part of a word leaves the word's error where it is (log entry 71). -/
def State.scrub (s : State) (p : Place) (n : Nat) : State :=
  match p.space with
  | .wharf q =>
    let hit (w : Nat) : Bool := decide (p.addr / 8 ≤ w ∧ 8 * w < p.addr + n)
    if (s.qy q).ce.any hit then
      s.modQy q (fun y => { y with ce := y.ce.filter (fun w => !hit w), wecc := weccCorrected y.wecc (y.ce.filter hit).length })
    else s
  | .fabric | .host => s

/-- The places of `n` bytes, as runs of one place each. -/
def Place.span (p : Place) (n : Nat) : List Place := (List.range n).map p.plus

/-! ### Device registers as they read (R361, R362) -/

/-- The base of the device register space in a module's local addresses. -/
def devBase : Nat := 0xF0000000000

/-- The function page a fabric address lies in, and the offset. -/
def devAt (pa : Nat) : Option (Nat × Nat) :=
  let l := pa % 2 ^ 44
  if devBase ≤ l then some ((l - devBase) / 2 ^ 20, (l - devBase) % 2 ^ 20) else none

/-- The partition that a function's page and commands are about: its own, or for a physical function the lowest partition without
virtual functions that it created. -/
def State.pagePart (s : State) (f : Nat) : Option Nat :=
  match (s.func f).part with
  | some p => some p
  | none => if f = 0 ∨ f = 385 then
      (List.find? (fun (p : Nat × Part) => decide (p.2.exists_ = true ∧ p.2.owner = f ∧ p.2.vfs = 0)) s.fw.parts).map (fun (p : Nat × Part) => p.1)
    else none

/-- The journal of a function (R373): its partition's, or key 48 for the physical functions. -/
def State.journalKey (s : State) (f : Nat) : Nat := ((s.func f).part).getD 48

/-- An 8-byte register of a function page as it reads (R362). A queue that the function does not own reads zero. -/
def State.devReg (s : State) (f off : Nat) : Word :=
  let d := s.func f
  let n (x : Nat) : Word := BitVec.ofNat 64 x
  if off = 0x00000 then n d.crbase
  else if off = 0x00008 then n (d.crsize + (if d.cren then 64 else 0) + (if d.crerr then 128 else 0))
  else if off = 0x00010 then n d.crtail
  else if off = 0x00018 then n d.crhead
  else if off = 0x01000 then n (Assoc.get [] (s.journalKey f) s.fw.journals).length
  else if off = 0x02000 then n (match s.pagePart f with | some p => (s.part p).tqProd % 2 ^ 32 | none => 0)
  else if off = 0x02008 then n (match s.pagePart f with | some p => (s.part p).tqCons % 2 ^ 32 | none => 0)
  else if off = 0x03000 then d.invaddr
  else if off = 0x03008 then n d.invlen
  else if off = 0x03010 then n ((if d.inval.isSome then 1 else 0) + (if d.invdone then 2 else 0))
  else if off = 0x04000 then n s.link.atomlack.toNat
  else if off = 0x04008 then (match s.pagePart f with | some p => Config.proxyBase p | none => 0)
  else if 0x10000 ≤ off ∧ off < 0x10000 + 32 * 4096 then
    let q := s.lq ((off - 0x10000) / 32)
    if q.owned ∧ q.func = f then
      (match (off - 0x10000) % 32 with
      | 0 => n (q.mirror.getLastD q.tail % 2 ^ 32)
      | 8 => n (q.progress % 2 ^ 32)
      | 16 => n (1 + (if q.resident then 2 else 0) + (if q.switching then 4 else 0) + (if q.stopped then 8 else 0))
      | _ => 0)
    else 0
  else if 0x80000 ≤ off ∧ off < 0x80040 then n (leNat ((d.dbgCmd.toList.drop (off - 0x80000)).take 8))
  else if 0x80040 ≤ off ∧ off < 0x80080 then n (leNat ((d.dbgResp.toList.drop (off - 0x80040)).take 8))
  else 0

/-- A byte of the device register space; a narrow read gives the register's bytes (log entry 9). -/
def State.devByte (s : State) (pa : Nat) : Byte :=
  match devAt pa with
  | some fo => BitVec.ofNat 8 ((s.devReg fo.1 (fo.2 / 8 * 8)).toNat / 2 ^ (8 * (fo.2 % 8)))
  | none => 0

/-! ### Translation of window 0x00 (R159-R165) -/

/-- What an access needs (R169): read, write, execute; whether it is an element of the VLOAD major or a tile load, which a
device page refuses; an atomic that host space does not carry. -/
structure Acc where
  r       : Bool := false
  w       : Bool := false
  x       : Bool := false
  noDev   : Bool := false
  hostBad : Bool := false
deriving DecidableEq, Repr

/-- A load. -/
def Acc.load : Acc := { r := true }
/-- A store. -/
def Acc.store : Acc := { w := true }
/-- An atomic: it needs both permissions. -/
def Acc.atomic : Acc := { r := true, w := true }
/-- An instruction fetch. -/
def Acc.fetch : Acc := { x := true }
/-- A vector load element, or a tile load read. -/
def Acc.vload : Acc := { r := true, noDev := true }

/-- The physical address field of an entry (R160). -/
def ptePa (e : Nat) : Nat := e / 2 ^ 16 % 2 ^ 40 * 2 ^ 16
/-- A bit of an entry. -/
def pteBit (e k : Nat) : Bool := e.testBit k
/-- MTYPE (R160). -/
def pteMtype (e : Nat) : Nat := e / 2 ^ 7 % 4

/-- Malformed entries (R161) at a level. -/
def pteBad (lvl e : Nat) : Bool :=
  let leaf := pteBit e 4
  decide (e / 2 ^ 10 % 2 ^ 6 ≠ 0) || decide (e / 2 ^ 56 ≠ 0)
  || (leaf && decide (lvl < 2)) || (!leaf && decide (lvl = 3))
  || (!leaf && (pteBit e 1 || pteBit e 2 || pteBit e 3 || pteBit e 5 || pteBit e 6 || pteBit e 7 || pteBit e 8
      || pteBit e 9 || pteBit e 16))
  || (leaf && decide (lvl = 2) && (decide (e / 2 ^ 16 % 2 ^ 14 ≠ 0) || pteBit e 9))
  || (leaf && pteBit e 2 && !pteBit e 1)
  || (leaf && decide (pteMtype e = 3))
  || (leaf && pteBit e 6 && (decide (pteMtype e ≠ 0) || pteBit e 5))

/-- A reserved physical address (R13, R14). -/
def physReserved (pa : Nat) : Bool :=
  decide (3072 ≤ pa / 2 ^ 44) || decide (0x20000000000 ≤ pa % 2 ^ 44 ∧ pa % 2 ^ 44 < devBase)

/-- The physical ranges a partition may reach: its own and those of its domain group's members (R161, R377). -/
def Part.reach (p : Part) : List (Nat × Nat) := p.ranges ++ p.peers.flatMap (·.2)

/-- Whether a range of physical memory lies within a partition's reach, outside the device register space, or within the page of
one of its own functions mapped as device (R361). -/
def State.inBound (s : State) (p pa size mtype : Nat) : Bool :=
  match devAt pa with
  | none => (devAt (pa + size - 1)).isNone && (s.part p).reach.any (fun r => decide (r.1 ≤ pa ∧ pa + size ≤ r.1 + r.2))
  | some fo => decide (s.pagePart fo.1 = some p ∧ mtype = 2 ∧ pa / 2 ^ 44 = s.modid ∧ fo.1 < 386 ∧ fo.2 + size ≤ 2 ^ 20)

/-- Whether a leaf may map a range: one within bounds and outside the reserved memory of every partition (R376). -/
def State.mayMap (s : State) (p pa size mtype : Nat) : Bool :=
  s.inBound p pa size mtype && !s.fw.parts.any (fun x => x.2.exists_
    && decide (pa < x.2.resBase + x.2.resSize ∧ x.2.resBase < pa + size))

/-- A leaf: the entry, the first virtual address it covers and how many bytes. -/
structure Leaf where
  pte  : Nat
  base : Nat
  size : Nat
deriving DecidableEq, Repr

/-- The lowest virtual-address bit that indexes a level (R159). -/
def levelShift (lvl : Nat) : Nat :=
  match lvl with
  | 0 => 58 | 1 => 44 | 2 => 30 | _ => 16

/-- A walk from a level's table (R159, R161, R164): the leaf, or cause and subcode. `k` counts the levels left. -/
def State.walk (s : State) (p : Nat) : Nat → Nat → Nat → Nat → Except (Nat × Nat) Leaf
  | 0, _, _, _ => .error (Cause.xlateMiss, 3)
  | k + 1, lvl, table, va =>
    let sh := levelShift lvl
    let e := s.u64 (table + 8 * (va / 2 ^ sh % 2 ^ 14))
    if !pteBit e 0 then .error (Cause.xlateMiss, lvl)
    else if pteBad lvl e then .error (Cause.perm, 0x04)
    else if physReserved (ptePa e) then .error (Cause.perm, 0x05)
    else if !(if pteBit e 4 then s.mayMap p (ptePa e) (2 ^ sh) (pteMtype e) else s.inBound p (ptePa e) (2 ^ 17) 0) then
      .error (Cause.perm, 0x06)
    else if pteBit e 4 then .ok ⟨e, va / 2 ^ sh * 2 ^ sh, 2 ^ sh⟩
    else s.walk p k (lvl + 1) (ptePa e) va

/-- What is wrong with the root table of a partition (R161), which every walk begins at. -/
def State.rootFault (s : State) (p : Nat) : Option (Nat × Nat) :=
  if physReserved (s.part p).root then some (Cause.perm, 0x05)
  else if s.inBound p (s.part p).root (2 ^ 17) 0 then none
  else some (Cause.perm, 0x06)

/-- The physical address an entry that covers `size` bytes gives for a virtual address (R162). -/
def Leaf.phys (l : Leaf) (va : Nat) : Nat := ptePa l.pte / l.size * l.size + va % l.size

/-- The L3 table that a walk of a virtual address comes to. -/
def State.l3Of (s : State) (p va : Nat) : Nat → Nat → Nat → Option Nat
  | 0, _, table => some table
  | k + 1, lvl, table =>
    let e := s.u64 (table + 8 * (va / 2 ^ levelShift lvl % 2 ^ 14))
    if pteBit e 0 && !pteBit e 4 && !pteBad lvl e && !physReserved (ptePa e) && s.inBound p (ptePa e) (2 ^ 17) 0 then
      s.l3Of p va k (lvl + 1) (ptePa e)
    else none

/-- The members with CONTIG set of the contiguity group of a virtual address, each as the translation of 1 MiB that it gives (R162). -/
def State.members (s : State) (p va : Nat) : List Leaf :=
  match (if (s.rootFault p).isSome then none else s.l3Of p va 3 0 (s.part p).root) with
  | none => []
  | some table => (List.range 16).filterMap (fun i =>
      let at_ := table + 8 * ((va / 2 ^ 20 * 16 + i) % 2 ^ 14)
      if (s.byte ⟨.fabric, at_ + 1⟩).getLsbD 1 then
        let e := s.u64 at_
        if pteBit e 0 && !pteBad 3 e && !physReserved (ptePa e) then some ⟨e, va / 2 ^ 20 * 2 ^ 20, 2 ^ 20⟩ else none
      else none)

/-- What the leaves of two translations of one address have to agree in, to be the same translation: the place and the entry's other
bits. -/
def leafKey (va : Nat) (l : Leaf) : Nat × Nat := (l.phys va, l.pte % 2 ^ 9)

/-- The translation of an address by its own entry, cached or walked (R159, R164, R165). -/
def State.ownLeaf (s : State) (p va : Nat) : Except (Nat × Nat) Leaf :=
  match s.tlb.find? (fun t => decide (t.part = p ∧ t.base ≤ va ∧ va < t.base + t.size ∧ t.size ≠ 2 ^ 20)) with
  | some t => .ok ⟨t.pte, t.base, t.size⟩
  | none =>
    match s.rootFault p with
    | some e => .error e
    | none => s.walk p 4 0 (s.part p).root va

/-- The leaf for a virtual address (R162): its own entry's, or what a member with CONTIG set, cached or in the table, gives for it.
A well-formed group gives one translation; where they differ, a free choice is made for the step (log entry 5). -/
def State.leaf (s : State) (p va : Nat) : Except (Nat × Nat) Leaf :=
  let own := s.ownLeaf p va
  let cached : List Leaf := (s.tlb.filter (fun t => decide (t.part = p ∧ t.base ≤ va ∧ va < t.base + t.size ∧ t.size = 2 ^ 20))).map
    (fun t => ⟨t.pte, t.base, t.size⟩)
  match cached ++ s.members p va with
  | [] => own
  | ms =>
    let checked : List (Except (Nat × Nat) Leaf) := ms.map (fun l =>
      if s.mayMap p (l.phys va / 2 ^ 16 * 2 ^ 16) (2 ^ 16) (pteMtype l.pte) then .ok l else .error (Cause.perm, 0x06))
    let key (x : Except (Nat × Nat) Leaf) : (Nat × Nat) × Bool := match x with
      | .ok l => (leafKey va l, true)
      | .error e => (e, false)
    let all := (own :: checked).foldl (fun (l : List (Except (Nat × Nat) Leaf)) x =>
      if l.any (fun y => decide (key y = key x)) then l else l ++ [x]) []
    match all with
    | [x] => x
    | xs => xs.getD (Config.freeChoice s.free xs.length % xs.length) own

/-- Caches a walk's leaf: its page, and its contiguity group when CONTIG is set (R162). -/
def State.cache (s : State) (p : Nat) (l : Leaf) : State :=
  let e : TlbEntry := if pteBit l.pte 9 then ⟨p, l.base / 2 ^ 20 * 2 ^ 20, 2 ^ 20, l.pte⟩ else ⟨p, l.base, l.size, l.pte⟩
  if s.tlb.contains e then s else { s with tlb := e :: s.tlb }

/-! ### Translation of an access (R157, R166-R171) -/

/-- Who makes an access: its partition, the function it goes to the host by (R383), context PASID, die and Quay, and the host page
its last attempt saw fail. -/
structure Actor where
  part  : Nat
  func  : Nat
  pasid : Nat
  die   : Nat
  quay  : Nat
  fail  : Option (Nat × Nat)
deriving DecidableEq, Repr

/-- An agent as the maker of an access. -/
def State.actor (s : State) (g : Nat) : Actor :=
  let a := s.ag g
  ⟨a.part, (s.ctx a.ctx).func, (s.ctx a.ctx).pasid, dieOf (quayOf g), quayOf g, a.marks.atsFail⟩

/-- A partition's function towards the host: its lowest VF, or the physical function that created it (R365). -/
def State.partFunc (s : State) (p : Nat) : Nat :=
  match (List.range 384).find? (fun v => (s.part p).vfs.testBit v) with
  | some v => v + 1
  | none => (s.part p).owner

/-- The root port of a function (R359). -/
def portOf (f : Nat) : Nat := if f = 0 ∨ (1 ≤ f ∧ f ≤ 192) then 0 else 1

/-- A checked access: its place, the memory type of its page (0 normal, 1 uncached, 2 device), and the leaf in window 0. -/
structure Hit where
  place : Place
  mtype : Nat
  leaf  : Option Leaf
deriving DecidableEq, Repr

/-- Why an access fails its check: a cause and subcode, or a host translation that must be requested first. -/
inductive XFail where
  | trap (cause sub : Nat)
  | ats
deriving DecidableEq, Repr

/-- Whether a fabric page is sealed (R190). -/
def State.sealed (s : State) (pa : Nat) : Bool := s.fw.seals.any (fun z => z.pages.contains (pa / 2 ^ 16))

/-- The check of one aligned range at an address, items 2 to 5 of R169. -/
def State.xlate (s : State) (by_ : Actor) (a : Addr) (k : Acc) : Except XFail Hit :=
  let off := (offOf a).toNat
  match winOf a with
  | 0 =>
    match s.leaf by_.part off with
    | .error e => .error (.trap e.1 e.2)
    | .ok l =>
      if k.r && !pteBit l.pte 1 then .error (.trap Cause.perm 0x01)
      else if k.w && !pteBit l.pte 2 then .error (.trap Cause.perm 0x02)
      else if k.x && !pteBit l.pte 3 then .error (.trap Cause.perm 0x03)
      else if k.noDev && decide (pteMtype l.pte = 2) then .error (.trap Cause.perm 0x07)
      else if k.w && s.sealed (l.phys off) then .error (.trap Cause.sealed 0)
      else .ok ⟨⟨.fabric, l.phys off⟩, pteMtype l.pte, some l⟩
  | 1 =>
    let f := s.func by_.func
    if !f.ats then .error (.trap Cause.atsFail 0x01)
    else if by_.fail = some (off / 2 ^ 12, 0x02) then .error (.trap Cause.atsFail 0x02)
    else
      match s.link.ats.find? (fun e =>
        decide (e.part = by_.part ∧ e.func = by_.func ∧ e.die = by_.die ∧ e.pasid = by_.pasid ∧ e.base ≤ off ∧ off < e.base + e.size)) with
      | none => .error .ats
      | some e =>
        if (k.r && !e.r) || (k.w && !e.w) then
          if by_.fail = some (off / 2 ^ 12, 0x03) then .error (.trap Cause.atsFail 0x03)
          else if !f.pri then .error (.trap Cause.atsFail 0x04)
          else .error (.trap Cause.priPending 0)
        else if k.hostBad then .error (.trap Cause.perm 0x08)
        else .ok ⟨⟨.host, e.bus + (off - e.base)⟩, 1, none⟩
  | 2 =>
    if off / 2 ^ 22 ≠ 0 then .error (.trap Cause.window 0x02)
    else .ok ⟨⟨.wharf by_.quay, off⟩, 0, none⟩
  | 3 =>
    if off / 2 ^ 30 ≠ 0 then .error (.trap Cause.window 0x02)
    else if 192 ≤ off / 2 ^ 22 then .error (.trap Cause.window 0x03)
    else if !(s.part by_.part).piers.testBit (off / 2 ^ 22 / 4) then .error (.trap Cause.perm 0x06)
    else .ok ⟨⟨.wharf (off / 2 ^ 22), off % 2 ^ 22⟩, 0, none⟩
  | _ => .error (.trap Cause.window 0x01)

/-- Keeps the translation an access used. -/
def State.keep (s : State) (by_ : Actor) (h : Hit) : State :=
  match h.leaf with
  | some l => s.cache by_.part l
  | none => s

/-! ### What an agent reads (R82, R199) -/

/-- The last of a piece's bytes at a place. -/
def lastByte (p : Place) (bs : List (Place × Byte)) : Option Byte :=
  bs.foldl (fun acc x => if x.1 = p then some x.2 else acc) none

/-- The byte an agent sees at a place: from its strip buffer, its committed stores, its write-combining buffer, or memory. -/
def State.seen (s : State) (g : Nat) (p : Place) : Byte :=
  let a := s.ag g
  match a.strip.buf.find? (fun b => decide (b.place = p)) with
  | some b => b.byte
  | none =>
    match a.mem.queue.foldl (fun acc q => (lastByte p q.bytes).orElse (fun _ => acc)) none with
    | some b => b
    | none =>
      match (if p.space = .host then a.mem.wc.findSome? (fun l => Assoc.find? p.addr l.bytes) else none) with
      | some b => b
      | none =>
        match p.space, devAt p.addr with
        | .fabric, some _ => s.devByte p.addr
        | _, _ => s.byte p

/-- A byte as an engine or the Harbour Master reads it: from memory or a device register, past every buffer. -/
def State.rawByte (s : State) (p : Place) : Byte :=
  match p.space, devAt p.addr with
  | .fabric, some _ => s.devByte p.addr
  | _, _ => s.byte p

/-- The value of `n` bytes that an agent sees from a place. -/
def State.seenNat (s : State) (g : Nat) (p : Place) (n : Nat) : Nat := leNat ((p.span n).map (s.seen g))

/-- The first bad granule or word that a read of `n` bytes meets: poison or an uncorrectable word (R180). -/
def State.badRead (s : State) (p : Place) (n : Nat) : Option (Bool × Place) :=
  (p.span n).findSome? (fun q =>
    if s.uncorrectable q then some (true, q) else if s.poisoned q then some (false, q) else none)

end Sys2Proof.Machine
end

