-- ==== Sys2Proof/Machine/Jetty.lean ====
section
/-! DEFINITION. The Jetty links (R379): a message as a flit, the ports, what a module sends. What R379 leaves open of a flit, the operation
numbers and the words of a payload, is the model's choice (log entries 34 and 96). -/

namespace Sys2Proof.Machine

/-! ### Flits -/

/-- One bit of a CRC-32C, least significant bit first. -/
def crcBit (c : Nat) : Nat := if c % 2 = 1 then (c / 2) ^^^ 0x82F63B78 else c / 2

/-- The CRC-32C of some bytes. -/
def crc32c (bs : List Byte) : Nat :=
  (bs.foldl (fun c b => (List.range 8).foldl (fun c _ => crcBit c) (c ^^^ b.toNat)) 0xFFFFFFFF) ^^^ 0xFFFFFFFF

/-- A field of a flit, from a byte on. -/
def flitField (flit : List Byte) (o n : Nat) : Nat := leNat ((flit.drop o).take n)

/-- Whether a flit arrived whole: its length and its CRC over bytes 0-247. -/
def flitOk (flit : List Byte) : Bool := decide (flit.length = 256 ∧ crc32c (flit.take 248) = flitField flit 248 4)

/-- The modules that a flit's header names: where it goes, where it comes from. -/
def flitEnds (flit : List Byte) : Nat × Nat := (flitField flit 0 2 % 2 ^ 12, flitField flit 0 4 / 2 ^ 12 % 2 ^ 12)

end Sys2Proof.Machine

namespace Sys2Proof

/-! ### Messages as flits -/

/-- The class of a message (R379): 0 a request, 1 a response, 2 data of the Block-Transfer Engine. -/
def LinkMsg.class_ : LinkMsg → Nat
  | .response _ _ | .answer _ _ _ => 1
  | .store kind _ _ _ _ => if kind = 2 then 2 else 0
  | .other | .pause _ | .replay | .amo _ _ _ _ _ _ _ _ _ | .wait _ _ _ _ _ _ _ _ _ | .fset _ _ _ _ _ _ _ | .wake _ _ _
  | .arrive _ _ _ _ _ _ _ | .phase _ _ _ _ _ | .halt _ _ _ _ _ | .start _ _ _ | .ended _ _ _ _ | .lost _ | .reset _ _
  | .allot _ _ _ _ | .arm _ _ _ _ _ _ => 0

/-- The operation of a message. -/
def LinkMsg.op : LinkMsg → Nat
  | .other => 0
  | .pause _ => 1
  | .replay => 2
  | .store _ _ _ _ _ => 3
  | .amo _ _ _ _ _ _ _ _ _ => 4
  | .response _ _ => 5
  | .wait _ _ _ _ _ _ _ _ _ => 6
  | .fset _ _ _ _ _ _ _ => 7
  | .answer _ _ _ => 8
  | .wake _ _ _ => 9
  | .arrive _ _ _ _ _ _ _ => 10
  | .phase _ _ _ _ _ => 11
  | .halt _ _ _ _ _ => 12
  | .start _ _ _ => 13
  | .ended _ _ _ _ => 14
  | .lost _ => 15
  | .reset _ _ => 16
  | .allot _ _ _ _ => 17
  | .arm _ _ _ _ _ _ => 18

/-- The tag of a message: that of the request which a response answers. -/
def LinkMsg.tag : LinkMsg → Nat
  | .amo t _ _ _ _ _ _ _ _ | .response t _ | .wait t _ _ _ _ _ _ _ _ | .fset t _ _ _ _ _ _ | .answer t _ _ => t
  | .other | .pause _ | .replay | .store _ _ _ _ _ | .wake _ _ _ | .arrive _ _ _ _ _ _ _ | .phase _ _ _ _ _ | .halt _ _ _ _ _
  | .start _ _ _ | .ended _ _ _ _ | .lost _ | .reset _ _ | .allot _ _ _ _ | .arm _ _ _ _ _ _ => 0

/-- Bytes as 8-byte words. -/
def Machine.packWords : Nat → List Byte → List Nat
  | 0, _ => []
  | _ + 1, [] => []
  | k + 1, b :: bs => Machine.leNat ((b :: bs).take 8) :: packWords k ((b :: bs).drop 8)

/-- A yes or no as a word. -/
def Machine.wordOf (b : Bool) : Nat := if b then 1 else 0

/-- The words of a payload. -/
def LinkMsg.words : LinkMsg → List Nat
  | .other | .replay => []
  | .pause on => [Machine.wordOf on]
  | .store kind slot quay addr data => [kind, slot, quay, addr, data.length] ++ Machine.packWords 29 data
  | .amo _ fn kind slot quay addr width x y => [fn, kind, slot, quay, addr, width, x, y]
  | .response _ v => [v]
  | .wait _ kind slot quay task addr group key park => [kind, slot, quay, task, addr, group, key, Machine.wordOf park]
  | .fset _ kind slot quay addr value st => [kind, slot, quay, addr, value, st]
  | .answer _ code v => [code, v]
  | .wake addr st v => [addr, st, v]
  | .arrive o l level key count last t => [o, l, level, count, Machine.wordOf last, t, key.length] ++ key
  | .phase o l level key done => [o, l, level, done, key.length] ++ key
  | .halt o l level key on => [o, l, level, Machine.wordOf on, key.length] ++ key
  | .start group key r => [group, key, r.module, r.launch, r.record.toNat % 2 ^ 64, r.record.toNat / 2 ^ 64, r.part, r.quay, r.index.length]
      ++ r.index ++ [r.homes.length] ++ r.homes
  | .ended l k code fail => [l, k, code.toNat, Machine.wordOf fail]
  | .lost l => [l]
  | .reset group key => [group, key]
  | .allot group key die mask => [group, key, die, mask]
  | .arm group key comp addr mask value => [group, key, comp, addr, mask, value]

/-- Whether a message fits a flit: a payload of at most 29 words of 8 bytes, a tag of 28 bits. -/
def LinkMsg.fits (x : LinkMsg) : Bool :=
  decide (x.words.length ≤ 29 ∧ x.tag < 2 ^ 28) && x.words.all (fun w => decide (w < 2 ^ 64))

/-- Bytes 0-247 of a message's flit: the header and the payload (R379). -/
def LinkMsg.body (x : LinkMsg) (dst src : Nat) : List Byte :=
  let head := dst % 2 ^ 12 + src % 2 ^ 12 * 2 ^ 12 + x.class_ * 2 ^ 24 + x.op * 2 ^ 28 + x.tag % 2 ^ 28 * 2 ^ 36 + x.words.length * 2 ^ 64
  let pay := x.words.flatMap (Machine.leBytes 8)
  Machine.leBytes 16 head ++ pay.take 232 ++ List.replicate (232 - pay.length) 0

/-- The flit of a message, with its sequence number and the one it acknowledges (R379). -/
def LinkMsg.flit (x : LinkMsg) (dst src seq ack : Nat) : List Byte :=
  let b := x.body dst src
  b ++ Machine.leBytes 4 (Machine.crc32c b) ++ Machine.leBytes 2 seq ++ Machine.leBytes 2 ack

end Sys2Proof

namespace Sys2Proof.Machine

/-- Whether a flit says what a message says: class, operation, tag, length and payload are the message's. -/
def flitSays (flit : List Byte) (x : LinkMsg) : Bool :=
  x.fits && decide (flit.take 248 = x.body (flitEnds flit).1 (flitEnds flit).2)

/-! ### Ports -/

/-- Puts a message on the line, and into the replay buffer: it acknowledges the last flit that the port has taken. -/
def Jetty.put (j : Jetty) (dst src : Nat) (x : LinkMsg) : Jetty :=
  let f := x.flit dst src j.next ((j.expect + 2 ^ 16 - 1) % 2 ^ 16)
  { j with next := (j.next + 1) % 2 ^ 16, buffer := j.buffer ++ [(j.next, f)], wire := j.wire ++ [f] }

/-- Sends a message, or keeps it while the other side has sent pause. -/
def Jetty.send (j : Jetty) (dst src : Nat) (x : LinkMsg) : Jetty :=
  if j.paused then { j with queue := j.queue ++ [(dst, x)] } else j.put dst src x

/-- A message of the link's own goes to the other end of the line, whose module the spec does not name: its destination is one that no
module has. It does not wait for a pause to end. -/
def Jetty.own (j : Jetty) (src : Nat) (x : LinkMsg) : Jetty := j.put 0xFFF src x

/-- A sender's port after an acknowledgement: what it acknowledges leaves the replay buffer. -/
def Jetty.acked (j : Jetty) (ack : Nat) : Jetty :=
  { j with buffer := j.buffer.filter (fun x => decide (2 ^ 15 ≤ (ack + 2 ^ 16 - x.1) % 2 ^ 16)) }

/-- A port that may send again: the messages that waited go, in their order. -/
def Jetty.resume (j : Jetty) (src : Nat) : Jetty :=
  j.queue.foldl (fun j x => j.put x.1 src x.2) { j with paused := false, queue := [] }

/-- A port that has been asked for a replay: the flits of its replay buffer go again. -/
def Jetty.again (j : Jetty) : Jetty := { j with wire := j.wire ++ j.buffer.map (fun x => x.2) }

/-- The message put into the port by which a module is reached. -/
def State.sendTo (s : State) (m : Nat) (x : LinkMsg) : State :=
  let p := Config.jettyPort m % 64
  s.modLink (fun l => { l with jetty := Assoc.set p ((Assoc.get {} p l.jetty).send m s.modid x) l.jetty })

/-! ### Memory of other modules (R380) -/

/-- Whether the home of a place is on another module. -/
def State.away (s : State) (p : Place) : Bool := decide (p.space = .fabric ∧ p.addr / 2 ^ 44 ≠ s.modid) && (devAt p.addr).isNone

/-- Bytes by rising addresses, as runs of at most a line. -/
def byteRuns : List (Nat × Byte) → List (Nat × List Byte)
  | [] => []
  | (a, b) :: t =>
    match byteRuns t with
    | [] => [(a, [b])]
    | (c, d) :: r => if c = a + 1 ∧ d.length < 64 then (a, b :: d) :: r else (a, [b]) :: (c, d) :: r

/-- Sends what has been written to memory of other modules to its homes, by whom a home comparator records as the writer. -/
def State.tellHomes (s : State) (kind slot quay : Nat) (bs : List (Place × Byte)) : State :=
  (byteRuns ((bs.filter (fun x => s.away x.1)).map (fun x => (x.1.addr, x.2)))).foldl
    (fun s r => s.sendTo (r.1 / 2 ^ 44) (.store kind slot quay r.1 r.2)) s

end Sys2Proof.Machine
end

