-- ==== Sys2Proof/Machine/Regs.lean ====
section
/-! DEFINITION. Writes of the registers of a function page (R339, R342, R357, R362, R363, R364, R367, R368, R370). -/

namespace Sys2Proof.Machine

/-! ### Saved agents of a context -/

/-- Whether a task is of a slot's kind. -/
def TaskKind.slotOk (k : TaskKind) (slot : Nat) : Bool :=
  match k with
  | .pilot _ _ => decide (slot = 8)
  | .hart _ _ | .queued _ _ _ => decide (slot < 8)

/-- An agent that an image holds: its slot (0-7 a hart, 8 the Pilot), its task, its state, the live lanes that it has or was saved with. -/
structure Imaged where
  slot  : Nat
  key   : Nat
  agent : Agent
  state : TaskState
  lanes : BitVec 32

/-- The agents of a context that stand in the slots of a Quay. -/
def State.standing (s : State) (c q : Nat) : List Imaged :=
  ((List.range 9).filter (fun k => decide ((s.ag (q * 16 + k)).status ≠ .absent ∧ (s.ag (q * 16 + k)).ctx = c))).map (fun k =>
    ⟨k, (s.ag (q * 16 + k)).tkey, s.ag (q * 16 + k), .running (q * 16 + k), (s.ag (q * 16 + k)).strip.live⟩)

/-- The tasks of a context on a Quay that have been saved, each with the slot that the image gives it: those that no agent stands in, from
the lowest on, as far as there are any (log entry 88). -/
def State.savedOn (s : State) (c q : Nat) : List Imaged :=
  let ts := s.work.tasks.filter (fun t => decide (t.2.ctx = c ∧ t.2.quay = q) && t.2.saved.isSome)
  let mk (t : Nat × Task) (slot : Nat) : Imaged := ⟨slot, t.1, t.2.saved.getD {}, t.2.state, t.2.lanes⟩
  let free (k : Nat) : Bool := decide ((s.ag (q * 16 + k)).status = .absent ∨ (s.ag (q * 16 + k)).ctx ≠ c)
  let kind (pilot : Bool) : List (Nat × Task) := ts.filter (fun t => t.2.kind.slotOk (if pilot then 8 else 0))
  (((kind true).zip ([8].filter free)) ++ ((kind false).zip ((List.range 8).filter free))).map (fun x => mk x.1 x.2)

/-! ### Writes of the registers of a function page (R362) -/

/-- Writes the bits that a register has; a non-zero write of the others is ignored and counted (R10). -/
def State.wrMasked (s : State) (v : Word) (mask : Nat) (put : State → Nat → State) : State :=
  put (if v.toNat &&& mask = v.toNat then s else s.countRsv) (v.toNat &&& mask)

/-- CRBASE (R370). -/
def State.wrCrbase (s : State) (f : Nat) (v : Word) : State :=
  s.wrMasked v (2 ^ 64 - 64) (fun s x => if (s.func f).cren then s else s.modFunc f (fun d => { d with crbase := x }))

/-- CRCTL (R370); ERR is read-only. -/
def State.wrCrctl (s : State) (f : Nat) (v : Word) : State :=
  s.wrMasked v 0xFF (fun s x =>
    let d := s.func f
    let n := x % 64
    let en := x.testBit 6
    if n < 4 ∨ 12 < n ∨ (d.cren ∧ n ≠ d.crsize) then s
    else s.modFunc f (fun d => { d with
      crsize := n, cren := en
      crhead := if en && !d.cren then 0 else d.crhead
      crerr := d.crerr && !(en && !d.cren) }))

/-- CRTAIL (R370). -/
def State.wrCrtail (s : State) (f : Nat) (v : Word) : State :=
  s.wrMasked v (2 ^ 32 - 1) (fun s x =>
    let d := s.func f
    let past (t : Nat) : Nat := (t + 2 ^ 32 - d.crhead % 2 ^ 32) % 2 ^ 32
    if !d.cren ∨ (past x ≤ 2 ^ d.crsize ∧ past d.crtail ≤ past x) then s.modFunc f (fun d => { d with crtail := x })
    else s.modFunc f (fun d => { d with crerr := true }))

/-- The consumer index becomes the value written; the count of the slots in use follows it (R342). -/
def Part.consume (p : Part) (x : Nat) : Part :=
  let used := (p.tqProd + 2 ^ 32 - x) % 2 ^ 32
  let prod := if p.tqProd < used then p.tqProd + 2 ^ 32 else p.tqProd
  { p with tqProd := prod, tqCons := prod - used }

/-- TQCONS (R342). -/
def State.wrTqcons (s : State) (f : Nat) (v : Word) : State :=
  s.wrMasked v (2 ^ 32 - 1) (fun s x =>
    match s.pagePart f with
    | some p => s.modPart p (fun y => y.consume x)
    | none => s)

/-- INVGO (R363). -/
def State.wrInvgo (s : State) (f : Nat) (v : Word) : State :=
  s.wrMasked v 3 (fun s x =>
    let d := s.func f
    if x % 2 = 0 ∨ d.inval.isSome then s
    else s.modFunc f (fun d => { d with
      inval := some ⟨d.invaddr.toNat, d.invlen * 2 ^ 16, decide (d.invlen = 0)⟩, invdone := false }))

/-- ATOMLACK, which a write of 1 clears (R364). -/
def State.clearLack (s : State) (v : Word) : State :=
  s.modLink (fun l => { l with atomlack := l.atomlack &&& ~~~ (v.setWidth 2) })

/-- Sets ipend.HOST of a saved task's agent. -/
def State.irqTask (s : State) (k : Nat) : State :=
  s.modTask k (fun t => { t with saved := t.saved.map (fun a => a.modTrap (fun r => { r with irq := true })) })

/-- CTXIRQ (R339, R362): the agents named of a context of the function's partition; a slot number names an agent on the context's
lowest Quay, or the one that its image would hold there while it is saved. -/
def State.wrCtxirq (s : State) (f : Nat) (v : Word) : State :=
  s.wrMasked v (2 ^ 37 - 1) (fun s x =>
    let c := x % 2 ^ 32
    let z := s.ctx c
    if !z.exists_ ∨ s.pagePart f ≠ some z.part then s
    else
      let put (s : State) (g : Nat) : State := s.modAg g (fun a => a.modTrap (fun r => { r with irq := true }))
      if x.testBit 36 then
        let s := (s.agents.filter (fun a => decide (a.2.ctx = c ∧ a.2.status ≠ .absent))).foldl (fun s a => put s a.1) s
        (s.work.tasks.filter (fun t => decide (t.2.ctx = c) && t.2.saved.isSome)).foldl (fun s t => s.irqTask t.1) s
      else
        let q := z.quays.headD 0
        let k := x / 2 ^ 32 % 16
        if 8 < k then s
        else if (s.ag (q * 16 + k)).status ≠ .absent ∧ (s.ag (q * 16 + k)).ctx = c then put s (q * 16 + k)
        else match (s.savedOn c q).find? (fun i => decide (i.slot = k)) with
        | some i => s.irqTask i.key
        | none => s)

/-- A tail written to a queue (R367): taken, or ignored with the queue stopped. -/
def LaunchQueue.takeTail (x : LaunchQueue) (v : Nat) : LaunchQueue :=
  let t := x.progress + (v + 2 ^ 32 - x.progress % 2 ^ 32) % 2 ^ 32
  if x.tail ≤ t ∧ t ≤ x.progress + x.size then { x with tail := t } else { x with stopped := true }

/-- Whether a queue has work that it has not started (R368). -/
def LaunchQueue.pending (x : LaunchQueue) : Bool := decide (x.next < x.tail) || !x.mirror.isEmpty

/-- QTAIL (R367, R368): a resident queue takes the tail, another keeps it in its mirror; work that begins to wait is as old as it. -/
def State.wrQtail (s : State) (f q : Nat) (v : Word) : State :=
  let x := s.lq q
  if !x.owned ∨ x.func ≠ f then s.countRsv
  else s.wrMasked v (2 ^ 32 - 1) (fun s t =>
    s.modLq q (fun y =>
      let z := if y.resident && !y.switching then y.takeTail t else { y with mirror := y.mirror ++ [t] }
      if y.pending then z else { z with since := s.time }))

/-- The command slot of the debug port (R357): a write of a non-zero TAG starts the command, and is ignored while one runs. -/
def State.wrDebug (s : State) (f off : Nat) (bs : List Byte) : State :=
  let put (d : Func) : Func :=
    { d with dbgCmd := bs.zipIdx.foldl (fun c b => setIx c (off - 0x80000 + b.2) b.1) d.dbgCmd }
  let tag (k : Nat) : Byte := if off ≤ 0x80038 + k then bs.getD (0x80038 + k - off) 0 else 0
  if (List.range 4).any (fun k => decide (tag k ≠ 0)) then
    if (s.func f).dbgBusy then s else s.modFunc f (fun d => { put d with dbgBusy := true })
  else s.modFunc f put

/-- A write of 8 bytes to a function page: to a register, to a read-only one, which is ignored, or to none, which is counted. -/
def State.devWrite (s : State) (f off : Nat) (v : Word) : State :=
  if 386 ≤ f then s
  else if off = 0x00000 then s.wrCrbase f v
  else if off = 0x00008 then s.wrCrctl f v
  else if off = 0x00010 then s.wrCrtail f v
  else if off = 0x02008 then s.wrTqcons f v
  else if off = 0x03000 then s.wrMasked v (2 ^ 64 - 2 ^ 16) (fun s x => s.modFunc f (fun d => { d with invaddr := BitVec.ofNat 64 x }))
  else if off = 0x03008 then s.wrMasked v (2 ^ 32 - 1) (fun s x => s.modFunc f (fun d => { d with invlen := x }))
  else if off = 0x03010 then s.wrInvgo f v
  else if off = 0x04000 then s.wrMasked v 3 (fun s x => s.clearLack (BitVec.ofNat 64 x))
  else if off = 0x05000 then s.wrCtxirq f v
  else if off = 0x00018 ∨ off = 0x01000 ∨ off = 0x02000 ∨ off = 0x04008 then s
  else if 0x10000 ≤ off ∧ off < 0x10000 + 32 * 4096 then
    (match (off - 0x10000) % 32 with
    | 0 => s.wrQtail f ((off - 0x10000) / 32) v
    | 8 | 16 => if (s.lq ((off - 0x10000) / 32)).owned ∧ (s.lq ((off - 0x10000) / 32)).func = f then s else s.countRsv
    | _ => s.countRsv)
  else if 0x80000 ≤ off ∧ off < 0x80040 then s.wrDebug f off (leBytes 8 v.toNat)
  else if 0x80040 ≤ off ∧ off < 0x80080 then s
  else s.countRsv

/-- Bytes stored at an offset of a function page (R210, R362): the debug port's command slot takes them as they are, a register takes
them as its value (log entry 9). -/
def State.devStore (s : State) (f off : Nat) (bs : List Byte) : State :=
  if f < 386 ∧ 0x80000 ≤ off ∧ off + bs.length ≤ 0x80040 then s.wrDebug f off bs
  else s.devWrite f off (BitVec.ofNat 64 (leNat bs))

end Sys2Proof.Machine
end

