-- ==== Sys2Proof/Machine/TileEngine.lean ====
section
/-! DEFINITION. The tile engine: demand, forcing and the value of every element (R248-R254, R263, R40, R41, R135, R136).
Memory enters only as the function `rd`, which reads the bytes of one element for a TLD. -/

namespace Sys2Proof.Machine

/-! ### Shapes and units -/

/-- The element width of a tile type; 0 for a code that is no type (R243). -/
def tileBits (ty : Nat) : Nat :=
  match ty with
  | 4 => 8 | 8 => 8 | 9 => 8 | 10 => 16 | 11 => 16 | 12 => 32 | 14 => 4 | 15 => 8 | 16 => 32 | _ => 0

/-- The greatest extent of a tile on this part (R244). -/
def tlen : Nat := 128

/-- A shape: type, rows, columns. -/
structure Shape where
  ty   : Nat
  rows : Nat
  cols : Nat
deriving DecidableEq, Repr

/-- The shape a shape register holds (R244). -/
def shapeOf (w : BitVec 24) : Shape :=
  ⟨w.toNat % 32, w.toNat / 2 ^ 8 % 2 ^ 8, w.toNat / 2 ^ 16 % 2 ^ 8⟩

/-- Legality (R243). -/
def Shape.legal (s : Shape) : Bool :=
  decide (tileBits s.ty ≠ 0 ∧ 1 ≤ s.rows ∧ s.rows ≤ tlen ∧ 1 ≤ s.cols ∧ s.cols ≤ tlen)

/-- The segments a version takes (R243). -/
def Shape.segs (s : Shape) : Nat := max 1 ((s.rows * ((s.cols * tileBits s.ty + 7) / 8) + 8191) / 8192)

/-- A version's shape. -/
def Version.shape (v : Version) : Shape := ⟨v.ty, v.rows, v.cols⟩

/-- The set of units, as bits, for which `p row block` holds. -/
def unitSet (p : Nat → Nat → Bool) : Nat :=
  (List.range 1024).foldl (fun acc u => if p (u / 8) (u % 8) then acc + 2 ^ u else acc) 0

/-- Every unit within a shape. -/
def Shape.units (s : Shape) : Nat := unitSet (fun r b => decide (r < s.rows ∧ 16 * b < s.cols))

/-- The units that hold an element of a rectangle, clipped to the shape (R248). -/
def Shape.rect (s : Shape) (row0 rows col0 cols : Nat) : Nat :=
  unitSet (fun r b => decide (row0 ≤ r ∧ r < row0 + rows ∧ r < s.rows ∧ 0 < cols ∧ 16 * b < s.cols
    ∧ col0 < 16 * b + 16 ∧ 16 * b < col0 + cols))

/-- The units of a set, ascending by row, then by block. -/
def unitsOf (d : Nat) : List Nat := (List.range 1024).filter (fun u => d.testBit u)

/-- The number of units of a set. -/
def unitCount (d : Nat) : Nat := (unitsOf d).length

/-- Whether a set has a unit in a row. -/
def hasRow (d r : Nat) : Bool := decide (d / 2 ^ (8 * r) % 2 ^ 8 ≠ 0)
/-- Whether a set has a unit in a column block. -/
def hasBlock (d b : Nat) : Bool := (List.range 128).any (fun r => d.testBit (8 * r + b))

/-- An element. -/
def Version.get (v : Version) (r c : Nat) : Nat := Assoc.get 0 c (Assoc.get [] r v.data)

/-- Writes an element. -/
def Version.put (v : Version) (r c x : Nat) : Version :=
  { v with data := Assoc.set r (Assoc.set c x (Assoc.get [] r v.data)) v.data }

/-- A version that is absent. -/
def Version.none : Version := ⟨0, 0, 0, Option.none, 0, []⟩

/-- A version by its number. -/
def TileState.ver (t : TileState) (id : Nat) : Version := Assoc.get Version.none id t.versions

/-! ### Liveness (R246) -/

/-- The versions reachable from a set within `k` steps. -/
def TileState.reach (t : TileState) : Nat → List Nat → List Nat
  | 0, ids => ids
  | k + 1, ids =>
    let more := ids.flatMap (fun i => match (t.ver i).node with | some n => n.srcs | Option.none => [])
    t.reach k (ids ++ (more.filter (fun i => !ids.contains i)).dedup)

/-- The versions that are current. -/
def TileState.current (t : TileState) : List Nat := t.cur.toList.filterMap id

/-- Discards every version and node that is not reachable from a register's current version. -/
def TileState.collect (t : TileState) : TileState :=
  let keep := t.reach 193 t.current
  { t with versions := t.versions.filter (fun p => keep.contains p.1) }

/-- The live nodes with their versions. -/
def TileState.nodes (t : TileState) : List (Nat × Node) :=
  t.versions.filterMap (fun p => p.2.node.map (fun n => (p.1, n)))

/-- Segments in use. -/
def TileState.segs (t : TileState) : Nat := (t.versions.map (fun p => p.2.shape.segs)).sum

/-- TLDs with an element not read: the watch ranges in use (R256). -/
def TileState.watched (t : TileState) : List (Nat × Node) := t.nodes.filter (fun p => decide (p.2.op = .tld))

/-- The node number that a new node takes: the least not in use (DESIGN CHOICE, log entry 104). -/
def TileState.freeNum (t : TileState) : Nat :=
  ((List.range 192).find? (fun k => !(t.nodes.any (fun p => decide (p.2.num = k))))).getD 192

/-- The live node with the lowest append order. -/
def TileState.oldest (l : List (Nat × Node)) : Option (Nat × Node) :=
  l.foldl (fun acc p => match acc with
    | Option.none => some p
    | some q => if p.2.order < q.2.order then some p else some q) Option.none

/-! ### Element values (R263) -/

/-- Reads an element as a datum of a float type. -/
def tileVal (v : Version) (r c : Nat) : Val := (fmtOf v.ty).read (v.get r c)

/-- One accumulate of R135: RNE_f32(acc + a × b). -/
def accF32 (acc : Nat × Flags) (a b : Val) : Nat × Flags :=
  let x := Val.fma .rne (f32.read acc.1) a b
  let y := f32.round .rne 0 x.1
  (y.1, acc.2 ||| x.2 ||| y.2)

/-- TMMA (R135). -/
def tmmaElem (old a b : Version) (i j : Nat) : Nat × Flags :=
  (List.range a.cols).foldl (fun acc k => accF32 acc (tileVal a i k) (tileVal b k j)) (old.get i j, 0)

/-- The integer sum of a group and its scaled accumulate (R135, R136). DESIGN CHOICE (log entry 84): an integer sum of zero is taken as
+0, so the zero product has the sign of the scales' product. -/
def tqmmaElem (old a b pa pb : Version) (g i j : Nat) : Nat × Flags :=
  (List.range (a.cols / g)).foldl (fun acc gi =>
    let qa := pa.get i gi
    let qb := pb.get gi j
    let za : Int := (qa / 2 ^ 16 % 2 ^ 8 : Nat)
    let zb : Int := (qb / 2 ^ 16 % 2 ^ 8 : Nat)
    let isum : Int := (List.range g).foldl (fun s k =>
      s + ((a.get i (g * gi + k) : Int) - za) * ((b.get (g * gi + k) j : Int) - zb)) 0
    let sc := Val.mul (f16.read (qa % 2 ^ 16)) (f16.read (qb % 2 ^ 16))
    let r := accF32 acc sc.1 (Val.ofInt isum)
    (r.1, r.2 ||| sc.2)) (old.get i j, 0)

/-- TMMAS (R40); with no valid group the result is the old element, a NaN as its canonical pattern (R128). -/
def tmmasElem (old a b m : Version) (i j : Nat) : Nat × Flags :=
  let r := (List.range (b.rows / 4)).foldl (fun acc g =>
    let meta_ := m.get i g
    let lo := meta_ % 4
    let hi := meta_ / 4 % 4
    if meta_ / 16 ≠ 0 ∨ hi ≤ lo then (acc.1, acc.2 ||| IVO)
    else accF32 (accF32 acc (tileVal a i (2 * g)) (tileVal b (4 * g + lo) j))
      (tileVal a i (2 * g + 1)) (tileVal b (4 * g + hi) j)) (old.get i j, 0)
  (f32.canon r.1, r.2)

/-- The lesser or greater of two operands, NaN ignored (R112, R120). -/
def minMax (isMax : Bool) (x y : Val) : Val :=
  match x, y with
  | .nan, y => y
  | x, .nan => x
  | x, y => if (if isMax then decide (Val.cmpZ x y < 0) else decide (0 < Val.cmpZ x y)) then y else x

/-- TEW (R263). -/
def tewVal (op : Nat) (mode : RMode) (x y : Val) : Val × Flags :=
  match op with
  | 0 => Val.add mode x y
  | 1 => Val.add mode x y.negate
  | 2 => Val.mul x y
  | 3 => (minMax true x y, 0)
  | _ => (minMax false x y, 0)

/-- TACT (R263). -/
def tactVal (op : Nat) (scalar : Word) (x : Val) : Val × Flags :=
  match op with
  | 0 => Val.exp2 x
  | 1 => match x with
    | .nan => (.nan, 0)
    | x => (if x.neg? ∨ x.isZero then .num false 0 1 false else x, 0)
  | 2 => (x.negate, 0)
  | 3 => Val.mul x (f32.read (scalar.toNat % 2 ^ 32))
  | _ => Val.div (.num false 1 1 false) x

/-- TRED over the elements of a row or column (R135, R263). -/
def tredElem (f : Fmt) (mode : RMode) (op : Nat) (xs : List Val) : Nat × Flags :=
  match op, xs with
  | _, [] => (0, 0)
  | 0, x :: rest =>
    let acc := rest.foldl (fun (acc : Val × Flags) y =>
      let su := Val.add mode acc.1 y
      let r := f.round mode 0 su.1
      (f.read r.1, acc.2 ||| su.2 ||| r.2)) (x, 0)
    let r := f.round mode 0 acc.1
    (r.1, acc.2 ||| r.2)
  | op, x :: rest => f.round mode 0 (rest.foldl (minMax (decide (op = 1))) x)

/-- A coefficient of TVIEW's map (R262); code 2 is refused at issue. -/
def viewCoef (c : Nat) : Int :=
  match c % 4 with
  | 1 => 1 | 3 => -1 | _ => 0

/-- A signed byte. -/
def signedByte (x : Nat) : Int := if x % 256 < 128 then (x % 256 : Nat) else (x % 256 : Nat) - 256

/-- The source element of an output element under TVIEW's map (R262). -/
def viewImage (map : Word) (i j : Int) : Int × Int :=
  let m := map.toNat
  (viewCoef m * i + viewCoef (m / 4) * j + signedByte (m / 2 ^ 8),
   viewCoef (m / 16) * i + viewCoef (m / 64) * j + signedByte (m / 2 ^ 16))

/-- The address of element (i, j) of a memory layout (R255); the second part is whether a q4 element lies in the upper
nibble. -/
def tileAddr (base : Addr) (stride : Int) (b i j : Nat) : Addr × Bool :=
  (base + BitVec.ofInt 72 ((i : Int) * stride + (j * b / 8 : Nat)), decide (b = 4 ∧ j % 2 = 1))

/-- A fault met by a force (R252): cause, subcode, address, whether the service answers it, and the node it was met at. -/
structure TileFault where
  cause : Nat
  sub   : Nat
  addr  : Addr
  node  : Nat
  pc    : Word
deriving DecidableEq, Repr

/-- What a TLD reads an element with: the address and the number of bytes. An error is a cause and a subcode; cause 0 is no fault but a
wait, for the host translation (subcode 0) or for a Wharf whose hash is about to change (subcode 1). -/
abbrev TileRead := Addr → Nat → Except (Nat × Nat) Nat

/-- An element of a version that has been read or computed. -/
def Version.present (v : Version) (r c : Nat) : Option Nat := (Assoc.find? r v.data).bind (Assoc.find? c)

/-- The value of one element of a node's version. An element that a watch force has read keeps its value (R214, R257). -/
def nodeElem (t : TileState) (rd : TileRead) (v : Version) (n : Node) (i j : Nat) :
    Except TileFault (Nat × Flags) :=
  let src (k : Nat) : Version := t.ver (n.srcs.getD k 0)
  let rounded (x : Val × Flags) : Nat × Flags :=
    let r := (fmtOf v.ty).round n.mode 0 x.1
    (r.1, x.2 ||| r.2)
  match n.op with
  | .tzero => .ok (0, 0)
  | .tmma => .ok (tmmaElem (src 0) (src 1) (src 2) i j)
  | .tqmma g => .ok (tqmmaElem (src 0) (src 1) (src 2) (src 3) (src 4) g i j)
  | .tmmas => .ok (tmmasElem (src 0) (src 1) (src 2) (src 3) i j)
  | .tew op => .ok (rounded (tewVal op n.mode (tileVal (src 0) i j) (tileVal (src 1) i j)))
  | .tact op => .ok (rounded (tactVal op n.scalar (tileVal (src 0) i j)))
  | .tred op false => .ok (tredElem (fmtOf v.ty) n.mode op ((List.range (src 0).cols).map (tileVal (src 0) i)))
  | .tred op true => .ok (tredElem (fmtOf v.ty) n.mode op ((List.range (src 0).rows).map (fun r => tileVal (src 0) r j)))
  | .tview =>
    let p := viewImage n.scalar i j
    .ok ((src 0).get p.1.toNat p.2.toNat, 0)
  | .tld =>
    let b := tileBits v.ty
    let a := tileAddr n.addr n.stride b i j
    match v.present i j with
    | some x => .ok (x, 0)
    | none =>
      match rd a.1 (max 1 (b / 8)) with
      | .error e => .error ⟨e.1, e.2, a.1, n.num, n.pc⟩
      | .ok x => .ok (if b = 4 then (if a.2 then x / 16 else x % 16) else x, 0)

/-- The columns of a unit within a shape, ascending. -/
def unitCols (u cols : Nat) : List Nat := ((List.range 16).map (fun c => 16 * (u % 8) + c)).filter (fun c => decide (c < cols))

/-- The memory that the reads of a TLD's unit still touch, element by element. -/
def unitReads (n : Node) (v : Version) (u : Nat) : List (Addr × Nat) :=
  if n.op = .tld then
    ((unitCols u v.cols).filter (fun c => (v.present (u / 8) c).isNone)).map
      (fun c => ((tileAddr n.addr n.stride (tileBits v.ty) (u / 8) c).1, max 1 (tileBits v.ty / 8)))
  else []

/-- Computes one unit: its elements in ascending column. -/
def computeUnit (t : TileState) (rd : TileRead) (n : Node) (u : Nat) (v : Version) :
    Except TileFault (Version × Flags) :=
  (unitCols u v.cols).foldlM (fun (acc : Version × Flags) c =>
    match nodeElem t rd v n (u / 8) c with
    | .error e => .error e
    | .ok x => .ok (acc.1.put (u / 8) c x.1, acc.2 ||| x.2)) (v, 0)

/-! ### Demand (R249) -/

/-- The units of the k-th source that a need of a node pulls; `cols` are the columns of the node's version. The images of a unit under
TVIEW's map lie between those of its first and its last element. -/
def pull (t : TileState) (n : Node) (cols need : Nat) (k : Nat) : Nat :=
  let s : Shape := (t.ver (n.srcs.getD k 0)).shape
  let rows := unitSet (fun r b => hasRow need r && decide (r < s.rows ∧ 16 * b < s.cols))
  let blocks := unitSet (fun r b => hasBlock need b && decide (r < s.rows ∧ 16 * b < s.cols))
  match n.op with
  | .tmma | .tqmma _ | .tmmas =>
    match k with
    | 0 => need
    | 1 => rows
    | 2 => blocks
    | 3 => rows
    | _ => blocks
  | .tew _ | .tact _ => need
  | .tred _ false => rows
  | .tred _ true => blocks
  | .tview =>
    let imgs := (unitsOf need).flatMap (fun u =>
      [viewImage n.scalar (u / 8 : Nat) (16 * (u % 8) : Nat), viewImage n.scalar (u / 8 : Nat) (min (16 * (u % 8) + 15) (cols - 1) : Nat)])
    let i0 := (imgs.map (·.1)).foldl min 1000
    let i1 := (imgs.map (·.1)).foldl max (-1000)
    let j0 := (imgs.map (·.2)).foldl min 1000
    let j1 := (imgs.map (·.2)).foldl max (-1000)
    s.rect i0.toNat (i1 - (i0.toNat : Int) + 1).toNat j0.toNat (j1 - (j0.toNat : Int) + 1).toNat
  | .tld | .tzero => 0

/-- The result of a force: the state, and the fault that stopped it. -/
abbrev Forced := TileState × Option TileFault

/-- MCHK_UE, the cause of a read that met an uncorrectable word. -/
def ueCause : Nat := 0x29

/-- The reads of a TLD's unit that were made before a fault, and the faulting one where it met an uncorrectable word (R222). -/
def readsUpTo (n : Node) (v : Version) (u : Nat) (e : TileFault) : List (Addr × Nat) :=
  let l := unitReads n v u
  l.takeWhile (fun x => decide (x.1 ≠ e.addr))
    ++ (if e.cause = ueCause then (l.filter (fun x => decide (x.1 = e.addr))).take 1 else [])

/-- Computes the units of a need one after another; what is computed stays computed (R250, R252). -/
def computeUnits (rd : TileRead) (id : Nat) : List Nat → TileState → Forced
  | [], t => (t, none)
  | u :: us, t =>
    let v := t.ver id
    match v.node with
    | none => (t, none)
    | some n =>
      match computeUnit t rd n u v with
      | .error e => ({ t with reads := t.reads ++ readsUpTo n v u e }, some e)
      | .ok r =>
        computeUnits rd id us { t with
          versions := Assoc.set id { r.1 with computed := r.1.computed ||| 2 ^ u } t.versions
          blocks := t.blocks + 1
          tflags := t.tflags ||| r.2
          reads := t.reads ++ unitReads n v u }

/-- Retires the node of a version when every unit of its shape is computed (R246). -/
def TileState.retire (t : TileState) (id : Nat) : TileState :=
  let v := t.ver id
  match v.node with
  | none => t
  | some _ =>
    if v.shape.units &&& v.computed = v.shape.units then
      ({ t with versions := Assoc.set id { v with node := none } t.versions }).collect
    else t

/-- Force (R249). Sources are older than the node that reads them, so `fuel` of 193 reaches every source. -/
def force (rd : TileRead) : Nat → Nat → Nat → TileState → Forced
  | 0, _, _, t => (t, none)
  | fuel + 1, id, d, t =>
    let v := t.ver id
    match v.node with
    | none => (t, none)
    | some n =>
      let need := (unitsOf d).filter (fun u => !v.computed.testBit u && v.shape.units.testBit u)
      if need = [] then (t, none)
      else
        let needSet := need.foldl (fun a u => a + 2 ^ u) 0
        let t1 := (List.range n.srcs.length).foldl (fun (acc : Forced) k =>
          match acc.2 with
          | some _ => acc
          | none => force rd fuel (n.srcs.getD k 0) (pull t n v.cols needSet k) acc.1) (t, none)
        match t1.2 with
        | some e => (t1.1, some e)
        | none =>
          let t2 := computeUnits rd id need t1.1
          match t2.2 with
          | some e => (t2.1, some e)
          | none => (t2.1.retire id, none)

/-- A force of some units of a version. -/
def TileState.force (t : TileState) (rd : TileRead) (id d : Nat) : Forced := Machine.force rd 193 id d t

/-- A force of a whole version. -/
def TileState.forceAll (t : TileState) (rd : TileRead) (id : Nat) : Forced := t.force rd id (t.ver id).shape.units

/-- Counts a force once it has ended, computed or stopped by a fault; one that has to wait, which is no fault (R166, R221), is made again
and counted then (R254, R256, log entry 104). -/
def Forced.counted (f : Forced) (count : TileState → TileState) : Forced :=
  match f.2 with
  | none => (count f.1, none)
  | some e => (if e.cause = 0 then f.1 else count f.1, some e)

/-- OVFORCE advances. -/
def TileState.countOverflow (t : TileState) : TileState := { t with ovforce := t.ovforce + 1 }
/-- WFORCE advances. -/
def TileState.countWatch (t : TileState) : TileState := { t with wforce := t.wforce + 1 }

/-! ### Capacity (R253, R254) -/

/-- Makes room for a node and `segs` segments under FORCE_OLDEST: forces the oldest live node until both are there. -/
def TileState.makeRoom (rd : TileRead) (nodes segs : Nat) : Nat → TileState → Forced
  | 0, t => (t, none)
  | k + 1, t =>
    if t.nodes.length + nodes ≤ 192 ∧ t.segs + segs ≤ 192 then (t, none)
    else
      match TileState.oldest t.nodes with
      | none => (t, none)
      | some p =>
        let f := (t.forceAll rd p.1).counted TileState.countOverflow
        match f.2 with
        | some e => (f.1, some e)
        | none => TileState.makeRoom rd nodes segs k f.1

/-! ### Watch ranges (R256) -/

/-- An address in each 64-byte granule that holds a byte of a row of `n` bytes. -/
def rowGranules (a : Addr) (n : Nat) : List Addr :=
  (List.range ((a.toNat + n - 1) / 64 - a.toNat / 64 + 1)).map (fun k =>
    if k = 0 then a else BitVec.ofNat 72 ((a.toNat / 64 + k) * 64))

/-- Whether a write touches a TLD's range, over the whole shape; `hit` says it of the granule of an address. -/
def Node.watches (n : Node) (s : Shape) (hit : Addr → Bool) : Bool :=
  (List.range s.rows).any (fun i =>
    (rowGranules (tileAddr n.addr n.stride (tileBits s.ty) i 0).1 ((s.cols * tileBits s.ty + 7) / 8)).any hit)

/-- The TLDs whose range a write touches. -/
def TileState.touched (t : TileState) (hit : Addr → Bool) : List (Nat × Node) :=
  t.watched.filter (fun p => p.2.watches (t.ver p.1).shape hit)

/-- Forces the unread elements of every TLD whose range a write touches, for an instruction that a fault stops: a fault leaves the
rest of that TLD unread and the first is returned with the state; the others are forced all the same, in the order of the versions
(R256, R257, DESIGN CHOICE, log entry 104), unless the force has to wait. -/
def TileState.watchForce (t : TileState) (rd : TileRead) (hit : Addr → Bool) : Forced :=
  (t.touched hit).foldl
    (fun (acc : Forced) p =>
      if acc.2.any (fun e => decide (e.cause = 0)) then acc
      else
        let f := (acc.1.forceAll rd p.1).counted TileState.countWatch
        (f.1, acc.2.orElse (fun _ => f.2))) (t, none)

/-- Reads the elements of a TLD's unit that have not been read; one that faults is left unread (R257). The second part is the address
of an element whose read has to wait, which is no fault (R166, R221), with what it waits for. -/
def readUnitQuiet (rd : TileRead) (id u : Nat) (x : TileState × Option (Addr × Nat)) : TileState × Option (Addr × Nat) :=
  let v := x.1.ver id
  match v.node with
  | none => x
  | some n =>
    let b := tileBits v.ty
    let r := ((unitCols u v.cols).filter (fun c => (v.present (u / 8) c).isNone)).foldl
      (fun (acc : Version × List (Addr × Nat) × Option (Addr × Nat)) c =>
        let a := tileAddr n.addr n.stride b (u / 8) c
        match rd a.1 (max 1 (b / 8)) with
        | .ok y => (acc.1.put (u / 8) c (if b = 4 then (if a.2 then y / 16 else y % 16) else y), acc.2.1 ++ [(a.1, max 1 (b / 8))], acc.2.2)
        | .error e => (acc.1, if e.1 = ueCause then acc.2.1 ++ [(a.1, max 1 (b / 8))] else acc.2.1, if e.1 = 0 then acc.2.2.orElse (fun _ => some (a.1, e.2)) else acc.2.2)) (v, [], x.2)
    let whole := (unitCols u v.cols).all (fun c => (r.1.present (u / 8) c).isSome)
    ({ x.1 with
        versions := Assoc.set id (if whole then { r.1 with computed := r.1.computed ||| 2 ^ u } else r.1) x.1.versions
        blocks := if whole then x.1.blocks + 1 else x.1.blocks
        reads := x.1.reads ++ r.2.1 }, r.2.2)

/-- The watch forces of a write that goes ahead past a fault (R257): every unread element but those that fault is read. -/
def TileState.watchQuiet (t : TileState) (rd : TileRead) (hit : Addr → Bool) : TileState × Option (Addr × Nat) :=
  (t.touched hit).foldl (fun (acc : TileState × Option (Addr × Nat)) p =>
    let v := acc.1.ver p.1
    let r := ((unitsOf v.shape.units).filter (fun u => !v.computed.testBit u)).foldl (fun x u => readUnitQuiet rd p.1 u x)
      (acc.1.countWatch, acc.2)
    (r.1.retire p.1, r.2)) (t, none)

/-- Performs every element read of every TLD (R215). -/
def TileState.readAll (t : TileState) (rd : TileRead) : Forced :=
  t.watched.foldl (fun (acc : Forced) p =>
    match acc.2 with
    | some _ => acc
    | none => (acc.1.forceAll rd p.1).counted TileState.countWatch) (t, none)

/-- Writes accepted TFEED transfers into their versions in the order of acceptance, up to the last selected one (R265, R332). -/
def TileState.writeFeeds (t : TileState) (sel : Feed → Bool) : TileState :=
  let n := (t.feeds.zipIdx.filter (fun x => sel x.1)).foldl (fun m x => max m (x.2 + 1)) 0
  { t with
    versions := (t.feeds.take n).foldl (fun vs f =>
      let v := Assoc.get Version.none f.version vs
      let v' := (f.vals.zipIdx).foldl (fun v p => v.put f.row p.2 p.1) v
      if (Assoc.find? f.version vs).isSome then Assoc.set f.version v' vs else vs) t.versions
    feeds := t.feeds.drop n }

end Sys2Proof.Machine
end

