-- ==== Sys2Proof/Machine/Access.lean ====
section
/-! DEFINITION. The checks of an access (R169, R171), watchpoints (R350), reads, stores, the store queues and the
write-combining buffer (R81-R85, R178, R205-R208), and the watch ranges of the tile engine as an access meets them. -/

namespace Sys2Proof.Machine

/-! ### Watchpoints (R350) -/

/-- The BMASK bits of a watchpoint that an access of `n` bytes hits. -/
def watchBits (wpa wpm : Word) (a : Addr) (n : Nat) : Nat :=
  (List.range n).foldl (fun acc j =>
    let b := a + BitVec.ofNat 72 j
    let bit := (offOf b).toNat % 16
    if winOf b = wpm.toNat / 2 ^ 24 % 256 ∧ (offOf b).toNat / 16 = wpa.toNat / 16 ∧ wpm.toNat.testBit bit
    then acc ||| 2 ^ bit else acc) 0

/-- The lowest watchpoint of an agent that an access hits, with the bits hit; none at the instruction whose next match is
suppressed. -/
def State.watchHit (s : State) (is : Issue) (a : Addr) (n : Nat) (k : Acc) : Option (Nat × Nat) :=
  let t := (s.ag is.g).trap
  if t.wsup ∧ t.wsupc = is.pc then none
  else (List.range 4).findSome? (fun i =>
    let m := t.wpm.toList.getD i 0
    let bits := watchBits (t.wpa.toList.getD i 0) m a n
    if m.toNat.testBit 18 ∧ ((k.r ∧ m.toNat.testBit 16) ∨ (k.w ∧ m.toNat.testBit 17)) ∧ bits ≠ 0
    then some (i, bits) else none)

/-- The element index that a record gives for an access that is no element. -/
def noElem : Nat := 0xFFFFFFFF

/-- The trap of a memory cause at an address (R170); the replayable ones list the page itself (R340). -/
def memTrap (cause sub : Nat) (a : Addr) : TrapInfo :=
  { cause := cause, sub := sub, val := offOf a, win := winOf a
    detail := if cause = Cause.xlateMiss ∨ cause = Cause.priPending then 1 else 0 }

/-- The trap of a watch match (R350, R91). -/
def State.watchTrap (s : State) (is : Issue) (a : Addr) (h : Nat × Nat) (elem : Nat) : TrapInfo :=
  { cause := Cause.watch, val := offOf a, win := winOf a, detail := h.1 + h.2 * 2 ^ 16 + elem * 2 ^ 32
    suspends := (s.ctx (s.ag is.g).ctx).debugger }

/-! ### The check of one access -/

/-- What a check finds: a place, a trap, a host translation to be requested, or a Wharf whose hash is about to change. -/
inductive Chk where
  | ok (h : Hit)
  | bad (t : TrapInfo)
  | ats (va : Nat)
  | held
deriving DecidableEq, Repr

/-- Whether accesses to a place are held while a write of its Wharf's hash waits (R221). -/
def State.heldAt (s : State) (p : Place) : Bool := match p.space with | .wharf q => (s.qy q).whold | .fabric | .host => false

/-- Items 1 to 5 of R169 and the watchpoints for one aligned range. -/
def State.check (s : State) (is : Issue) (a : Addr) (n al : Nat) (k : Acc) (elem : Nat) : Chk :=
  if a.toNat % al ≠ 0 then .bad { cause := Cause.align, val := offOf a, win := winOf a }
  else match s.xlate (s.actor is.g) a k with
  | .error (.trap c sub) => .bad (memTrap c sub a)
  | .error .ats => .ats (offOf a).toNat
  | .ok h =>
    match s.watchHit is a n k with
    | some w => .bad (s.watchTrap is a w elem)
    | none => if s.heldAt h.place then .held else .ok h

/-- The check of a scalar access. -/
def access (is : Issue) (a : Addr) (n : Nat) (k : Acc) : M Hit := fun s =>
  match s.check is a n n k noElem with
  | .ok h => .ok (h, s.keep (s.actor is.g) h)
  | .bad t => .error (.trap t none)
  | .ats va => .error (.wait (.ats va) s)
  | .held => .error (.again s)

/-! ### The check of a vector access (R171) -/

/-- The page of an address in the page size of R171. No leaf tells a missing page of 1 GiB from missing pages of 64 KiB, so a miss in
window 0x00 counts pages of 64 KiB (log entry 72). -/
def pageOf (a : Addr) : Nat := if winOf a = 1 then (offOf a).toNat / 2 ^ 12 else (offOf a).toNat / 2 ^ 16

/-- The pages a replayable record lists after its first: those met in order whose delta fits, at most 15, and whether a
failing page is left out. -/
def bundle (first : Addr) (more : List Addr) : List Int × Bool :=
  more.foldl (fun acc a =>
    let d : Int := (pageOf a : Int) - (pageOf first : Int)
    if winOf a = winOf first then
      if d = 0 ∨ acc.1.contains d then acc
      else if -128 ≤ d ∧ d ≤ 127 ∧ acc.1.length < 15 then (acc.1 ++ [d], acc.2)
      else (acc.1, true)
    else (acc.1, true)) ([], false)

/-- DETAIL of a bundled record (R340). -/
def bundleDetail (ds : List Int) : Nat := leNat (BitVec.ofNat 8 (ds.length + 1) :: ds.map (fun d => BitVec.ofInt 8 d))

/-- The pages a replayable record lists. -/
def bundlePages (val detail win : Nat) : List Nat :=
  let sh := if win = 1 then 12 else 16
  let bs := leBytes 16 detail
  let n := (bs.headD 0).toNat
  let base : Int := (val / 2 ^ sh : Nat)
  (0 :: ((bs.drop 1).take (n - 1)).map (fun b => b.toInt)).map (fun d => (base + d).toNat)

/-- An element to be accessed: its index, its address and its width in bytes. -/
structure Elem where
  ix   : Nat
  addr : Addr
deriving DecidableEq, Repr

/-- What the check of a list of elements finds: the hits of all, or the first failure with the pages of the later ones. -/
def State.checkElems (s : State) (is : Issue) (n al : Nat) (k : Acc) : List Elem → Except Stop (List Hit)
  | [] => .ok []
  | e :: es =>
    match s.check is e.addr n al k e.ix with
    | .ats va => .error (.wait (.ats va) s)
    | .held => .error (.again s)
    | .bad t =>
      if t.cause = Cause.xlateMiss ∨ t.cause = Cause.priPending then
        let later := es.map (fun x => (x.addr, s.check is x.addr n al k x.ix))
        match later.findSome? (fun x => match x.2 with | .ats va => some va | _ => none) with
        | some va => if t.cause = Cause.priPending then .error (.wait (.ats va) s) else
            let b := bundle e.addr (later.filterMap (fun x => match x.2 with
              | .bad u => if u.cause = t.cause then some x.1 else none
              | _ => none))
            .error (.trap { t with detail := bundleDetail b.1, more := b.2 } none)
        | none =>
            let b := bundle e.addr (later.filterMap (fun x => match x.2 with
              | .bad u => if u.cause = t.cause then some x.1 else none
              | _ => none))
            .error (.trap { t with detail := bundleDetail b.1, more := b.2 } none)
      else .error (.trap t none)
    | .ok h =>
      match s.checkElems is n al k es with
      | .ok hs => .ok (h :: hs)
      | .error x => .error x

/-- The check of all elements of a vector access; the translations used are kept. -/
def accessElems (is : Issue) (n al : Nat) (k : Acc) (es : List Elem) : M (List Hit) := fun s =>
  match s.checkElems is n al k es with
  | .ok hs => .ok (hs, hs.foldl (fun s h => s.keep (s.actor is.g) h) s)
  | .error x => .error x

/-! ### Reads -/

/-- The first bad byte that an agent's read meets in memory; bytes its strip buffer holds are not read there (R82). -/
def State.badSeen (s : State) (g : Nat) (p : Place) (n : Nat) : Option (Bool × Place) :=
  let buf := (s.ag g).strip.buf
  (p.span n).findSome? (fun q =>
    if buf.any (fun b => decide (b.place = q)) then none
    else if s.uncorrectable q then some (true, q)
    else if s.poisoned q then some (false, q) else none)

/-- The read of an access that has passed its check (R180, R222). An uncorrectable word poisons its granule; wecc.UE, which the engine's
reads advance, does not count it (R224, DESIGN CHOICE, log entry 102). -/
def readHit (is : Issue) (a : Addr) (h : Hit) (n : Nat) : M Nat := fun s =>
  match s.badSeen is.g h.place n with
  | none => .ok (s.seenNat is.g h.place n, s.scrub h.place n)
  | some (true, q) => .error (.trap { cause := Cause.mchkUe, sub := 4, val := offOf a, win := winOf a } (some (s.setPoison q)))
  | some (false, _) => .error (.trap { cause := Cause.mchkPoison, val := offOf a, win := winOf a } none)

/-! ### The tile engine's reads and watch ranges (R214, R255-R257) -/

/-- An agent of a Quay's context: the Pilot, or the lowest hart while the Pilot has no slot. -/
def State.quayAgent (s : State) (q : Nat) : Nat :=
  ((8 :: List.range 8).map (fun k => q * 16 + k)).find? (fun g => decide ((s.ag g).status ≠ .absent)) |>.getD (q * 16 + 8)

/-- The tile engine as the maker of an access; a host page that what forces has seen fail, fails: `fail` of an engine's write, or the mark
of the agent that executes. -/
def State.tileActor (s : State) (q : Nat) (fail : Option (Nat × Nat) := none) : Actor :=
  { s.actor (s.quayAgent q) with
    fail := fail.orElse (fun _ => if quayOf s.cur = q then (s.ag s.cur).marks.atsFail else none) }

/-- What a TLD reads an element with: checked as a load of the Quay's context, never from a strip buffer. -/
def State.tileRead (s : State) (q : Nat) (fail : Option (Nat × Nat) := none) : TileRead := fun a n =>
  match s.xlate (s.tileActor q fail) a Acc.vload with
  | .error (.trap c sub) => .error (c, sub)
  | .error .ats => .error (0, 0)
  | .ok h =>
    if s.heldAt h.place then .error (0, 1) else
    match s.badRead h.place n with
    | some (true, _) => .error (Cause.mchkUe, 4)
    | some (false, _) => .error (Cause.mchkPoison, 0)
    | none => .ok (s.seenNat (q * 16 + 8) h.place n)

/-- A rectangle in the layout of TST's operand. -/
def rectCode (row0 rows col0 cols : Nat) : Nat := row0 + rows * 2 ^ 8 + col0 * 2 ^ 16 + cols * 2 ^ 24

/-- How a fault of a synchronous force ends the instruction that forced (R252). -/
def lateFault (s : State) (q : Nat) (e : TileFault) (rect : Option Nat) : Stop :=
  if e.cause = 0 then (if e.sub = 0 then .wait (.ats (offOf e.addr).toNat) s else .again s)
  else if e.cause = Cause.xlateMiss ∨ e.cause = Cause.priPending then .trap (memTrap e.cause e.sub e.addr) (some s)
  else
    let whole : Nat := match ((s.tile q).nodes.find? (fun p : Nat × Node => decide (p.2.num = e.node))) with
      | some p => rectCode 0 ((s.tile q).ver p.1).rows 0 ((s.tile q).ver p.1).cols
      | none => 0
    .trap { cause := Cause.lateFault, sub := e.cause, inner := e.sub, val := offOf e.addr, win := winOf e.addr
            pc2 := some e.pc, detail := e.node + (rect.getD whole) * 2 ^ 32 } (some s)

/-- What an engine's read of some bytes leaves in memory (R222): single-bit errors are corrected, an uncorrectable word poisons its
granule. -/
def State.noteRead (s : State) (p : Place) (n : Nat) : State :=
  match s.badRead p n with
  | some (true, q) => s.setPoison q
  | _ => s.scrub p n

/-- The tile state that a force has come to, with what its reads left in memory (R222, R255). -/
def State.putForced (s : State) (q : Nat) (t : TileState) : State :=
  let s' := s.setTile q { t with reads := [] }
  if s.ue.isEmpty && s.quays.all (fun y => y.2.ce.isEmpty && y.2.ue.isEmpty) then s' else
  t.reads.foldl (fun s x => match s.xlate (s.tileActor q) x.1 {} with
    | .ok h => s.noteRead h.place x.2
    | .error _ => s) s'

/-- Runs a force of the tile engine in an instruction's body. -/
def forceM (q : Nat) (rect : Option Nat) (f : TileRead → TileState → Forced) : M Unit := fun s =>
  let r := f (s.tileRead q) (s.tile q)
  let s' := s.putForced q r.1
  match r.2 with
  | none => .ok ((), s')
  | some e => .error (lateFault s' q e rect)

/-- Whether a write of some places touches the 64-byte granule of an address as the tile engine of a Quay reads it: granules are those of
memory, so every name of a page counts (R256). -/
def State.touches (s : State) (q : Nat) (ps : List Place) (a : Addr) : Bool :=
  match s.xlate (s.tileActor q) a {} with
  | .ok h => ps.any (fun p => decide (p.space = h.place.space ∧ p.addr / 64 = h.place.addr / 64))
  | .error _ => false

/-- One place in each 64-byte granule that some places lie in. -/
def lineHeads (ps : List Place) : List Place := (ps.map (fun p => (⟨p.space, p.addr / 64 * 64⟩ : Place))).dedup

/-- What a write waits for: the host translation of an address (R166), or a Wharf whose hash is about to change (R221). -/
inductive Pending where
  | ats (va : Nat)
  | held
deriving DecidableEq, Repr

/-- The stop of an instruction that waits so. -/
def Pending.stop (s : State) : Pending → Stop
  | .ats va => .wait (.ats va) s
  | .held => .again s

/-- The watch forces before a write by this Quay that goes ahead past a fault (R256, R257), and what the write has to wait for before the
reads can be made; `fail` is a host page that the writer has seen fail. -/
def State.watchQuiet (s : State) (q : Nat) (ps : List Place) (fail : Option (Nat × Nat) := none) : State × Option Pending :=
  if (s.tile q).watched = [] then (s, none)
  else
    let r := (s.tile q).watchQuiet (s.tileRead q fail) (s.touches q (lineHeads ps))
    (s.putForced q r.1, r.2.map (fun a => if a.2 = 0 then .ats (offOf a.1).toNat else .held))

/-- The watch forces before an agent's write: a Pilot's instruction is stopped by a fault, a hart's is not. -/
def watchM (is : Issue) (ps : List Place) : M Unit :=
  if isPilot is.g then
    (fun s => if (s.tile (quayOf is.g)).watched = [] then .ok ((), s)
      else forceM (quayOf is.g) none (fun rd t => t.watchForce rd (s.touches (quayOf is.g) (lineHeads ps))) s)
  else fun s => match s.watchQuiet (quayOf is.g) ps with
    | (s', none) => .ok ((), s')
    | (_, some w) => .error (w.stop s)

/-! ### Performing stores -/

/-- The port of an agent's host accesses: that of the function of its context (R383). -/
def State.portOfAgent (s : State) (g : Nat) : Nat := portOf (s.ctx (s.ag g).ctx).func

/-- Sends a write-combining line to host memory (R178); a line of non-temporal stores carries Relaxed Ordering. -/
def State.drainLine (s : State) (g : Nat) (l : WcLine) : State :=
  let s := s.setBytes (l.bytes.map (fun b => (⟨.host, b.1⟩, b.2)))
  let port := s.portOfAgent g
  let s := if l.nt then s.modLink (fun k => { k with relaxed := k.relaxed ||| BitVec.ofNat 2 (2 ^ port) }) else s
  s.modAg g (fun a => { a with mem := { a.mem with wc := a.mem.wc.filter (fun x => x.line ≠ l.line) } })

/-- Drains every line. -/
def State.drainWc (s : State) (g : Nat) : State := (s.ag g).mem.wc.foldl (fun s l => s.drainLine g l) s

/-- Enters the bytes that one piece has in a host line into the write-combining buffer; a line that is full is sent (R178, R198). -/
def State.enterWc (s : State) (g op : Nat) (nt : Bool) (ln : Nat) (bs : List (Nat × Byte)) : State :=
  let s := match (s.ag g).mem.wc.find? (fun l => decide (l.line = ln)) with
    | some l => if l.nt = nt then s else s.drainLine g l
    | none => s
  let old := ((s.ag g).mem.wc.find? (fun l => decide (l.line = ln))).getD ⟨op, ln, nt, []⟩
  let l : WcLine := { old with bytes := bs.foldl (fun m b => Assoc.set b.1 b.2 m) old.bytes }
  let s := s.modAg g (fun a => { a with mem := { a.mem with
    wc := if a.mem.wc.any (fun x => x.line = ln) then a.mem.wc.map (fun x => if x.line = ln then l else x) else l :: a.mem.wc } })
  if l.bytes.length = 64 then s.drainLine g l else s

/-- Writes bytes to memory; one write of a whole granule clears its poison, of a whole word its error (R180, R222). -/
def State.writeBytes (s : State) (bs : List (Place × Byte)) : State :=
  let s := s.setBytes bs
  match bs with
  | [] => s
  | x :: _ =>
    let whole := (List.range 64).all (fun k => bs.any (fun y => decide (y.1 = ⟨x.1.space, x.1.addr / 64 * 64 + k⟩)))
    let s := if whole then s.clearPoison x.1 else s
    (bs.filter (fun y => y.1.addr % 8 = 0 ∧ (List.range 8).all (fun k => bs.any (fun z => decide (z.1 = y.1.plus k))))).foldl
      (fun s y => s.clearUe y.1) s

/-- Leaves a granule that one store has written wholly without poison and without an erroneous word (R180). -/
def State.wipe (s : State) (p : Place) : State :=
  (List.range 8).foldl (fun s k => s.clearUe ⟨p.space, p.addr / 64 * 64 + 8 * k⟩) (s.clearPoison p)

/-- Whether a piece completes the store of a whole granule that it is a part of, when some pieces are left to be performed. -/
def Piece.completes (p : Piece) (left : List Piece) : Bool :=
  let granule (x : Piece) : Option Place := x.bytes.head?.map (fun b => ⟨b.1.space, b.1.addr / 64⟩)
  p.wipes && !left.any (fun x => x.wipes && decide (x.op = p.op ∧ granule x = granule p))

/-- The kind and the slot by which a home comparator records an agent (R388). -/
def writerOf (g : Nat) : Nat × Nat := if isPilot g then (0, 0) else (1, slotOf g)

/-- Performs one piece; `left` are those of its agent that are left. What it writes to another module's memory is sent there (R380). -/
def State.performPiece (s : State) (g : Nat) (p : Piece) (left : List Piece) : State :=
  let s := (s.writeBytes (p.bytes.filter (fun x => x.1.space ≠ .host))).tellHomes (writerOf g).1 (writerOf g).2 (quayOf g) p.bytes
  let s := match p.bytes with
    | x :: _ => if p.completes left then s.wipe x.1 else s
    | [] => s
  let host := (p.bytes.filter (fun x => x.1.space = .host)).map (fun x => (x.1.addr, x.2))
  ((host.map (fun x => x.1 / 64)).dedup).foldl (fun s ln => s.enterWc g p.op p.nt ln (host.filter (fun x => x.1 / 64 = ln))) s

/-- Performs some pieces in order; `left` are those of their agent that stay in its queues. -/
def State.performPieces (s : State) (g : Nat) (left : List Piece) : List Piece → State
  | [] => s
  | p :: ps => (s.performPiece g p (ps ++ left)).performPieces g left ps

/-- Performs every piece of an agent's queues, in order. -/
def State.drainQueue (s : State) (g : Nat) : State :=
  let q := (s.ag g).mem.queue
  let s := s.performPieces g [] q
  s.modAg g (fun a => { a with mem := { a.mem with queue := [] } })

/-- Whether two pieces write a byte in common. -/
def Piece.overlaps (p q : Piece) : Bool := p.bytes.any (fun x => q.bytes.any (fun y => decide (x.1 = y.1)))

/-- Whether piece `i` may be performed next: no earlier one shares its slice or a byte (R199, R204 cell L). -/
def mayPerform (queue : List Piece) (i : Nat) : Bool :=
  match queue[i]? with
  | none => false
  | some p => (queue.take i).all (fun q => !(q.overlaps p) && !(p.slice.isSome && decide (q.slice = p.slice)))

/-- Performs the pieces up to the last that writes one of the bytes, so that an atomic follows them (R199). -/
def State.drainFor (s : State) (g : Nat) (ps : List Place) : State :=
  let q := (s.ag g).mem.queue
  let hit (p : Piece) : Bool := p.bytes.any (fun x => ps.contains x.1)
  let n := (q.zipIdx.filter (fun x => hit x.1)).foldl (fun m x => max m (x.2 + 1)) 0
  let s := s.performPieces g (q.drop n) (q.take n)
  let s := s.modAg g (fun a => { a with mem := { a.mem with queue := q.drop n } })
  ((s.ag g).mem.wc.filter (fun l => ps.any (fun p => decide (p.space = .host ∧ p.addr / 64 = l.line)))).foldl
    (fun s l => s.drainLine g l) s

/-! ### Stores -/

/-- Whether a hart's stores are buffered: a strip is open and not suspended (R81, R91). -/
def Agent.inStrip (a : Agent) : Bool := a.strip.isOpen && !a.strip.susp

/-- The granules of a strip buffer. -/
def granules (b : List BufByte) : List Nat := (b.map (fun x => x.va / 8)).dedup

/-- Adds bytes to a strip buffer; a later store to a byte replaces the earlier one and gives it its slice and kind (R81, R83); that a
store has written its granule whole stays noted. -/
def bufAdd (buf : List BufByte) (new : List BufByte) : List BufByte :=
  new.foldl (fun b x =>
    b.filter (fun y => y.place ≠ x.place) ++ [{ x with whole := x.whole || b.any (fun y => decide (y.place = x.place) && y.whole) }]) buf

/-- The bytes of a store as the buffer holds them. -/
def bufBytes (a : Addr) (h : Hit) (bs : List Byte) (slice : Option Nat) (nt : Bool) : List BufByte :=
  bs.zipIdx.map (fun x => { va := (a + BitVec.ofNat 72 x.2).toNat, place := h.place.plus x.2, byte := x.1, slice := slice, nt := nt })

/-- Puts pieces of one store operation into an agent's queues. -/
def State.enqueue (s : State) (g : Nat) (slice : Option Nat) (nt : Bool) (units : List (List (Place × Byte))) : State :=
  s.modAg g (fun a => { a with mem := { a.mem with
    queue := a.mem.queue ++ (units.filter (· ≠ [])).map (fun u => ⟨a.mem.nextOp, slice, nt, u, false⟩)
    nextOp := a.mem.nextOp + 1 } })

/-- The bytes at a place. -/
def placeBytes (p : Place) (bs : List Byte) : List (Place × Byte) := bs.zipIdx.map (fun x => (p.plus x.2, x.1))

/-- A store to a page of MTYPE device: performed at its home before the next access begins (R163, R210), on a register of a function
page or in ordinary memory. -/
def State.deviceStore (s : State) (g : Nat) (p : Place) (bs : List Byte) : State :=
  let s := s.drainFor g (p.span bs.length)
  match p.space, devAt p.addr with
  | .fabric, some fo => s.devStore fo.1 fo.2 bs
  | _, _ => s.writeBytes (placeBytes p bs)

/-- A scalar store that has passed its check (R57, R81), in single-copy units (R198). -/
def storeUnits (is : Issue) (a : Addr) (h : Hit) (units : List (Nat × List Byte)) : M Unit := fun s =>
  if h.mtype = 2 then
    match watchM is (units.map (fun u => h.place.plus u.1)) s with
    | .error e => .error e
    | .ok r => .ok ((), units.foldl (fun s u => s.deviceStore is.g (h.place.plus u.1) u.2) r.2)
  else if (s.ag is.g).inStrip then
    .ok ((), s.modAg is.g (fun x => x.modStrip (fun st => { st with
      buf := bufAdd st.buf (units.flatMap (fun u => bufBytes (a + BitVec.ofNat 72 u.1)
        { h with place := h.place.plus u.1 } u.2 none false)) })))
  else
    match watchM is (units.map (fun u => h.place.plus u.1)) s with
    | .error e => .error e
    | .ok r => .ok ((), r.2.enqueue is.g none false (units.map (fun u => placeBytes (h.place.plus u.1) u.2)))

/-! ### Commits (R83) -/

/-- What keeps the bytes of a commit together: the 8-byte granule, its slice and kind (R83), or the 64-byte granule that one store has
written wholly, as far as no element has been stored over it (R180, R182). -/
def BufByte.unit (b : BufByte) : Nat × Nat × Option Nat × Bool :=
  if b.whole && b.slice.isNone then (64, b.va / 64, none, b.nt) else (8, b.va / 8, b.slice, b.nt)

/-- Adds a buffered byte to the pieces of its unit. -/
def addPiece (b : BufByte) : List ((Nat × Nat × Option Nat × Bool) × Piece) → List ((Nat × Nat × Option Nat × Bool) × Piece)
  | [] => [(b.unit, ⟨0, b.slice, b.nt, [(b.place, b.byte)], b.whole⟩)]
  | p :: t =>
    if p.1 = b.unit then (p.1, { p.2 with bytes := p.2.bytes ++ [(b.place, b.byte)], wipes := p.2.wipes || b.whole }) :: t
    else p :: addPiece b t

/-- The pieces of a strip store buffer, all of one store operation (R83, R238). -/
def bufPieces (op : Nat) (buf : List BufByte) : List Piece :=
  (buf.foldl (fun acc b => addPiece b acc) []).map (fun p => { p.2 with op := op })

/-- Commits the strip store buffer (R83): its pieces join the queue. -/
def State.commit (s : State) (g : Nat) : State :=
  let buf := (s.ag g).strip.buf
  if buf = [] then s else
  let s := (s.watchQuiet (quayOf g) (buf.map (·.place))).1
  s.modAg g (fun a => { a with
    strip := { a.strip with buf := [] }
    mem := { a.mem with
      queue := a.mem.queue ++ bufPieces a.mem.nextOp buf
      nextOp := a.mem.nextOp + 1 } })

/-- What a commit has to wait for first: a Wharf that it writes and whose hash is about to change (R221), or what the watch forces before
it need (R166, R256). -/
def State.commitWait (s : State) (g : Nat) : Option Pending :=
  let buf := (s.ag g).strip.buf
  if buf = [] then none
  else if buf.any (fun b => s.heldAt b.place) then some .held
  else (s.watchQuiet (quayOf g) (buf.map (·.place))).2

/-- Waits for what the commit that an instruction is about to make needs. -/
def commitM (is : Issue) : M Unit := fun s =>
  match s.commitWait is.g with
  | none => .ok ((), s)
  | some w => .error (w.stop s)

/-! ### Releases (R202, R208, R215, R217, R265) -/

/-- The Pilot's release performs every element read of every TLD (R215); the transfers of a hart are written (R265). -/
def releaseTiles (is : Issue) : M Unit :=
  if isPilot is.g then
    (fun s => if (s.tile (quayOf is.g)).watched = [] then .ok ((), s)
      else forceM (quayOf is.g) none (fun rd t => t.readAll rd) s)
  else fun s =>
    .ok ((), if (s.tile (quayOf is.g)).feeds = [] then s
      else s.setTile (quayOf is.g) ((s.tile (quayOf is.g)).writeFeeds (fun f => decide (f.agent = is.g))))

/-- Steps 1 to 3 of R208 for an agent: its lines are sent, then each port that has carried a relaxed write is read. -/
def State.systemDrain (s : State) (g : Nat) : State := (s.drainWc g).modLink (fun l => { l with relaxed := 0 })

/-- A release at a scope: every earlier store of the agent is performed; the stores it has observed are performed already. -/
def State.releaseStores (s : State) (g : Nat) (sc : Scope) : State :=
  let s := s.drainQueue g
  if sc = .system then s.systemDrain g else s

/-- A release by an instruction. At hart scope nothing outside the agent is concerned, but a Pilot's tile reads are (R215). -/
def releaseM (is : Issue) (sc : Scope) : M Unit := do
  if isPilot is.g ∨ sc ≠ .hart then releaseTiles is
  if sc ≠ .hart then modify (fun s => s.releaseStores is.g sc)

/-! ### The memory ring (R353) -/

/-- Appends a memory record. -/
def State.memRecord (s : State) (g : Nat) (a : Addr) (kind size count : Nat) : State :=
  s.modAg g (fun x => { x with trace := { x.trace with
    memory := Assoc.set (x.trace.mhead % 64) ⟨offOf a, BitVec.ofNat 64 (winOf a + (kind + size * 16) * 2 ^ 8
      + count % 2 ^ 16 * 2 ^ 16 + (s.cycleOf g).toNat % 2 ^ 32 * 2 ^ 32)⟩ x.trace.memory
    mhead := (x.trace.mhead + 1) % 64 } })

/-- Appends a branch record: source, target and kind. -/
def Agent.branchRecord (x : Agent) (src dst : Word) (kind : Nat) : Agent :=
  { x with trace := { x.trace with
    branch := Assoc.set (x.trace.bhead % 64) ⟨src, BitVec.ofNat 64 (dst.toNat / 4 * 4 + kind)⟩ x.trace.branch
    bhead := (x.trace.bhead + 1) % 64 } }

end Sys2Proof.Machine
end

