-- ==== Sys2Proof/Machine/Strip.lean ====
section
/-! DEFINITION. Leases as the registers show them, checkpoints, cuts, strip ends, restarts and aborts (R69-R95). -/

namespace Sys2Proof.Machine

/-! ### Lanes and lengths (R69, R72-R75) -/

/-- The number of set bits. -/
def popCount (n w : Nat) : Nat := ((List.range w).filter (fun k => n.testBit k)).length

/-- vlen: 256 bits for each live lane (R69, R75). -/
def Strip.vlen (st : Strip) : Nat := 256 * popCount st.live.toNat 32

/-- The type, grouping and block of a vtype (R73). -/
def vtType (t : Nat) : Nat := t % 16
/-- The registers of a group: 1, 2 or 4. -/
def vtGroup (t : Nat) : Nat := 2 ^ (t / 16 % 4)
/-- The block size of a q type. -/
def vtBlock (t : Nat) : Nat := 16 * 2 ^ (t / 64 % 4)

/-- Legality of a vtype operand (R73, R76). -/
def vtLegal (t : Nat) : Bool :=
  decide (t < 256 ∧ t / 16 % 4 ≠ 3) && (decide (t / 64 % 4 ≠ 0) == decide (14 ≤ vtType t))

/-- VLMAXof (R74); none is BLOCKFIT. -/
def Strip.vlmaxOf (st : Strip) (t : Nat) : Option Nat :=
  let n := st.vlen * vtGroup t / elemBits (vtType t)
  let cap := st.cap.toNat
  if 14 ≤ vtType t then
    let blk := vtBlock t
    let n := n / blk * blk
    if n = 0 then none else some (if cap ≠ 0 then min n (max blk (cap / blk * blk)) else n)
  else some (if cap ≠ 0 then min n cap else n)

/-- The element width in force. -/
def Strip.width (st : Strip) : Nat := elemBits (vtType st.vtype.toNat)

/-- Bits [8:0] of the vtype register: what an ILLTYPE trap reports (R74). -/
def Strip.vtypeReg (st : Strip) : Nat := st.vtype.toNat + (if st.shut then 256 else 0)

/-- Quads of a Quay that no hart holds and that keep a live lane (R70, R71). -/
def State.freeQuads (s : State) (q : Nat) : List Nat :=
  (List.range 8).filter (fun k =>
    !((List.range 8).any (fun h => (s.ag (q * 16 + h)).strip.quads.toNat.testBit k))
    && decide ((s.qy q).retired.toNat / 2 ^ (4 * k) % 16 ≠ 15))

/-- The live lanes of a set of quads (R69, R71). -/
def State.lanesOf (s : State) (q quads : Nat) : BitVec 32 :=
  BitVec.ofNat 32 ((List.range 32).foldl (fun acc l =>
    if quads.testBit (l / 4) ∧ ¬ (s.qy q).retired.toNat.testBit l then acc + 2 ^ l else acc) 0)

/-- Sets the quads a hart holds. -/
def State.setQuads (s : State) (g : Nat) (quads : Nat) : State :=
  let live := s.lanesOf (quayOf g) quads
  s.modAg g (fun a => a.modStrip (fun st => { st with quads := BitVec.ofNat 8 quads, live := live }))

/-! ### Checkpoints and cuts (R86-R88) -/

/-- The checkpoint of an agent as it stands, with a restart point and the map of a cut. -/
def Agent.checkpoint (a : Agent) (p : Word) (m : Option VMap) : Agent :=
  { a with strip := { a.strip with
      spc := p
      ckpt := { s := a.regs.s, a := a.regs.a, vl := a.strip.vl, pad := a.strip.pad, vtype := a.strip.vtype
                shut := a.strip.shut, srbase := a.fp.srbase, srstep := a.fp.srstep, segm := a.strip.segm
                spc := p, bhead := a.trace.bhead, map := m } } }

/-- A cut (R87): the buffer is committed, a checkpoint taken, the rename map snapshotted. -/
def State.cutAt (s : State) (g : Nat) (p : Word) (counted : Bool) (mark : CutMark) : State :=
  (s.commit g).modAg g (fun a =>
    let b := a.checkpoint p (some a.vec.map)
    { b with strip := { b.strip with
        noabort := false, mark := mark, cutcnt := b.strip.cutcnt + (if counted then 1 else 0) } })

/-- The cut before an instruction: one made after the instruction before it, or by an earlier attempt, serves (R88). -/
def State.cutBefore (s : State) (is : Issue) : State :=
  if (s.ag is.g).strip.mark = .after ∧ (s.ag is.g).strip.spc = is.pc then s else s.cutAt is.g is.pc true .after

/-- EndStrip (R77, R94). -/
def State.endStrip (s : State) (g : Nat) : State :=
  (s.commit g).modAg g (fun a => { a with
    fp := { a.fp with srbase := a.fp.srbase + a.strip.vl.setWidth 64 }
    strip := { a.strip with vl := 0, pad := 0, shut := true, isOpen := false, noabort := false, mark := .none } })

/-- Ends a strip if one is open. -/
def State.endOpen (s : State) (g : Nat) : State := if (s.ag g).strip.isOpen then s.endStrip g else s

/-! ### Restart and abort (R84, R90, R93, R94, R104) -/

/-- The number of no physical register: where a cancelled landing goes. -/
def nowhere : Nat := 96

/-- The physical registers that a map names. -/
def VMap.vregs (m : VMap) : List Nat := m.v.toList.map (·.val)

/-- Restores the checkpoint (R86): the buffer is discarded and the agent stands at the restart point. An ephemeral slice of the snapshot
whose hold had run out unread is rewritten with its value, not with the pattern (R104, DESIGN CHOICE, log entry 101). -/
def Agent.restart (a : Agent) : Agent :=
  let c := a.strip.ckpt
  { a with
    regs := { a.regs with s := c.s, a := c.a, pc := a.strip.spc, pfx := [] }
    strip := { a.strip with vl := c.vl, pad := c.pad, vtype := c.vtype, shut := c.shut, segm := c.segm
                            isOpen := !c.shut, susp := false, buf := [], mark := .none }
    fp := { a.fp with srbase := c.srbase, srstep := c.srstep }
    trace := { a.trace with bhead := c.bhead }
    marks := { a.marks with jumpWin := 0 }
    vec := match c.map with
      | some m => { a.vec with
          map := m
          expired := a.vec.expired.filter (fun x => !(m.vregs.contains x.1)) }
      | none => a.vec }

/-- Sends the landings of an agent to storage that nothing reads, but for those into some physical registers (R101). -/
def State.cancelLandings (s : State) (g : Nat) (keep : List Nat) : State :=
  s.modQy (quayOf g) (fun y => { y with berths := y.berths.map (fun b => { b with
    copies := b.copies.map (fun c => if c.agent = g then
      { c with phys := c.phys.map (fun p => if keep.contains p then p else nowhere) } else c) }) })

/-- Restarts an agent's strip; the landings issued since the restart point are cancelled (R101). -/
def State.restart (s : State) (g : Nat) : State :=
  (s.cancelLandings g (match (s.ag g).strip.ckpt.map with | some m => m.vregs | none => [])).modAg g Agent.restart

/-- An agent whose strip has been aborted: a halted one that goes on at tepc goes on at the restart point (R84, R356). -/
def Agent.aborted (b : Agent) : Agent :=
  { b with
    strip := { b.strip with abortcnt := b.strip.abortcnt + 1, noabort := true }
    trap := if b.status = .halted ∧ b.marks.byDebug = false then { b.trap with tepc := b.strip.spc } else b.trap }

/-- Aborts a strip (R84, R93, R94). -/
def State.abortStrip (s : State) (g : Nat) : State := (s.restart g).modAg g Agent.aborted

/-- Whether an agent's buffer holds a byte of a range of window 0x00, or of window 0x01. -/
def Agent.buffers (a : Agent) (win lo hi : Nat) : Bool :=
  a.strip.buf.any (fun b => decide (b.va / 2 ^ 64 = win ∧ lo ≤ b.va % 2 ^ 64 ∧ b.va % 2 ^ 64 < hi))

end Sys2Proof.Machine
end

