-- ==== Sys2Proof/Machine/Ops.lean ====
section
/-! DEFINITION. Taking a trap: the record, the dispositions, the entry of a handler, the return from one (R335-R344, R356);
interrupts (R339, R92); saving an agent that leaves its hart slot (R206, R317, R344); and the frame of every instruction: the
checks before its body (R33), the cuts (R87, R88), retirement. -/

namespace Sys2Proof.Machine

/-! ### The trap record (R340) -/

/-- FLAGS bits. -/
abbrev fPrecise : Nat := 1
/-- REPLAY. -/
abbrev fReplay : Nat := 2
/-- FATAL. -/
abbrev fFatal : Nat := 4
/-- INFO. -/
abbrev fInfo : Nat := 8
/-- MORE. -/
abbrev fMore : Nat := 16
/-- INSTRIP. -/
abbrev fInstrip : Nat := 32
/-- RESOLVED. -/
abbrev fResolved : Nat := 64
/-- NESTED. -/
abbrev fNested : Nat := 128
/-- DUMPLOST. -/
abbrev fDumplost : Nat := 256
/-- SLOTFAIL. -/
abbrev fSlotfail : Nat := 512

/-- The 64 bytes of a record. -/
def TrapRecord.bytes (r : TrapRecord) : List Byte :=
  leBytes 1 r.cause ++ leBytes 1 r.sub ++ leBytes 2 r.flags ++ leBytes 1 r.src ++ leBytes 1 r.srcix ++ leBytes 2 r.quay
  ++ leBytes 4 r.seq ++ leBytes 2 r.module ++ leBytes 1 r.inner ++ leBytes 1 r.win ++ leBytes 8 r.pc.toNat
  ++ leBytes 8 r.pc2.toNat ++ leBytes 8 r.value.toNat ++ leBytes 16 r.detail ++ leBytes 8 r.cycle.toNat

/-- The record of a trap of an agent; an open strip sets INSTRIP and gives the restart point (R340). -/
def State.recordOf (s : State) (a : Agent) (is : Issue) (t : TrapInfo) (flags : Nat) : TrapRecord :=
  { cause := t.cause, sub := t.sub
    flags := flags + (if t.more then fMore else 0) + (if a.inStrip then fInstrip else 0)
    src := if isPilot is.g then 0 else 1
    srcix := if isPilot is.g then 0 else slotOf is.g
    quay := quayOf is.g, seq := 0, module := s.modid, inner := t.inner, win := t.win
    pc := is.pc
    pc2 := match t.pc2 with | some p => p | none => if a.inStrip then a.strip.spc else 0
    value := t.val, detail := t.detail, cycle := s.cycleOf is.g }

/-- The record of a trap of an agent in its slot. -/
def State.record (s : State) (is : Issue) (t : TrapInfo) (flags : Nat) : TrapRecord := s.recordOf (s.ag is.g) is t flags

/-- Sends a record to the debugger of a context, if one is attached (R335, R355). -/
def State.sendDebugger (s : State) (c : Nat) (r : TrapRecord) : State :=
  if (s.ctx c).debugger then s.modCtx c (fun z => { z with records := z.records ++ [r] }) else s

/-- Raises DEBUG_HALT to the debugger of an agent's context (R355, R356): subcode 1 COMMAND, 2 HALTINSN, 3 STEP. -/
def State.sendHalt (s : State) (is : Issue) (sub : Nat) : State :=
  s.sendDebugger (s.ctxOf is.g) (s.record is { cause := Cause.debugHalt, sub := sub } fPrecise)

/-! ### The trap queue (R342, R343) -/

/-- Free slots of the ring. -/
def Part.slotsFree (p : Part) : Nat := 256 - (p.tqProd - p.tqCons)

/-- Whether two records come from one source. -/
def TrapRecord.sameSource (r q : TrapRecord) : Bool := decide (r.src = q.src ∧ r.srcix = q.srcix ∧ r.quay = q.quay)

/-- Posts a record under the next sequence number; the first of an empty queue is 1 (R340; 20_program_host_counter.md). -/
def Part.post (p : Part) (r : TrapRecord) : Part :=
  { p with seq := p.seq + 1, tqProd := p.tqProd + 1, ring := p.ring ++ [⟨{ r with seq := p.seq + 1 }, false⟩] }

/-- Posts a Report or fatal record when the table of R343 allows it, and holds it otherwise. -/
def Part.postOrHold (p : Part) (r : TrapRecord) (need : Nat) : Part :=
  if need ≤ p.slotsFree ∧ !(p.held.any (fun h => h.sameSource r)) then p.post r else { p with held := p.held ++ [r] }

/-- A Report record (R335): no agent stops. -/
def State.report (s : State) (p : Nat) (r : TrapRecord) : State := s.modPart p (fun x => x.postOrHold r 3)

/-- A fatal record. -/
def State.postFatal (s : State) (p : Nat) (r : TrapRecord) : State := s.modPart p (fun x => x.postOrHold r 1)

/-- The page requests that a function has outstanding (R167). -/
def Link.outstanding (l : Link) (f : Nat) : Nat :=
  (l.groups.filter (fun g => decide (g.2.func = f) && g.2.sent)).foldl (fun n g => n + g.2.pages.length) 0

/-- Whether the allocation of a group's function has room for its requests, or the function has none outstanding (R167, R359). -/
def State.mayRequest (s : State) (g : PageGroup) : Bool :=
  decide (s.link.outstanding g.func = 0 ∨ s.link.outstanding g.func + g.pages.length ≤ (s.func g.func).prAlloc)

/-- Sends the requests of the groups that wait for an allocation, in their order, as far as there is room (R167). -/
def State.sendGroups (s : State) : State :=
  s.link.groups.foldl (fun s g =>
    match Assoc.find? g.1 s.link.groups with
    | some y => if !y.sent && s.mayRequest y
        && !(s.link.groups.any (fun z => decide (z.1 < g.1) && decide (z.2.func = y.func) && !z.2.sent)) then
        s.modLink (fun l => { l with groups := Assoc.set g.1 { y with sent := true } l.groups })
      else s
    | none => s) s

/-- A Page Request Group for the pages of an access (R167): its number, and the requests sent when an allocation is free. -/
def State.requestPages (s : State) (key : Nat) (by_ : Actor) (pages : List Nat) : State × Nat :=
  let k := s.link.nextGroup
  ((s.modLink (fun l => { l with
    groups := Assoc.set k ⟨key, by_.func, false, pages, by_.die, by_.pasid⟩ l.groups, nextGroup := k + 1 })).sendGroups, k)

/-- Posts an agent's replayable record, or leaves the agent waiting for room (R172, R343); PRI_PENDING sends its Page
Request Group (R167), HOST_ATOMIC_UR puts the agent's instruction under the proxy (R384). -/
def State.postReplay (s : State) (g : Nat) (r : TrapRecord) : State :=
  let p := (s.ag g).part
  let x := s.part p
  if 3 ≤ x.slotsFree ∧ !(x.held.any (fun h => h.sameSource r)) then
    let s := s.modPart p (fun x => x.post r)
    if r.cause = Cause.priPending then
      let y := s.requestPages g (s.actor g) (bundlePages r.value.toNat r.detail r.win)
      y.1.modAg g (fun a => { a with status := .pri y.2 (x.seq + 1) })
    else if r.cause = Cause.hostAtomicUr then
      s.modAg g (fun a => { a with status := .run, marks := { a.marks with ur := false, proxySeq := some (x.seq + 1) } })
    else s.modAg g (fun a => { a with status := .replay (x.seq + 1) })
  else s.modAg g (fun a => { a with status := .unposted r })

/-! ### Dispositions (R335) -/

/-- Performs every store of an agent at its location scope (R206). -/
def State.performAll (s : State) (g : Nat) : State := (s.drainQueue g).drainWc g

/-- The marks of an agent that is at the start of an instruction. -/
def Marks.clear (m : Marks) : Marks :=
  { m with plan := [], done := [], ur := false, proxySeq := none, entry := none, phase := 0, inPlace := false }

/-- A fatal trap stops the agent as it stands; Salvage is next (R341). No store of its task is performed afterwards, so those committed
are performed first (R83, R341); buffered ones stay in the buffer. -/
def State.takeFatal (s : State) (is : Issue) (t : TrapInfo) (flags : Nat) : State :=
  (s.performAll is.g).modAg is.g (fun a => { a with
    status := .fatal (s.record is t (fFatal + flags))
    regs := { a.regs with pc := is.pc, pfx := [] }
    marks := a.marks.clear })

/-- A replayable trap (R172): the strip is restarted; outside one the agent stays at the instruction. -/
def State.takeReplay (s : State) (is : Issue) (t : TrapInfo) : State :=
  let r := s.record is t (fPrecise + fReplay)
  let s := if (s.ag is.g).inStrip then s.restart is.g
    else s.modAg is.g (fun a => { a with regs := { a.regs with pc := is.pc, pfx := [] } })
  s.postReplay is.g r

/-- Takes a hart out of the harts that wait in a lease step; a Pilot no longer waits to write the Wharf's hash (R221). -/
def State.leaveLease (s : State) (g : Nat) : State :=
  s.modQy (quayOf g) (fun y => { y with leaseq := y.leaseq.filter (· ≠ g), whold := y.whold && (!isPilot g || y.hashPend.isSome) })

/-- Stops an agent at a point under the debugger; an open strip is kept suspended (R91, R355). -/
def State.haltAt (s : State) (g : Nat) (p : Word) (reason : Nat) (byDebug : Bool) : State :=
  (s.leaveLease g).modAg g (fun a => { a with
    status := .halted
    regs := { a.regs with pc := p, pfx := [] }
    strip := { a.strip with susp := a.strip.susp || a.strip.isOpen }
    marks := { a.marks with reason := reason, byDebug := byDebug, stepping := false, wasSusp := a.strip.susp } })

/-- Where an agent's record slot lies in the trap page (R337). -/
def State.recordSlot (s : State) (g : Nat) : Addr :=
  let page := (s.ctx (s.ag g).ctx).trapPage
  mkAddr 0 (page.toNat + (if isPilot g then 0 else 64 * (slotOf g + 1)))

/-- TakeLocal (R337): TAKING AN EXCEPTION. The strip is restarted, or suspended when the cause suspends it; one that is suspended
already, when a handler has cleared INH, stays so and nothing is restarted (DESIGN CHOICE, log entry 107); tepc holds the resume point,
the record goes to the agent's slot, and the PC to tvec with INH set. With INH set, with tvec zero, or when the slot cannot be written,
the trap is fatal. -/
def State.takeLocal (s : State) (is : Issue) (t : TrapInfo) : State :=
  let a := s.ag is.g
  if a.trap.inh then s.takeFatal is t (fPrecise + fNested)
  else if a.trap.tvec = 0 then s.takeFatal is t fPrecise
  else match s.xlate (s.actor is.g) (s.recordSlot is.g) Acc.store with
  | .error _ => s.takeFatal is t (fPrecise + fSlotfail)
  | .ok h =>
    let r := s.record is t fPrecise
    let restarts := a.inStrip && !t.suspends
    let resume := if restarts then a.strip.spc else t.tepc.getD is.pc
    let s := if restarts then s.restart is.g
      else s.modAg is.g (fun a => a.modStrip (fun st => { st with susp := st.isOpen, held := st.mark, mark := .none }))
    let s := (s.watchQuiet (quayOf is.g) [h.place]).1
    let s := if h.mtype = 2 then s.deviceStore is.g h.place r.bytes
      else s.enqueue is.g none false [placeBytes h.place r.bytes]
    s.modAg is.g (fun a =>
      let a := a.branchRecord is.pc a.trap.tvec 3
      { a with
        regs := { a.regs with pc := a.trap.tvec, pfx := [] }
        trap := { a.trap with
          tepc := resume, tcause := BitVec.ofNat 64 (t.sub * 2 ^ 8 + t.cause), tval := t.val
          trec := offOf (s.recordSlot is.g), inh := true } })

/-- What WSUP becomes when an instruction traps (R350); its progress marks are cleared. -/
def State.noteWatch (s : State) (is : Issue) (cause : Nat) : State :=
  s.modAg is.g (fun a => { a with marks := a.marks.clear }.modTrap (fun t =>
    if cause = Cause.watch then { t with wsup := true, wsupc := is.pc }
    else if t.wsup ∧ t.wsupc = is.pc then { t with wsup := false } else t))

/-! ### Leaving a hart slot (R206, R240, R317, R326, R344) -/

/-- The token that stands for a task's agent in the tables of its Quay while it has no slot. -/
def taskToken (k : Nat) : Nat := 100000 + k

/-- Renames the owner of berths, copies, transfers and forces. -/
def State.rekey (s : State) (q old new : Nat) : State :=
  s.modQy q (fun y => { y with
    berths := y.berths.map (fun b => { b with
      owner := if b.owner = some old then some new else b.owner
      copies := b.copies.map (fun c => if c.agent = old then { c with agent := new } else c) })
    tile := { y.tile with
      feeds := y.tile.feeds.map (fun f => if f.agent = old then { f with agent := new } else f)
      asyncs := y.tile.asyncs.map (fun f => if f.agent = old then { f with agent := new } else f) } })

/-- Whether every copy of an agent has landed, stopped or been discarded (R240). -/
def State.copiesDone (s : State) (g : Nat) : Bool :=
  (s.qy (quayOf g)).berths.toList.all (fun b => b.copies.all (fun c => c.agent ≠ g))

/-- What a slot keeps of an agent that has left it: the control registers, which only a context creation resets, and the
trace rings (R68, R75, R353). The next task's handler is not running yet. -/
def Agent.residue (a : Agent) : Agent :=
  { regs := { instret := a.regs.instret }
    trap := { a.trap with inh := false, wsup := false }
    strip := { vlcap := a.strip.vlcap, ephm := a.strip.ephm, cutcnt := a.strip.cutcnt, abortcnt := a.strip.abortcnt, spc := a.strip.spc }
    fp := a.fp
    task := { bartime := a.task.bartime }
    trace := a.trace, part := a.part, ctx := a.ctx }

/-- Loses an expired slice of a physical register: it reads as the pattern until it is written again (R103). -/
def VecFile.lose (f : VecFile) (x : Nat × Nat) : VecFile :=
  { f with
    phys := if h : x.1 < 96 then f.phys.set x.1 (BitVec.ofNat 8192 (putBits f.phys[x.1].toNat (256 * x.2) 256 lostSlice)) else f.phys
    eph := f.eph.filter (· ≠ 32 * x.1 + x.2)
    expired := f.expired.filter (· ≠ x) }

/-- Settles expired slices of an agent's registers that are read: each is read as its value or is lost, as a free value says (R103). -/
def State.settleSlices (s : State) (g : Nat) (xs : List (Nat × Nat)) : State :=
  xs.foldl (fun s x =>
    let c := s.ctxOf g
    let lost := Config.freeBit (s.freeOf c)
    let s := s.useFreeOf c
    if lost then s.modAg g (fun a => a.modVec (fun f => f.lose x)) else s) s

/-- Saves an agent into its task, which goes to the tail of the tasks (R314, R326), and empties its slot: its stores are performed, its
quads return to the pool, each ephemeral slice is kept as it stands (R104). A hart with live vector state must get its quads again
(R318, R348). -/
def State.saveAgent (s : State) (g : Nat) (st : TaskState) (reason : Nat) : State :=
  let s := (s.performAll g).leaveLease g
  let s := s.settleSlices g (s.ag g).vec.expired
  let a := s.ag g
  let live := a.strip.isOpen && (a.strip.ckpt.map.isSome || a.strip.susp)
  let kept := { a with
    status := match a.status with | .ats _ | .unposted _ => .run | st => st
    strip := { a.strip with quads := 0, live := if live then a.strip.live else 0, ppend := false }
    vec := { a.vec with expired := [] }
    marks := { a.marks with reason := reason } }
  let t : Task := { s.task a.tkey with
    state := st, saved := some kept, quay := quayOf g, lanes := a.strip.live
    needs := if live then popCount a.strip.quads.toNat 8 else 0 }
  ((s.toTail a.tkey t).rekey (quayOf g) g (taskToken a.tkey)).setAg g a.residue

/-! ### Taking a trap -/

/-- A trap of an instruction, by the disposition of its cause (R335). The failure of a page request is used up by its ATS_FAIL (R167). -/
def State.takeTrap (s : State) (is : Issue) (t : TrapInfo) : State :=
  let s := (s.noteWatch is t.cause).leaveLease is.g
  let s := if t.cause = Cause.atsFail then s.modAg is.g (fun a => { a with marks := { a.marks with atsFail := none } }) else s
  let dbg := (s.ctx (s.ag is.g).ctx).debugger
  if t.cause = Cause.xlateMiss ∨ t.cause = Cause.priPending then s.takeReplay is t
  else if t.cause = Cause.mchkUe ∨ t.cause = Cause.codeGone then s.takeFatal is t fPrecise
  else if t.cause = Cause.preempt then
    (s.modAg is.g (fun a => { a with regs := { a.regs with pc := is.pc, pfx := [] } })).saveAgent is.g .ready t.cause
  else if (t.cause = Cause.brk ∨ t.cause = Cause.watch) ∧ dbg then
    ((s.sendDebugger (s.ctxOf is.g) (s.record is t fPrecise)).modAg is.g (fun a =>
      a.modTrap (fun r => { r with tepc := t.tepc.getD is.pc, tval := t.val }))).haltAt is.g is.pc t.cause false
  else s.takeLocal is t

/-- ERET (R67, R91, R338): THE RETURN FROM AN EXCEPTION. With INH clear it only jumps. A strip suspended at a cut stands at that cut
again, which serves as it did before (R88). -/
def State.eret (s : State) (is : Issue) : State :=
  let a := s.ag is.g
  let go (s : State) : State := s.modAg is.g (fun a => (a.branchRecord is.pc a.trap.tepc 3).setPc a.trap.tepc)
  if !a.trap.inh then go s
  else
    let s := s.modAg is.g (fun a => { a with
      trap := { a.trap with inh := false }
      strip := { a.strip with susp := false, held := .none
                              mark := if a.strip.isOpen && a.strip.susp then a.strip.held else a.strip.mark } })
    if a.strip.isOpen ∧ a.strip.susp ∧ a.trap.tepc ≠ a.strip.spc then
      go (s.cutAt is.g a.trap.tepc true .here)
    else go s

/-! ### Interrupts and soft pre-emption (R92, R339, R344) -/

/-- ipend (R339). -/
def State.ipend (s : State) (g : Nat) : Nat :=
  let t := (s.ag g).trap
  (if t.tmcmp ≠ 0 ∧ t.tmcmp ≤ s.cycleOf g then 1 else 0) + (if t.irq then 2 else 0)

/-- Whether an interrupt of an agent is due. -/
def State.intDue (s : State) (g : Nat) : Bool :=
  let t := (s.ag g).trap
  decide (t.ien.toNat &&& s.ipend g ≠ 0 ∧ t.inh = false ∧ t.tvec ≠ 0)

/-- Whether an agent stands at an instruction boundary outside a PFX group and not within an instruction that has performed a part of
its effect; a task that waits in place for a future does (R331). -/
def Agent.between (a : Agent) : Bool := decide (a.regs.pfx = [] ∧ a.marks.clear = { a.marks with inPlace := false })

/-- Whether an agent stands at a point where R92 and R344 let it be interrupted or pre-empted. -/
def Agent.atBoundary (a : Agent) : Bool := a.between && (!a.inStrip || decide (a.strip.mark ≠ .none))

/-- Whether a soft pre-emption of an agent is due: it is pending and its copies have landed (R240). -/
def State.preDue (s : State) (g : Nat) : Bool := (s.ag g).strip.ppend && s.copiesDone g

/-- Whether something is taken before an agent's next instruction. -/
def State.due (s : State) (g : Nat) : Bool := (s.ag g).atBoundary && (s.preDue g || s.intDue g)

/-- The issue of something taken at a boundary. -/
def State.boundary (s : State) (g : Nat) : Issue := ⟨g, (s.ag g).regs.pc, (s.ag g).regs.pc, []⟩

/-- Takes what is due: a pre-emption first, else the interrupt of the lower bit. -/
def State.takeDue (s : State) (g : Nat) : State :=
  if s.preDue g then s.saveAgent g .ready Cause.preempt
  else
    let x := (s.ag g).trap.ien.toNat &&& s.ipend g
    (s.leaveLease g).takeLocal (s.boundary g)
      { cause := Cause.intr, sub := if x.testBit 0 then 1 else 2, val := BitVec.ofNat 64 x, suspends := true }

/-- Whether a status is the wait for the service of a replayable record (R172). -/
def Status.replays : Status → Bool
  | .pri _ _ | .replay _ | .unposted _ => true
  | .absent | .run | .ats _ | .atomic _ | .proxy _ | .remote _ _ _ | .halted | .fatal _ => false

/-- An agent that waits so is pre-empted at once when a soft pre-emption is due (R172); its task goes on waiting. -/
def State.preemptWaiting (s : State) (g : Nat) : State :=
  if (s.ag g).status.replays && s.preDue g then s.saveAgent g .ready Cause.preempt else s

/-! ### The frame of an instruction -/

/-- What an instruction's entry says besides its effect: which agents execute it, whether it needs an open strip (R80), whether it is a
VCFG instruction (R91), whether it is privileged here (R62), whether it forces a cut (R87) or only one before it (R85), and the tval of
PRIV and AGENT when that is not the word. -/
structure Rule where
  pilot : Bool := true
  hart  : Bool := true
  strip : Bool := false
  vcfg  : Bool := false
  priv  : Bool := false
  cut   : Bool := false
  pre   : Bool := false
  tval  : Option Nat := none
deriving DecidableEq, Repr

/-- Available to the Pilot and to harts. -/
def Rule.both : Rule := {}
/-- A hart instruction. -/
def Rule.hartOnly : Rule := { pilot := false }
/-- A Pilot instruction. -/
def Rule.pilotOnly : Rule := { hart := false }
/-- A vector instruction. -/
def Rule.vector : Rule := { pilot := false, strip := true }
/-- Cut-forcing, for both. -/
def Rule.cutting : Rule := { cut := true }

/-- Whether the segment a word is fetched from belongs to a handle with the system bit (R33, R375). -/
def State.sysAt (s : State) (part : Nat) (pc : Word) : Bool :=
  s.fw.codes.any (fun p => decide (p.2.part = part) && p.2.system
    && p.2.segs.any (fun g => decide (g.va ≤ pc.toNat ∧ pc.toNat < g.va + g.size)))

/-- The checks of R33 items 2 and 4 to 6 that do not depend on operands, in order. -/
def State.pre (s : State) (is : Issue) (i : Instr) (r : Rule) : Option TrapInfo :=
  let a := s.ag is.g
  let word := (encodeNat i).getD 0
  if is.pfx ≠ [] ∧ i.takesExt = false then some { cause := Cause.ill, sub := 7, val := BitVec.ofNat 64 word }
  else if r.priv ∧ s.sysAt a.part is.at_ = false then
    some { cause := Cause.priv, val := BitVec.ofNat 64 (r.tval.getD word) }
  else if (if isPilot is.g then r.pilot else r.hart) = false then
    some { cause := Cause.agent, sub := 1, val := BitVec.ofNat 64 (r.tval.getD word) }
  else if a.strip.susp ∧ (r.strip ∨ r.vcfg) then some { cause := Cause.agent, sub := 2, val := BitVec.ofNat 64 word }
  else if r.strip ∧ a.strip.shut then
    some { cause := Cause.illtype, sub := 3, val := BitVec.ofNat 64 a.strip.vtypeReg }
  else none

/-- The state a body begins in: the PC past the word, the PFX words taken. -/
def State.begin_ (s : State) (is : Issue) : State :=
  s.modAg is.g (fun a => { a with
    regs := { a.regs with pc := is.at_ + 4, pfx := [] }, strip := { a.strip with mark := .none } })

/-- The state of an attempt that did not complete: the agent stays at the group. -/
def State.stay (s : State) (is : Issue) (mark : CutMark) (st : Status) (stall : Bool) : State :=
  s.modAg is.g (fun a => { a with
    status := st
    regs := { a.regs with pc := is.pc, pfx := [] }
    strip := { a.strip with mark := mark }
    marks := { a.marks with stall := stall } })

/-- An agent after an instruction that it completed at `pc`: instret advances once for a group (R29, R68), a suppressed watch match is
used up (R350). Within a strip a host page that has failed stays known until the access that met it executes again (R90, R167). -/
def Agent.retired (a : Agent) (pc : Word) (cut : Bool) : Agent :=
  { a with
    regs := { a.regs with instret := a.regs.instret + 1 }
    trap := { a.trap with wsup := a.trap.wsup && decide (a.trap.wsupc ≠ pc) }
    marks := { a.marks.clear with stall := false, atsFail := if a.inStrip && !cut then a.marks.atsFail else none, lastPc := pc } }

/-- Retires an instruction; a cut-forcing one is followed by its cut (R88). An agent that has left its slot or has halted has retired
already. -/
def State.retire (s : State) (is : Issue) (cut : Bool) : State :=
  if (s.ag is.g).status = .absent ∨ (s.ag is.g).status = .halted then s else
  let s := s.modAg is.g (fun a => a.retired is.pc cut)
  if cut && (s.ag is.g).inStrip then s.cutAt is.g (s.ag is.g).regs.pc true .after else s

/-- A consume's trim belongs to the instruction that completes (R9, R151): the state that a stopped one leaves has the VL it began
with, while its strip is open. -/
def State.untrim (s' s : State) (g : Nat) : State :=
  if (s'.ag g).strip.isOpen ∧ (s.ag g).strip.isOpen ∧ (s'.ag g).strip.vl ≠ (s.ag g).strip.vl then
    s'.modAg g (fun a => a.modStrip (fun st => { st with vl := (s.ag g).strip.vl }))
  else s'

/-- How a body's end becomes the next state; `s` is the state before the body, past the cut before it. A trap leaves the instruction
unretired, one with its resume point past it included (log entry 73). -/
def State.finish (s : State) (is : Issue) (cut : Bool) (r : Except Stop (Unit × State)) : State :=
  match r with
  | .ok x => x.2.retire is cut
  | .error (.trap t none) => s.takeTrap is t
  | .error (.trap t (some s')) => (s'.untrim s is.g).takeTrap is t
  | .error (.wait st s') => (s'.untrim s is.g).stay is (s.ag is.g).strip.mark st false
  | .error (.again s') => (s'.untrim s is.g).stay is (s.ag is.g).strip.mark (s'.ag is.g).status true

/-- The state with the agent before the first word of the group it executes: the cut before a governed instruction is made there, and
what is due is taken there (R29, R92). -/
def State.atGroup (s : State) (is : Issue) : State :=
  s.modAg is.g (fun a => { a with regs := { a.regs with pc := is.pc, pfx := [] } })

/-- The next state of an instruction with a body, under its rule. -/
def State.runBody (s : State) (i : Instr) (r : Rule) (body : Issue → M Unit) : State :=
  let is := s.issue
  match s.pre is i r with
  | some t => s.takeTrap is t
  | none =>
    let cutting := (r.cut || r.pre) && (s.ag is.g).inStrip
    match (if cutting then s.commitWait is.g else none) with
    | some (.ats va) => s.stay is (s.ag is.g).strip.mark (.ats va) false
    | some .held => s.stay is (s.ag is.g).strip.mark (s.ag is.g).status true
    | none =>
      let s1 := if cutting then s.cutBefore is else s
      let s2 := s1.atGroup is
      if cutting && s2.due is.g then s2.takeDue is.g
      else s1.finish is r.cut (body is (s1.begin_ is))

/-- The outcome of an instruction with a body: always a next state, since traps and waits are states. -/
def State.run (s : State) (i : Instr) (r : Rule) (body : Issue → M Unit) : Host.Outcome State Fault Refusal :=
  .next (s.runBody i r body)

/-- Changes the issuing agent. -/
def modA (is : Issue) (f : Agent → Agent) : M Unit := modify (fun s => s.modAg is.g f)
/-- The issuing agent. -/
def getA (is : Issue) : M Agent := do return (← get).ag is.g

end Sys2Proof.Machine
end

