-- ==== Sys2Proof/Machine/Operands.lean ====
section
/-! DEFINITION. Operands of vector instructions: types and groups (R96-R98, R108, R109), the physical file behind the map
(R99-R103), consumption of berth landings (R223, R228, R235, R236), masks (R105), and extended immediates. -/

namespace Sys2Proof.Machine

/-! ### Extended immediates (R28) -/

/-- A signed field with its PFX words. -/
def Issue.immS (is : Issue) (w f : Nat) : Int := extS is.pfx w f
/-- An unsigned field with its PFX words. -/
def Issue.immU (is : Issue) (w f : Nat) : Nat := extU is.pfx w f

/-! ### The vtype in force -/

/-- The vtype of a strip as the elementwise instructions use it. -/
structure VEnv where
  ty : Nat
  w  : Nat
  g  : Nat
  vl : Nat
deriving DecidableEq, Repr

/-- The environment of an agent's strip. -/
def Agent.venv (a : Agent) : VEnv :=
  let t := a.strip.vtype.toNat
  ⟨vtType t, elemBits (vtType t), vtGroup t, a.strip.vl.toNat⟩

/-- The trap of an ILLTYPE subcode (R74). -/
def illtype {α : Type} (is : Issue) (sub : Nat) : M α := fun s =>
  .error (.trap { cause := Cause.illtype, sub := sub, val := BitVec.ofNat 64 (s.ag is.g).strip.vtypeReg } none)

/-- OPTYPE unless the type is accepted (R109). -/
def needType (is : Issue) (ok : Nat → Bool) : M Unit := do
  if ok (vtType (← getA is).strip.vtype.toNat) then pure () else illtype is 5

/-- GROUPALIGN unless every group starts at a multiple of its size (R97). -/
def needGroups (is : Issue) (vs : List (Fin 48)) : M Unit := do
  let a ← getA is
  if vs.all (fun v => decide (v.val % vtGroup a.strip.vtype.toNat = 0)) then pure () else illtype is 4

/-- Types I and N. -/
def tyIN (t : Nat) : Bool := isI t || isN t
/-- Types I, N and F. -/
def tyINF (t : Nat) : Bool := isI t || isN t || isF t
/-- Types I and F. -/
def tyIF (t : Nat) : Bool := isI t || isF t
/-- Any type. -/
def tyAny (_ : Nat) : Bool := true

/-! ### The physical file (R96, R99) -/

/-- The physical register of an architectural one. -/
def Agent.physOf (a : Agent) (r : Nat) : Fin 96 := if h : r < 48 then a.vec.map.v[r] else 0

/-- The contents of an architectural register. -/
def Agent.vreg (a : Agent) (r : Nat) : VReg := a.vec.phys[a.physOf r]

/-- The register offset within a group and the bit position of an element (R96). -/
def elemAt (vlen w i : Nat) : Nat × Nat := (i * w / vlen, i * w % vlen)

/-- The registers of a group that hold some of the elements. -/
def groupRegs (v vlen w : Nat) (es : List Nat) : List Nat := (es.map (fun i => v + (elemAt vlen w i).1)).dedup

/-- An element read from register contents. -/
def elemIn (regs : Assoc Nat) (v vlen w i : Nat) : Nat :=
  bitsOf (Assoc.get 0 (v + (elemAt vlen w i).1) regs) (elemAt vlen w i).2 w

/-- An element of a register or group as it stands. -/
def Agent.elem (a : Agent) (v w i : Nat) : Nat :=
  bitsOf (a.vreg (v + (elemAt a.strip.vlen w i).1)).toNat (elemAt a.strip.vlen w i).2 w

/-- Copies of an agent that have not wholly landed, on the berths of its Quay. -/
def State.landings (s : State) (g : Nat) : List Copy :=
  (s.qy (quayOf g)).berths.toList.flatMap (fun b => b.copies.filter (fun c => match c.kind with
    | .gthv _ => decide (c.agent = g)
    | _ => false))

/-- Whether a physical register is the target of an incomplete landing (R99). -/
def State.landingOn (s : State) (g p : Nat) : Bool := (s.landings g).any (fun c => c.phys.contains p)

/-- Whether the snapshot of the last cut names a physical vector register. -/
def Agent.snapHolds (a : Agent) (p : Nat) : Bool :=
  match a.strip.ckpt.map with
  | some m => a.strip.isOpen && m.v.toList.any (fun x => decide (x.val = p))
  | none => false

/-- Physical vector registers that nothing refers to. -/
def State.freePhys (s : State) (g : Nat) : List Nat :=
  let a := s.ag g
  (List.range 96).filter (fun p => !(a.vec.map.v.toList.any (fun x => decide (x.val = p))) && !a.snapHolds p && !s.landingOn g p)

/-! ### Consumption of landings (R228, R235, R236) -/

/-- Registers of a group that hold elements below VL, each with the number of its bits that do. -/
def Agent.groupSpan (a : Agent) (v w : Nat) : List (Nat × Nat) :=
  (List.range ((a.strip.vl.toNat * w + a.strip.vlen - 1) / a.strip.vlen)).map (fun k =>
    (v + k, min a.strip.vlen (a.strip.vl.toNat * w - k * a.strip.vlen)))

/-- Waits for the landings into some registers, then applies the trims recorded on the bits of them that are taken, where no instruction
has written them since (R101, R151, R235, R236). -/
def consumeRegs (is : Issue) (rs : List (Nat × Nat)) : M Unit := do
  let s ← get
  let a := s.ag is.g
  let ps := rs.map (fun r => ((a.physOf r.1).val, r.2))
  if ps.any (fun p => s.landingOn is.g p.1) then retryLater
  else
    let f := a.vec.marks.foldl (fun (m : Nat) (x : RegMark) =>
      if x.fault.isNone && ps.any (fun p => decide (p.1 = x.phys ∧ x.left % 2 ^ p.2 ≠ 0)) then min m x.elem else m) a.strip.vl.toNat
    if f < a.strip.vl.toNat then
      modA is (fun a => a.modStrip (fun st => { st with vl := BitVec.ofNat 32 f }))

/-- Consumes the registers that a group of elements of width `w` takes. -/
def consume (is : Issue) (v : Fin 48) (w : Nat) : M Unit := do
  consumeRegs is ((← getA is).groupSpan v.val w)

/-- Room for the writes of an instruction: a destination may take a new physical register for each of its registers; a
destination that is landing and is not written whole is waited for (R99). -/
def room (is : Issue) (v : Fin 48) (n : Nat) (whole : Bool) : M Unit := do
  let s ← get
  let a := s.ag is.g
  let rs := (List.range n).map (fun k => v.val + k)
  if !whole && rs.any (fun r => s.landingOn is.g (a.physOf r).val) then retryLater
  else
    let need := (rs.filter (fun r => s.landingOn is.g (a.physOf r).val || a.snapHolds (a.physOf r).val)).length
    if (s.freePhys is.g).length < need then retryLater

/-! ### Reads (R103, R223, R228) -/

/-- The trap of a recorded berth fault met by a consume (R228, R340). -/
def berthTrap (berth : Nat) (f : BerthFault) : TrapInfo :=
  { cause := f.cause, sub := f.sub, val := offOf f.addr, win := winOf f.addr, detail := berth + f.ordinal * 2 ^ 32 }

/-- What stops a read of some elements: a recorded fault at or below one of them that no instruction has written since, or an element
that landed poisoned. -/
def Agent.readStop (a : Agent) (v w : Nat) (es : List Nat) : Option TrapInfo :=
  es.findSome? (fun i =>
    let at_ := elemAt a.strip.vlen w i
    let p := (a.physOf (v + at_.1)).val
    match a.vec.marks.findSome? (fun m =>
        if m.phys = p ∧ bitsOf m.left at_.2 w ≠ 0 then m.fault.map (fun f => berthTrap f.1 f.2) else none) with
    | some t => some t
    | none => (a.vec.poison.find? (fun x => decide (x.phys = p ∧ x.lo < at_.2 + w ∧ at_.2 < x.lo + x.width))).map
        (fun x => { cause := Cause.mchkPoison, val := offOf x.addr, win := winOf x.addr }))

/-- Settles the expired slices that a read touches: each is read as its value or is lost, as a free value says (R103). -/
def settle (is : Issue) (v w : Nat) (es : List Nat) : M Unit := do
  let a ← getA is
  let touched := (es.map (fun i =>
    let at_ := elemAt a.strip.vlen w i
    ((a.physOf (v + at_.1)).val, at_.2 / 256))).dedup
  modify (fun s => s.settleSlices is.g (a.vec.expired.filter (fun x => touched.contains x)))

/-- Reads elements of a register or group of width `w`. -/
def vread (is : Issue) (v : Fin 48) (w : Nat) (es : List Nat) : M (Nat → Nat) := do
  match (← getA is).readStop v.val w es with
  | some t => trap t
  | none =>
    settle is v.val w es
    let a ← getA is
    let vlen := a.strip.vlen
    let regs : Assoc Nat := (groupRegs v.val vlen w es).map (fun r => (r, (a.vreg r).toNat))
    return fun i => elemIn regs v.val vlen w i

/-! ### Writes (R99, R105) -/

/-- The lane slices of a register of a group that some elements lie in. -/
def slicesIn (v vlen r w : Nat) (es : List Nat) : List Nat :=
  ((es.filter (fun i => decide (v + (elemAt vlen w i).1 = r))).map (fun i => (elemAt vlen w i).2 / 256)).dedup

/-- Moves what the vector file keeps of a physical register beside its bits, where the register is renamed without being read. -/
def VecFile.carry (f : VecFile) (p q : Nat) (poison : RegPoison → Bool) (left : Nat → Nat) : VecFile :=
  { f with
    eph := (f.eph.filter (fun x => x / 32 ≠ q)) ++ (f.eph.filter (fun x => x / 32 = p)).map (fun x => 32 * q + x % 32)
    expired := (f.expired.filter (fun x => x.1 ≠ q)) ++ (f.expired.filter (fun x => x.1 = p)).map (fun x => (q, x.2))
    poison := (f.poison.filter (fun x => x.phys ≠ q)) ++ (f.poison.filter (fun x => decide (x.phys = p) && poison x)).map
      (fun x => { x with phys := q })
    marks := f.marks.filter (fun m => m.phys ≠ q)
      ++ ((f.marks.filter (fun m => m.phys = p)).map (fun m => { m with phys := q, left := left m.left })).filter (fun m => m.left ≠ 0) }

/-- The bits of a register that some written elements take. -/
def writtenBits (vlen w : Nat) (es : List Nat) : Nat := es.foldl (fun x i => putBits x (elemAt vlen w i).2 w (2 ^ w - 1)) 0

/-- Writes elements of a register of a group into its physical register, or into a new one when a snapshot or a landing shares the old
(R99). A mark of a stopped or faulted landing is no longer about what is written (R101, R151, R228). A slice written in
part is first settled, and its hold begins again (R103, log entry 74). -/
def State.writeReg (s : State) (g v r w : Nat) (ups : List (Nat × Nat)) : State :=
  let vlen := (s.ag g).strip.vlen
  let mine := ups.filter (fun u => decide (v + (elemAt vlen w u.1).1 = r))
  if mine = [] then s else
  let p := ((s.ag g).physOf r).val
  let slices := slicesIn v vlen r w (mine.map (·.1))
  let s := s.settleSlices g ((s.ag g).vec.expired.filter (fun x => decide (x.1 = p) && slices.contains x.2
    && decide ((mine.filter (fun u => (elemAt vlen w u.1).2 / 256 = x.2)).length * w < 256)))
  let a := s.ag g
  let shared := s.landingOn g p || a.snapHolds p
  let q := if shared then (s.freePhys g).headD p else p
  let new := mine.foldl (fun x u => putBits x (elemAt vlen w u.1).2 w u.2) (a.vreg r).toNat
  let bits := writtenBits vlen w (mine.map (·.1))
  let rest (l : Nat) : Nat := l ^^^ (l &&& bits)
  let written (x : RegPoison) : Bool := mine.any (fun u => decide ((elemAt vlen w u.1).2 ≤ x.lo
    ∧ x.lo + x.width ≤ (elemAt vlen w u.1).2 + w))
  s.modAg g (fun a => a.modVec (fun f =>
    let f := if shared then f.carry p q (fun x => !written x) rest
      else { f with
        poison := f.poison.filter (fun x => !(decide (x.phys = p) && written x))
        marks := (f.marks.map (fun m => if m.phys = p then { m with left := rest m.left } else m)).filter (fun m => m.left ≠ 0) }
    let eph := f.eph.filter (fun x => !(decide (x / 32 = q) && slices.contains (x % 32)))
    { f with
      phys := if h : q < 96 then f.phys.set q (BitVec.ofNat 8192 new) else f.phys
      map := if h : r < 48 ∧ q < 96 then { f.map with v := f.map.v.set r ⟨q, h.2⟩ h.1 } else f.map
      eph := if a.strip.ephm.toNat.testBit r then eph ++ slices.map (fun k => 32 * q + k) else eph
      expired := f.expired.filter (fun x => !(decide (x.1 = q) && slices.contains x.2)) }))

/-- Writes elements of a register or group. -/
def vwrite (is : Issue) (v : Fin 48) (w : Nat) (ups : List (Nat × Nat)) : M Unit := modify (fun s =>
  let vlen := (s.ag is.g).strip.vlen
  (groupRegs v.val vlen w (ups.map (·.1))).foldl (fun s r => s.writeReg is.g v.val r w ups) s)

/-! ### Masks (R98, R99, R105) -/

/-- The contents of a mask register. -/
def Agent.mreg (a : Agent) (m : Fin 12) : VReg := a.vec.masks[a.vec.map.m[m]]

/-- Active(i, m) for the elements below VL (R8). -/
def Agent.active (a : Agent) (m : Option (Fin 12)) (i : Nat) : Bool :=
  decide (i < a.strip.vl.toNat) && (match m with | none => true | some k => (a.mreg k).getLsbD i)

/-- The active elements, ascending. -/
def Agent.actives (a : Agent) (m : Option (Fin 12)) : List Nat :=
  (List.range a.strip.vl.toNat).filter (fun i => a.active m i)

/-- Writes bits of a mask register, in place or into a free one when the snapshot shares it. -/
def Agent.mwrite (a : Agent) (m : Fin 12) (ups : List (Nat × Bool)) : Agent :=
  let p := a.vec.map.m[m]
  let inSnap (k : Nat) : Bool := match a.strip.ckpt.map with
    | some x => a.strip.isOpen && x.m.toList.any (fun y => decide (y.val = k))
    | none => false
  let free := (List.range 24).find? (fun k => !(inSnap k) && !(a.vec.map.m.toList.any (fun y => decide (y.val = k))))
  let q : Nat := if inSnap p.val then free.getD p.val else p.val
  let new := ups.foldl (fun (x : Nat) u => putBits x u.1 1 u.2.toNat) (a.mreg m).toNat
  if h : q < 24 then
    a.modVec (fun f => { f with
      masks := f.masks.set q (BitVec.ofNat 8192 new)
      map := { f.map with m := f.map.m.set m ⟨q, h⟩ } })
  else a

/-- Writes bits of a mask register. -/
def mwrite (is : Issue) (m : Fin 12) (ups : List (Nat × Bool)) : M Unit := modA is (fun a => a.mwrite m ups)

/-! ### The start of a vector instruction -/

/-- The checks of R108 in their order, the consumption of the sources, room for the destination; then the environment and
the active elements. -/
def vstart (is : Issue) (ok : Nat → Bool) (srcs : List (Fin 48)) (dst : Option (Fin 48)) (m : Option (Fin 12))
    (whole : Bool := decide (m = none)) : M (VEnv × List Nat) := do
  needType is ok
  needGroups is (srcs ++ dst.toList)
  let e := (← getA is).venv
  for v in srcs do consume is v e.w
  match dst with
  | some v => room is v e.g whole
  | none => pure ()
  let a ← getA is
  return (a.venv, a.actives m)

/-- Writes a scalar register. -/
def setS (is : Issue) (d : Fin 32) (v : Word) : M Unit := modA is (fun a => a.ws d v)
/-- Reads a scalar register. -/
def getS (is : Issue) (r : Fin 32) : M Word := do return (← getA is).rs r
/-- Reads an address register. -/
def getR (is : Issue) (r : Fin 16) : M Addr := do return (← getA is).ra r
/-- Writes an address register. -/
def setR (is : Issue) (r : Fin 16) (v : Addr) : M Unit := modA is (fun a => a.wa r v)

end Sys2Proof.Machine
end

