-- ==== Sys2Proof/Machine/Flags.lean ====
section
/-! DEFINITION. The rounding environment of a hart and the flags its operations raise (R110, R129-R133). -/

namespace Sys2Proof.Machine

/-- EffRM (R8, R139): the mode a rounding selector names; 0 is dynamic. -/
def FpRegs.effRM (f : FpRegs) (rsel : Nat) : RMode :=
  match rsel with
  | 1 => .rne | 2 => .rtz | 3 => .sr | _ => RMode.ofCode f.frm.toNat

/-- The output of the Aster generator for a rounding (R132). -/
def FpRegs.rand (f : FpRegs) (mode : RMode) (index : Nat) : Nat :=
  if mode = .sr then aster f.srseed (f.srbase + BitVec.ofNat 64 index) f.srstep else 0

/-- Raises flags in fflags (R129). -/
def raise (is : Issue) (f : Flags) : M Unit := modA is (fun a => a.flag f)

/-- Advances srstep after an instruction that passes results through Round under SR (R133). -/
def stepSr (is : Issue) (mode : RMode) : M Unit :=
  if mode = .sr then modA is (fun a => { a with fp := { a.fp with srstep := a.fp.srstep + 1 } }) else pure ()

/-- Rounds an exact value with its own flags as element or ordinal `ix` of an instruction. -/
def FpRegs.roundTo (f : FpRegs) (fmt : Fmt) (mode : RMode) (ix : Nat) (x : Val × Flags) : Nat × Flags :=
  let r := fmt.round mode (f.rand mode ix) x.1
  (r.1, x.2 ||| r.2)

/-- The flags of a list of results together. -/
def flagsOf (l : List (Nat × Flags)) : Flags := l.foldl (fun f x => f ||| x.2) 0

end Sys2Proof.Machine
end

