-- ==== Sys2Proof/Machine/Csr.lean ====
section
/-! DEFINITION. The control registers (R10, R63, R68, R75, R134, R224, R244, R278, R319, R336): which are assigned, who may
reach them, how each reads and what a write does. -/

namespace Sys2Proof.Machine

/-! ### Assignment and access -/

/-- Numbers of the block that only a hart reaches: the strip registers, the stochastic rounding and group parameter registers,
the berth registers, the lease. -/
def csrHartOnly (n : Nat) : Bool :=
  decide ((0x100 ≤ n ∧ n ≤ 0x10A) ∨ (0x202 ≤ n ∧ n ≤ 0x205) ∨ (0x300 ≤ n ∧ n ≤ 0x31F) ∨ n = 0x600)

/-- Numbers that only the Pilot reaches. -/
def csrPilotOnly (n : Nat) : Bool := decide (n = 0x401 ∨ n = 0x402 ∨ (0x410 ≤ n ∧ n ≤ 0x417))

/-- Numbers whose writes are the Pilot's (R224). -/
def csrPilotWrite (n : Nat) : Bool := decide (0x320 ≤ n ∧ n ≤ 0x322)

/-- Numbers marked privileged. -/
def csrPriv (n : Nat) : Bool :=
  decide ((0x020 ≤ n ∧ n ≤ 0x024) ∨ (0x026 ≤ n ∧ n ≤ 0x028) ∨ n = 0x603 ∨ n = 0x708 ∨ n = 0x709
    ∨ (0x710 ≤ n ∧ n ≤ 0x720))

/-- The assigned numbers. -/
def csrAssigned (n : Nat) : Bool :=
  decide (n ≤ 0x007 ∨ n = 0x010 ∨ n = 0x011 ∨ (0x020 ≤ n ∧ n ≤ 0x028) ∨ (0x100 ≤ n ∧ n ≤ 0x10A)
    ∨ (0x200 ≤ n ∧ n ≤ 0x205) ∨ (0x300 ≤ n ∧ n ≤ 0x325) ∨ (0x400 ≤ n ∧ n ≤ 0x402) ∨ (0x410 ≤ n ∧ n ≤ 0x417)
    ∨ n = 0x500 ∨ n = 0x501 ∨ (0x510 ≤ n ∧ n ≤ 0x51F) ∨ (0x600 ≤ n ∧ n ≤ 0x604) ∨ (0x700 ≤ n ∧ n ≤ 0x709)
    ∨ (0x710 ≤ n ∧ n ≤ 0x720))

/-- The read-only numbers; ipend's HOST bit alone accepts a write (R68). -/
def csrReadOnly (n : Nat) : Bool :=
  decide (n ≤ 0x007 ∨ n = 0x010 ∨ n = 0x011 ∨ n = 0x024 ∨ n = 0x025 ∨ (0x100 ≤ n ∧ n ≤ 0x103) ∨ n = 0x105
    ∨ (0x108 ≤ n ∧ n ≤ 0x10A) ∨ n = 0x324 ∨ n = 0x325 ∨ n = 0x400 ∨ n = 0x501 ∨ (0x600 ≤ n ∧ n ≤ 0x602) ∨ n = 0x604
    ∨ n = 0x709 ∨ n = 0x720)

/-- Registers whose write inside a strip makes no cut (R87). -/
def csrStripSet (n : Nat) : Bool := decide (n = 0x106 ∨ n = 0x203 ∨ n = 0x204)

/-- The bits a register holds; the others are RZ. -/
def csrMask (n : Nat) : Nat :=
  if n = 0x020 ∨ n = 0x021 then 2 ^ 64 - 4
  else if n = 0x022 then 0xFFFF
  else if n = 0x026 then 3
  else if n = 0x104 then 2 ^ 32 - 1
  else if n = 0x106 then 0x1F
  else if n = 0x107 then 2 ^ 48 - 1
  else if n = 0x200 then 7
  else if n = 0x201 ∨ n = 0x402 then 0x1F
  else if n = 0x205 then 0x7F7F
  else if 0x300 ≤ n ∧ n ≤ 0x30F then 2 ^ 60 - 1
  else if 0x320 ≤ n ∧ n ≤ 0x322 then 0x003FFFFF003FFFFF
  else if n = 0x401 then 1
  else if 0x410 ≤ n ∧ n ≤ 0x417 then 0xFFFF1F
  else if n = 0x500 then 0xFFFF
  else if 0x510 ≤ n ∧ n ≤ 0x51F then 2 ^ 64 - 2 ^ 13 + 1
  else if n = 0x603 then 2 ^ 32 - 1
  else if 0x700 ≤ n ∧ n ≤ 0x703 then 2 ^ 64 - 16
  else if 0x704 ≤ n ∧ n ≤ 0x707 then 0xFF07FFFF
  else if n = 0x708 then 3
  else if 0x710 ≤ n ∧ n ≤ 0x717 then 2 ^ 64 - 64
  else if 0x718 ≤ n ∧ n ≤ 0x71F then 0x1FFFFF
  else 2 ^ 64 - 1

/-! ### Reads -/

/-- The berths of a Quay that a predicate on owners selects, as bits. -/
def Quay.ownedBits (y : Quay) (f : Nat → Bool) : Nat :=
  (List.range 16).foldl (fun acc k => if (match (y.berths.toList.getD k {}).owner with | some o => f o | none => false)
    then acc + 2 ^ k else acc) 0

/-- A control register as an agent reads it. -/
def State.csr (s : State) (g n : Nat) : Word :=
  let a := s.ag g
  let q := s.qy (quayOf g)
  let p := s.part a.part
  let w (x : Nat) : Word := BitVec.ofNat 64 x
  let bit (b : Bool) (k : Nat) : Nat := if b then 2 ^ k else 0
  if n = 0x000 then w (if isPilot g then 0 else slotOf g)
  else if n = 0x001 then w (quayOf g)
  else if n = 0x002 then w (quayOf g / 4)
  else if n = 0x003 then w (dieOf (quayOf g))
  else if n = 0x004 then w s.modid
  else if n = 0x005 then w a.part
  else if n = 0x006 then w (if isPilot g then 0 else 1)
  else if n = 0x007 then w Config.stepping
  else if n = 0x010 then s.cycleOf g
  else if n = 0x011 then a.regs.instret
  else if n = 0x020 then a.trap.tvec
  else if n = 0x021 then a.trap.tepc
  else if n = 0x022 then a.trap.tcause
  else if n = 0x023 then a.trap.tval
  else if n = 0x024 then a.trap.trec
  else if n = 0x025 then a.strip.spc
  else if n = 0x026 then w a.trap.ien.toNat
  else if n = 0x027 then w (s.ipend g)
  else if n = 0x028 then a.trap.tmcmp
  else if n = 0x100 then w (a.strip.vl.toNat + a.strip.pad.toNat * 2 ^ 32)
  else if n = 0x101 then w a.strip.vtypeReg
  else if n = 0x102 then w (if a.strip.shut then 0 else (a.strip.vlmaxOf a.strip.vtype.toNat).getD 0)
  else if n = 0x103 then w a.strip.vlen
  else if n = 0x104 then w a.strip.vlcap.toNat
  else if n = 0x105 then w (a.strip.live.toNat + a.strip.quads.toNat * 2 ^ 32)
  else if n = 0x106 then w a.strip.segm.toNat
  else if n = 0x107 then w a.strip.ephm.toNat
  else if n = 0x108 then w (bit a.strip.isOpen 0 + bit a.strip.susp 1 + bit a.strip.lpend 2 + bit a.strip.ppend 3
      + bit a.strip.noabort 4 + (granules a.strip.buf).length * 2 ^ 16)
  else if n = 0x109 then a.strip.cutcnt
  else if n = 0x10A then a.strip.abortcnt
  else if n = 0x200 then w a.fp.frm.toNat
  else if n = 0x201 then w a.fp.fflags.toNat
  else if n = 0x202 then a.fp.srseed
  else if n = 0x203 then a.fp.srbase
  else if n = 0x204 then a.fp.srstep
  else if n = 0x205 then a.fp.qparm
  else if 0x300 ≤ n ∧ n ≤ 0x30F then (q.berths.toList.getD (n - 0x300) {}).bcfg
  else if 0x310 ≤ n ∧ n ≤ 0x31F then (q.berths.toList.getD (n - 0x310) {}).bstr
  else if 0x320 ≤ n ∧ n ≤ 0x322 then q.whash.toList.getD (n - 0x320) 0
  else if n = 0x323 then q.wbconf
  else if n = 0x324 then q.wecc
  else if n = 0x325 then w (q.ownedBits (fun o => o = g) + q.ownedBits (fun _ => true) * 2 ^ 16)
  else if n = 0x400 then w tlen
  else if n = 0x401 then w (bit q.tile.tpol 0)
  else if n = 0x402 then w q.tile.tflags.toNat
  else if 0x410 ≤ n ∧ n ≤ 0x417 then w (q.tile.tshp.toList.getD (n - 0x410) 0).toNat
  else if n = 0x500 then w q.walk.gtrap.toNat
  else if n = 0x501 then w ((List.range 16).foldl (fun acc k =>
      acc + bit ((q.walk.slots.toList.getD k none).isSome) k) 0)
  else if 0x510 ≤ n ∧ n ≤ 0x51F then q.walk.gspill.toList.getD (n - 0x510) 0
  else if n = 0x600 then w (a.task.qmin + a.task.qpref * 16 + popCount a.strip.quads.toNat 8 * 2 ^ 8)
  else if n = 0x601 then a.task.taskid
  else if n = 0x602 then w (a.task.prio + a.task.effPrio * 4)
  else if n = 0x603 then a.task.bartime
  else if n = 0x604 then a.task.parkcnt
  else if 0x700 ≤ n ∧ n ≤ 0x703 then a.trap.wpa.toList.getD (n - 0x700) 0
  else if 0x704 ≤ n ∧ n ≤ 0x707 then a.trap.wpm.toList.getD (n - 0x704) 0
  else if n = 0x708 then w (bit a.trap.inh 0 + bit a.trap.wsup 1)
  else if n = 0x709 then a.trap.wsupc
  else if 0x710 ≤ n ∧ n ≤ 0x717 then p.hwca.toList.getD (n - 0x710) 0
  else if 0x718 ≤ n ∧ n ≤ 0x71F then p.hwcm.toList.getD (n - 0x718) 0
  else if n = 0x720 then s.rsvacc
  else 0

/-! ### Writes -/

/-- The parity of a number. -/
def parity (n : Nat) : Bool := decide (popCount n 22 % 2 = 1)

/-- The six masks that whash registers hold (R224). -/
def whashMasks (v : List Word) : List Nat :=
  v.flatMap (fun x => [x.toNat % 2 ^ 22, x.toNat / 2 ^ 32 % 2 ^ 22])

/-- Legality of the masks (R220): bits [5:0] zero, and no non-empty sum of them is zero. -/
def whashLegal (ms : List Nat) : Bool :=
  ms.all (fun m => decide (m % 64 = 0))
  && (List.range 64).all (fun k => decide (k = 0) ||
    decide (ms.zipIdx.foldl (fun acc x => if k.testBit x.2 then acc ^^^ x.1 else acc) 0 ≠ 0))

/-- The source address of an element of a copy (R233). -/
def Copy.srcOf (c : Copy) (k : Nat) : Addr :=
  match c.kind with
  | .gthw | .gthv _ => c.src + BitVec.ofInt 72 (c.rows.getD k 0 * c.sstr)
  | .sctw => c.src + BitVec.ofInt 72 ((k : Int) * c.dstr)
  | .bcpy => c.src + BitVec.ofInt 72 ((k : Int) * c.sstr)

/-- The destination address of an element, for a copy that writes memory or a Wharf. -/
def Copy.dstOf (c : Copy) (k : Nat) : Option Addr :=
  match c.kind with
  | .gthw | .bcpy => some (c.dst + BitVec.ofInt 72 ((k : Int) * c.dstr))
  | .sctw => some (c.dst + BitVec.ofInt 72 (c.rows.getD k 0 * c.sstr))
  | .gthv _ => none

/-- Whether an address lies in the Wharf of a Quay as that Quay names it (R157). -/
def inWharf (q : Nat) (a : Addr) : Bool := decide (winOf a = 2 ∨ (winOf a = 3 ∧ (offOf a).toNat / 2 ^ 22 = q))

/-- Whether a row of a copy of a Quay that has not landed lies in its Wharf (R221). -/
def Copy.touches (q : Nat) (c : Copy) : Bool :=
  (List.range c.count).any (fun k => !c.landed.contains k
    && (inWharf q (c.srcOf k) || (match c.dstOf k with | some a => inWharf q a | none => false)))

/-- Whether a copy of a Quay touches its Wharf (R221). -/
def State.wharfBusy (s : State) (q : Nat) : Bool :=
  (s.qy q).berths.toList.any (fun b => b.copies.any (Copy.touches q)) || (s.qy q).tcopies.any (fun c => c.2.touches q)

/-- Performs the stores to a Quay's Wharf that are outstanding. -/
def State.performWharf (s : State) (q : Nat) : State :=
  s.agents.foldl (fun s a =>
    if a.2.mem.queue.any (fun p => p.bytes.any (fun b => decide (b.1.space = .wharf q))) then s.drainQueue a.1 else s) s

/-- A write of a whash register begins to wait (R221): the accesses that are outstanding are performed, those that arrive from now on are
held. -/
def State.holdWharf (s : State) (q : Nat) : State :=
  if (s.qy q).whold then s else (s.performWharf q).modQy q (fun y => { y with whold := true })

/-- A legal write of a whash register (R221): the stores that are outstanding are performed, then every Wharf byte takes an unspecified
value with consistent ECC, every poison bit clears, and the accesses that were held go on. -/
def State.whashSet (s : State) (q ix : Nat) (v : Word) : State :=
  if h : ix < 3 then
    let s := s.performWharf q
    let left := (s.qy q).hashPend.filter (fun x => !decide (x = (ix, v)))
    (s.modQy q (fun y => { y with
      whash := y.whash.set ix v h, wharf := [], poison := [], ue := [], ce := [], whold := left.isSome, hashPend := left
      epoch := some (s.freeOf (s.ctxOf (s.quayAgent q))) })).useFreeOf (s.ctxOf (s.quayAgent q))
  else s

/-- The die that is the home of a physical address (R399). -/
def homeDie (pa : Nat) : Nat := pa / 2 ^ 38 % 8

/-- The key of the home die of a physical address: a die of this module, or one of another. -/
def State.homeKey (s : State) (pa : Nat) : Nat := if pa / 2 ^ 44 = s.modid then homeDie pa else 8 + pa / 2 ^ 38

/-- A write of hwcaN (R351): the address is checked as a store; the comparator of the line's home die must be the
partition's, or on another module that of the member of its domain group there, which has told of its allotment (HWC_ALLOT) and is told
of the write. -/
def writeHwca (is : Issue) (k : Nat) (v : Word) : M Unit := fun s =>
  let p := (s.ag is.g).part
  match s.xlate (s.actor is.g) (v.setWidth 72) Acc.store with
  | .error (.trap c sub) => .error (.trap (memTrap c sub (v.setWidth 72)) none)
  | .error .ats => .ok ((), s)
  | .ok h =>
    let d := s.homeKey h.place.addr
    let c := (s.die d).comp.toList.getD k {}
    let mask := (s.part p).hwcm.toList.getD k 0
    if c.part = some p ∧ (devAt h.place.addr).isNone then
      let s := s.modDie d (fun x => { x with comp := setIx x.comp k { c with line := some (h.place.addr / 64), mask := mask, addr := none } })
      let s := if d < 8 then s else
        s.sendTo (h.place.addr / 2 ^ 44) (.arm (s.part p).group (s.part p).groupKey k h.place.addr mask.toNat v.toNat)
      .ok ((), s.modPart p (fun x => { x with hwca := setIx x.hwca k v, hwDie := setIx x.hwDie k (some d) }))
    else .ok ((), s.countRsv)

/-- A write of hwcmN (R351): it reaches the comparator that hwcaN selected, or any allotted one before that (log entry 16). -/
def State.writeHwcm (s : State) (g k : Nat) (v : Word) : State :=
  let p := (s.ag g).part
  let x := s.part p
  let mine (d : Nat) : Bool := decide (((s.die d).comp.toList.getD k {}).part = some p)
  let ok := match x.hwDie.toList.getD k none with
    | some d => mine d
    | none => (List.range 8).any mine
  if ok then
    let s := s.modPart p (fun x => { x with hwcm := setIx x.hwcm k v })
    match x.hwDie.toList.getD k none with
    | some d =>
      let c := (s.die d).comp.toList.getD k {}
      let s := s.modDie d (fun y => { y with comp := setIx y.comp k { c with mask := v } })
      (match c.line with
      | some line => if d < 8 then s else
          s.sendTo (64 * line / 2 ^ 44) (.arm x.group x.groupKey k (64 * line) v.toNat (x.hwca.toList.getD k 0).toNat)
      | none => s)
    | none => s
  else s.countRsv

/-- The effect of a write of the bits a register holds, by an agent. -/
def csrSet (is : Issue) (n : Nat) (v : Word) : M Unit :=
  let g := is.g
  let q := quayOf g
  let tr (f : TrapRegs → TrapRegs) : M Unit := modA is (fun a => a.modTrap f)
  let st (f : Strip → Strip) : M Unit := modA is (fun a => a.modStrip f)
  let fp (f : FpRegs → FpRegs) : M Unit := modA is (fun a => { a with fp := f a.fp })
  let qy (f : Quay → Quay) : M Unit := modify (fun s => s.modQy q f)
  let rsv : M Unit := modify State.countRsv
  if n = 0x020 then tr (fun t => { t with tvec := v })
  else if n = 0x021 then tr (fun t => { t with tepc := v })
  else if n = 0x022 then tr (fun t => { t with tcause := v })
  else if n = 0x023 then tr (fun t => { t with tval := v })
  else if n = 0x026 then tr (fun t => { t with ien := v.setWidth 2 })
  else if n = 0x028 then tr (fun t => { t with tmcmp := v })
  else if n = 0x104 then st (fun t => { t with vlcap := v.setWidth 32 })
  else if n = 0x106 then st (fun t => { t with
    segm := if 12 ≤ v.toNat % 16 then BitVec.ofNat 5 (v.toNat % 16) else v.setWidth 5 })
  else if n = 0x107 then st (fun t => { t with ephm := v.setWidth 48 })
  else if n = 0x200 then if 6 ≤ v.toNat then rsv else fp (fun f => { f with frm := v.setWidth 3 })
  else if n = 0x201 then fp (fun f => { f with fflags := v.setWidth 5 })
  else if n = 0x202 then fp (fun f => { f with srseed := v })
  else if n = 0x203 then fp (fun f => { f with srbase := v })
  else if n = 0x204 then fp (fun f => { f with srstep := v })
  else if n = 0x205 then fp (fun f => { f with
    qparm := if v.toNat % 2 = 1 ∨ 46 < v.toNat % 64 then BitVec.ofNat 64 (putBits v.toNat 6 1 0) else v })
  else if 0x300 ≤ n ∧ n ≤ 0x30F then qy (fun y => { y with
    berths := setIx y.berths (n - 0x300) { y.berths.toList.getD (n - 0x300) {} with bcfg := v } })
  else if 0x310 ≤ n ∧ n ≤ 0x31F then qy (fun y => { y with
    berths := setIx y.berths (n - 0x310) { y.berths.toList.getD (n - 0x310) {} with bstr := v } })
  else if 0x320 ≤ n ∧ n ≤ 0x322 then do
    let s ← get
    if !whashLegal (whashMasks ((s.qy q).whash.toList.set (n - 0x320) v)) then rsv
    else set (s.whashSet q (n - 0x320) v)
  else if n = 0x323 then qy (fun y => { y with wbconf := v })
  else if n = 0x401 then qy (fun y => { y with tile := { y.tile with tpol := v.getLsbD 0 } })
  else if n = 0x402 then qy (fun y => { y with tile := { y.tile with tflags := v.setWidth 5 } })
  else if 0x410 ≤ n ∧ n ≤ 0x417 then qy (fun y => { y with tile := { y.tile with
    tshp := setIx y.tile.tshp (n - 0x410) (v.setWidth 24) } })
  else if n = 0x500 then qy (fun y => { y with walk := { y.walk with gtrap := v.setWidth 16 } })
  else if 0x510 ≤ n ∧ n ≤ 0x51F then qy (fun y => { y with walk := { y.walk with
    gspill := setIx y.walk.gspill (n - 0x510) v } })
  else if n = 0x603 then modA is (fun a => { a with task := { a.task with bartime := v } })
  else if 0x700 ≤ n ∧ n ≤ 0x703 then tr (fun t => { t with wpa := setIx t.wpa (n - 0x700) v })
  else if 0x704 ≤ n ∧ n ≤ 0x707 then tr (fun t => { t with wpm := setIx t.wpm (n - 0x704) v })
  else if n = 0x708 then tr (fun t => { t with inh := v.getLsbD 0, wsup := v.getLsbD 1 })
  else if 0x710 ≤ n ∧ n ≤ 0x717 then writeHwca is (n - 0x710) v
  else if 0x718 ≤ n ∧ n ≤ 0x71F then modify (fun s => s.writeHwcm g (n - 0x718) v)
  else pure ()

/-- Whether a write of a hash register has to wait for the Wharf of a Quay to be idle (R221). -/
def State.whashWaits (s : State) (q ix : Nat) (v : Word) : Bool :=
  s.wharfBusy q && whashLegal (whashMasks ((s.qy q).whash.toList.set ix v))

/-- A write of a control register, field by field (R10, R63): a read-only one is ignored, an unassigned one is ignored and
counted, a non-zero write to RZ bits is ignored and counted; ipend accepts writes of its HOST bit, so its RZ bits [63:2] count. A legal
write of the Wharf's hash waits first, and the accesses that arrive meanwhile are held (R221). DESIGN CHOICE (log entry 75): a write that
both sets RZ bits and holds a value that is itself ignored and counted (R130, R220, R351) is counted for each. -/
def csrWrite (is : Issue) (n : Nat) (v : Word) : M Unit := do
  if !csrAssigned n then modify State.countRsv
  else if n = 0x027 then
    if v.toNat / 4 ≠ 0 then modify State.countRsv
    if v.getLsbD 1 then modA is (fun a => a.modTrap (fun t => { t with irq := false }))
  else if csrReadOnly n then pure ()
  else
    let x := v &&& BitVec.ofNat 64 (csrMask n)
    if 0x320 ≤ n ∧ n ≤ 0x322 ∧ (← get).whashWaits (quayOf is.g) (n - 0x320) x then
      modify (fun s => s.holdWharf (quayOf is.g))
      retryLater
    if v &&& ~~~ (BitVec.ofNat 64 (csrMask n)) ≠ 0 then modify State.countRsv
    csrSet is n x

end Sys2Proof.Machine
end

