-- ==== Sys2Proof/Machine/Scalar.lean ====
section
/-! DEFINITION. Integer arithmetic, branches and jumps, address arithmetic (R47-R54, R61). -/

namespace Sys2Proof.Machine

/-- The outcome of a meaning. -/
abbrev Out := Host.Outcome State Fault Refusal

/-! ### ALU and ALUI (R47, R48) -/

/-- s[sd] := f(s[sa], s[sb]). -/
def alu (d a b : Fin 32) (f : Word → Word → Word) (is : Issue) : M Unit :=
  modA is (fun x => x.ws d (f (x.rs a) (x.rs b)))

/-- s[sd] := f(s[sa], y), y the signed immediate narrowed to 64 bits. -/
def aluI (d a : Fin 32) (i : BitVec 13) (f : Word → Word → Word) (is : Issue) : M Unit :=
  modA is (fun x => x.ws d (f (x.rs a) (BitVec.ofInt 64 (is.immS 13 i.toNat))))

/-- A shift by an immediate, which must lie in 0-63 before any narrowing. -/
def shiftI (d a : Fin 32) (i : BitVec 13) (word : Nat) (f : Word → Word → Word) (is : Issue) : M Unit :=
  if 63 < is.immU 13 i.toNat then trap { cause := Cause.ill, sub := 4, val := BitVec.ofNat 64 word }
  else modA is (fun x => x.ws d (f (x.rs a) (BitVec.ofNat 64 (is.immU 13 i.toNat))))

/-- The shift amount: bits [5:0]. -/
def shamt (y : Word) : Nat := y.toNat % 64
/-- SLL. -/
def opSll (x y : Word) : Word := x <<< shamt y
/-- SRL. -/
def opSrl (x y : Word) : Word := x >>> shamt y
/-- SRA. -/
def opSra (x y : Word) : Word := x.sshiftRight (shamt y)
/-- SLT. -/
def opSlt (x y : Word) : Word := if x.slt y then 1 else 0
/-- SLTN. -/
def opSltn (x y : Word) : Word := if x.ult y then 1 else 0
/-- MIN. -/
def opMin (x y : Word) : Word := if x.slt y then x else y
/-- MAX. -/
def opMax (x y : Word) : Word := if x.slt y then y else x
/-- MINN. -/
def opMinn (x y : Word) : Word := if x.ult y then x else y
/-- MAXN. -/
def opMaxn (x y : Word) : Word := if x.ult y then y else x
/-- The number of leading zeros of a pattern of `w` bits. -/
def leadZeros (w n : Nat) : Nat := if n = 0 then w else w - 1 - Nat.log2 n

/-! ### MULDIV (R50) -/

/-- MUL. -/
def opMul (x y : Word) : Word := x * y
/-- MULH. -/
def opMulh (x y : Word) : Word := BitVec.ofInt 64 (x.toInt * y.toInt / 2 ^ 64)
/-- MULHN. -/
def opMulhn (x y : Word) : Word := BitVec.ofNat 64 (x.toNat * y.toNat / 2 ^ 64)
/-- DIV. -/
def opDiv (x y : Word) : Word := if y = 0 then BitVec.allOnes 64 else BitVec.ofInt 64 (x.toInt.tdiv y.toInt)
/-- DIVN. -/
def opDivn (x y : Word) : Word := if y = 0 then BitVec.allOnes 64 else BitVec.ofNat 64 (x.toNat / y.toNat)
/-- REM. -/
def opRem (x y : Word) : Word := if y = 0 then x else BitVec.ofInt 64 (x.toInt - y.toInt * x.toInt.tdiv y.toInt)
/-- REMN. -/
def opRemn (x y : Word) : Word := if y = 0 then x else BitVec.ofNat 64 (x.toNat - y.toNat * (x.toNat / y.toNat))

/-! ### Branches and jumps (R51-R54, R353) -/

/-- The target of an offset field: words from the governed word. -/
def Issue.target (is : Issue) (w f : Nat) : Word := is.at_ + BitVec.ofInt 64 (4 * is.immS w f)

/-- Goes to a target; the branch ring records the kind. -/
def goTo (is : Issue) (t : Word) (kind : Nat) : M Unit := modA is (fun x => (x.branchRecord is.pc t kind).setPc t)

/-- A branch. -/
def branch (a b : Fin 32) (o : BitVec 13) (c : Word → Word → Bool) (is : Issue) : M Unit := fun s =>
  if c ((s.ag is.g).rs a) ((s.ag is.g).rs b) then goTo is (is.target 13 o.toNat) 0 s else .ok ((), s)

/-- The return address of a call. -/
def Issue.link (is : Issue) : Addr := (is.at_ + 4).setWidth 72

/-- JR and CALLR: the target is read before a14 is written. A window byte other than 0x00 faults at the fetch: the PC keeps
only the offset, so the model takes WINDOW FETCH at the target (log entry 15). -/
def jumpReg (a : Fin 16) (call : Bool) (is : Issue) : M Unit := fun s =>
  let t := (s.ag is.g).ra a
  if t.toNat % 4 ≠ 0 then .error (.trap { cause := Cause.align, val := offOf t, win := winOf t } none)
  else
    let s := if call then s.modAg is.g (fun x => x.wa 14 is.link) else s
    let s := s.modAg is.g (fun x => { x with marks := { x.marks with jumpWin := winOf t } })
    goTo is (offOf t) (if call then 1 else 2) s

/-- ADD (R47). -/
def execAdd (d a b : Fin 32) (s : State) : Out :=
  s.run (.add d a b) .both (alu d a b (· + ·))

/-- SUB (R47). -/
def execSub (d a b : Fin 32) (s : State) : Out :=
  s.run (.sub d a b) .both (alu d a b (· - ·))

/-- AND (R47). -/
def execAnd (d a b : Fin 32) (s : State) : Out :=
  s.run (.and d a b) .both (alu d a b (· &&& ·))

/-- OR (R47). -/
def execOr (d a b : Fin 32) (s : State) : Out :=
  s.run (.or d a b) .both (alu d a b (· ||| ·))

/-- XOR (R47). -/
def execXor (d a b : Fin 32) (s : State) : Out :=
  s.run (.xor d a b) .both (alu d a b (· ^^^ ·))

/-- SLL (R47). -/
def execSll (d a b : Fin 32) (s : State) : Out :=
  s.run (.sll d a b) .both (alu d a b opSll)

/-- SRL (R47). -/
def execSrl (d a b : Fin 32) (s : State) : Out :=
  s.run (.srl d a b) .both (alu d a b opSrl)

/-- SRA (R47). -/
def execSra (d a b : Fin 32) (s : State) : Out :=
  s.run (.sra d a b) .both (alu d a b opSra)

/-- SLT (R47). -/
def execSlt (d a b : Fin 32) (s : State) : Out :=
  s.run (.slt d a b) .both (alu d a b opSlt)

/-- SLTN (R47). -/
def execSltn (d a b : Fin 32) (s : State) : Out :=
  s.run (.sltn d a b) .both (alu d a b opSltn)

/-- MIN (R47). -/
def execMin (d a b : Fin 32) (s : State) : Out :=
  s.run (.min d a b) .both (alu d a b opMin)

/-- MAX (R47). -/
def execMax (d a b : Fin 32) (s : State) : Out :=
  s.run (.max d a b) .both (alu d a b opMax)

/-- MINN (R47). -/
def execMinn (d a b : Fin 32) (s : State) : Out :=
  s.run (.minn d a b) .both (alu d a b opMinn)

/-- MAXN (R47). -/
def execMaxn (d a b : Fin 32) (s : State) : Out :=
  s.run (.maxn d a b) .both (alu d a b opMaxn)

/-- CLZ (R47). -/
def execClz (d a : Fin 32) (s : State) : Out :=
  s.run (.clz d a) .both (alu d a 0 (fun x _ => BitVec.ofNat 64 (leadZeros 64 x.toNat)))

/-- POPC (R47). -/
def execPopc (d a : Fin 32) (s : State) : Out :=
  s.run (.popc d a) .both (alu d a 0 (fun x _ => BitVec.ofNat 64 (popCount x.toNat 64)))

/-- ADDI (R48). -/
def execAddi (d a : Fin 32) (i : BitVec 13) (s : State) : Out :=
  s.run (.addi d a i) .both (aluI d a i (· + ·))

/-- ANDI (R48). -/
def execAndi (d a : Fin 32) (i : BitVec 13) (s : State) : Out :=
  s.run (.andi d a i) .both (aluI d a i (· &&& ·))

/-- ORI (R48). -/
def execOri (d a : Fin 32) (i : BitVec 13) (s : State) : Out :=
  s.run (.ori d a i) .both (aluI d a i (· ||| ·))

/-- XORI (R48). -/
def execXori (d a : Fin 32) (i : BitVec 13) (s : State) : Out :=
  s.run (.xori d a i) .both (aluI d a i (· ^^^ ·))

/-- SLTI (R48). -/
def execSlti (d a : Fin 32) (i : BitVec 13) (s : State) : Out :=
  s.run (.slti d a i) .both (aluI d a i opSlt)

/-- SLLI (R48). -/
def execSlli (d a : Fin 32) (i : BitVec 13) (s : State) : Out :=
  s.run (.slli d a i) .both (shiftI d a i ((encodeNat (.slli d a i)).getD 0) opSll)

/-- SRLI (R48). -/
def execSrli (d a : Fin 32) (i : BitVec 13) (s : State) : Out :=
  s.run (.srli d a i) .both (shiftI d a i ((encodeNat (.srli d a i)).getD 0) opSrl)

/-- SRAI (R48). -/
def execSrai (d a : Fin 32) (i : BitVec 13) (s : State) : Out :=
  s.run (.srai d a i) .both (shiftI d a i ((encodeNat (.srai d a i)).getD 0) opSra)

/-- LI (R49). -/
def execLi (d : Fin 32) (i : BitVec 21) (s : State) : Out :=
  s.run (.li d i) .both (fun is => modA is (fun x => x.ws d (BitVec.ofInt 64 (is.immS 21 i.toNat))))

/-- MUL (R50). -/
def execMul (d a b : Fin 32) (s : State) : Out :=
  s.run (.mul d a b) .both (alu d a b opMul)

/-- MULH (R50). -/
def execMulh (d a b : Fin 32) (s : State) : Out :=
  s.run (.mulh d a b) .both (alu d a b opMulh)

/-- MULHN (R50). -/
def execMulhn (d a b : Fin 32) (s : State) : Out :=
  s.run (.mulhn d a b) .both (alu d a b opMulhn)

/-- DIV (R50). -/
def execDiv (d a b : Fin 32) (s : State) : Out :=
  s.run (.div d a b) .both (alu d a b opDiv)

/-- DIVN (R50). -/
def execDivn (d a b : Fin 32) (s : State) : Out :=
  s.run (.divn d a b) .both (alu d a b opDivn)

/-- REM (R50). -/
def execRem (d a b : Fin 32) (s : State) : Out :=
  s.run (.rem d a b) .both (alu d a b opRem)

/-- REMN (R50). -/
def execRemn (d a b : Fin 32) (s : State) : Out :=
  s.run (.remn d a b) .both (alu d a b opRemn)

/-- BEQ (R51). -/
def execBeq (a b : Fin 32) (o : BitVec 13) (s : State) : Out :=
  s.run (.beq a b o) .both (branch a b o (fun x y => decide (x = y)))

/-- BNE (R51). -/
def execBne (a b : Fin 32) (o : BitVec 13) (s : State) : Out :=
  s.run (.bne a b o) .both (branch a b o (fun x y => decide (x ≠ y)))

/-- BLT (R51). -/
def execBlt (a b : Fin 32) (o : BitVec 13) (s : State) : Out :=
  s.run (.blt a b o) .both (branch a b o (fun x y => x.slt y))

/-- BGE (R51). -/
def execBge (a b : Fin 32) (o : BitVec 13) (s : State) : Out :=
  s.run (.bge a b o) .both (branch a b o (fun x y => !x.slt y))

/-- BLTN (R51). -/
def execBltn (a b : Fin 32) (o : BitVec 13) (s : State) : Out :=
  s.run (.bltn a b o) .both (branch a b o (fun x y => x.ult y))

/-- BGEN (R51). -/
def execBgen (a b : Fin 32) (o : BitVec 13) (s : State) : Out :=
  s.run (.bgen a b o) .both (branch a b o (fun x y => !x.ult y))

/-- J (R52). -/
def execJ (o : BitVec 26) (s : State) : Out :=
  s.run (.j o) .both (fun is => goTo is (is.target 26 o.toNat) 1)

/-- CALL (R52). -/
def execCall (o : BitVec 26) (s : State) : Out :=
  s.run (.call o) .both (fun is => do modA is (fun x => x.wa 14 is.link); goTo is (is.target 26 o.toNat) 1)

/-- JR (R53). -/
def execJr (a : Fin 16) (s : State) : Out :=
  s.run (.jr a) .both (jumpReg a false)

/-- CALLR (R53). -/
def execCallr (a : Fin 16) (s : State) : Out :=
  s.run (.callr a) .both (jumpReg a true)

/-! ### ADDR (R61) -/

/-- AADD (R61). -/
def execAadd (d a : Fin 16) (b : Fin 32) (s : State) : Out :=
  s.run (.aadd d a b) .both (fun is => modA is (fun x => x.wa d (x.ra a + BitVec.ofInt 72 (x.rs b).toInt)))

/-- AADDI (R61). -/
def execAaddi (d a : Fin 16) (i : BitVec 13) (s : State) : Out :=
  s.run (.aaddi d a i) .both (fun is => modA is (fun x =>
    x.wa d (x.ra a + BitVec.ofInt 72 (BitVec.ofInt 64 (is.immS 13 i.toNat)).toInt)))

/-- ASET (R61). -/
def execAset (d : Fin 16) (a : Fin 32) (i : BitVec 13) (s : State) : Out :=
  s.run (.aset d a i) .both (fun is => modA is (fun x =>
    x.wa d (mkAddr (is.immU 13 i.toNat % 2 ^ 8) ((x.rs a).toNat + is.immU 13 i.toNat / 2 ^ 8))))

/-- ALO (R61). -/
def execAlo (d : Fin 32) (a : Fin 16) (s : State) : Out :=
  s.run (.alo d a) .both (fun is => modA is (fun x => x.ws d (offOf (x.ra a))))

/-- AWN (R61). -/
def execAwn (d : Fin 32) (a : Fin 16) (s : State) : Out :=
  s.run (.awn d a) .both (fun is => modA is (fun x => x.ws d (BitVec.ofNat 64 (winOf (x.ra a)))))

/-- ADIFF (R61). -/
def execAdiff (d : Fin 32) (a b : Fin 16) (s : State) : Out :=
  s.run (.adiff d a b) .both (fun is => modA is (fun x => x.ws d (offOf (x.ra a - x.ra b))))

/-! ### PFX (R27-R31) -/

/-- PFX: a word of a group is taken and nothing retires; a third word traps PFXCHAIN (R30). -/
def execPfx (i : BitVec 26) (s : State) : Out :=
  let is := s.issue
  if 2 ≤ is.pfx.length then
    .next (s.takeTrap is { cause := Cause.ill, sub := 8, val := BitVec.ofNat 64 ((encodeNat (.pfx i)).getD 0) })
  else .next (s.modAg is.g (fun a => { a with regs := { a.regs with pfx := a.regs.pfx ++ [i] } }))

end Sys2Proof.Machine
end

