-- ==== Sys2Proof/Machine/System.lean ====
section
/-! DEFINITION. SYS (R62-R68, R354, R356) and FENCE and VLSYNC (R216-R218). -/

namespace Sys2Proof.Machine

/-! ### CSR instructions (R62-R64) -/

/-- The rule of a CSR instruction: PRIV and AGENT report the number; a write outside the strip's own set cuts (R87). -/
def csrRule (n : Nat) (writes : Bool) : Rule :=
  { pilot := !csrHartOnly n, hart := !csrPilotOnly n && !(writes && csrPilotWrite n)
    priv := csrPriv n, cut := writes && !csrStripSet n, tval := some n }

/-- NOTOWNER on a berth register of a berth the hart does not own (R224, R229). -/
def csrOwner (is : Issue) (n : Nat) : M Unit := fun s =>
  let k := n % 16
  if 0x300 ≤ n ∧ n ≤ 0x31F ∧ ((s.qy (quayOf is.g)).berths.toList.getD k {}).owner ≠ some is.g then
    .error (.trap { cause := Cause.berthMisuse, sub := 1, val := BitVec.ofNat 64 k, detail := k } none)
  else .ok ((), s)

/-- One indivisible read-modify-write of a control register: `f` gives the value to write, if any. -/
def csrBody (d : Fin 32) (n : Nat) (f : Word → Option Word) (is : Issue) : M Unit := do
  csrOwner is n
  let old := (← get).csr is.g n
  match f old with
  | some v => csrWrite is n v
  | none => pure ()
  setS is d old

/-- CSRR (R63). -/
def execCsrr (d : Fin 32) (c : BitVec 12) (s : State) : Out :=
  s.run (.csrr d c) (csrRule c.toNat false) (csrBody d c.toNat (fun _ => none))

/-- CSRW (R63). -/
def execCsrw (d a : Fin 32) (c : BitVec 12) (s : State) : Out :=
  s.run (.csrw d a c) (csrRule c.toNat true) (csrBody d c.toNat (fun _ => some ((s.ag s.cur).rs a)))

/-- CSRS (R63). -/
def execCsrs (d a : Fin 32) (c : BitVec 12) (s : State) : Out :=
  s.run (.csrs d a c) (csrRule c.toNat (a ≠ 0))
    (csrBody d c.toNat (fun old => if a = 0 then none else some (old ||| (s.ag s.cur).rs a)))

/-- CSRC (R63). -/
def execCsrc (d a : Fin 32) (c : BitVec 12) (s : State) : Out :=
  s.run (.csrc d a c) (csrRule c.toNat (a ≠ 0))
    (csrBody d c.toNat (fun old => if a = 0 then none else some (old &&& ~~~ (s.ag s.cur).rs a)))

/-! ### SVC, ERET, HALT, NOP, BRK, TRCM -/

/-- SVC (R65): after its cut it traps, with the resume point past it. -/
def execSvc (c : BitVec 12) (s : State) : Out :=
  s.run (.svc c) .cutting (fun is =>
    trap { cause := Cause.svc, val := c.setWidth 64, tepc := some (is.at_ + 4), suspends := true })

/-- BRK (R66). -/
def execBrk (c : BitVec 12) (s : State) : Out :=
  s.run (.brk c) .cutting (fun is =>
    trap { cause := Cause.brk, val := c.setWidth 64, tepc := some is.pc, suspends := true })

/-- ERET (R67, R338). Where it makes a cut (R91), what its commit needs is there first. -/
def execEret (s : State) : Out :=
  s.run .eret { priv := true } (fun is => do
    let a ← getA is
    whenM (a.trap.inh && a.strip.isOpen && a.strip.susp && decide (a.trap.tepc ≠ a.strip.spc)) (commitM is)
    modify (fun s => s.eret is))

/-- HALT (R356): it completes; under a debugger the agent halts, otherwise a Report is posted and the task is parked. -/
def haltBody (is : Issue) : M Unit := fun s =>
  let a := s.ag is.g
  let s1 := (s.modAg is.g (fun a => a.modTrap (fun t => { t with tepc := is.at_ + 4 })))
  if (s.ctx a.ctx).debugger then
    .ok ((), ((s1.retire is true).sendHalt is 2).haltAt is.g (is.at_ + 4) Cause.debugHalt false)
  else if !s.copiesDone is.g then .error (.again s)
  else
    let r := s.record is { cause := Cause.debugHalt, sub := 2 } fInfo
    let s2 := s1.retire is true
    let s3 := s2.report a.part r
    let s4 := s3.modAg is.g (fun a => { a with
      status := .halted, strip := { a.strip with susp := a.strip.isOpen }
      marks := { a.marks with byDebug := false } })
    .ok ((), s4.saveAgent is.g .halted Cause.debugHalt)

/-- HALT (R356). -/
def execHalt (s : State) : Out := s.run .halt { priv := true, cut := true } haltBody

/-- NOP (R67). -/
def execNop (s : State) : Out := s.run .nop .both (fun _ => pure ())

/-- TRCM (R354). -/
def execTrcm (a : Fin 32) (c : BitVec 12) (s : State) : Out :=
  s.run (.trcm a c) .both (fun is => modify (fun s => s.memRecord is.g (((s.ag is.g).rs a).setWidth 72) 6 0 c.toNat))

/-! ### FENCE and VLSYNC -/

/-- Whether an order releases. -/
def ordRel : MOrd → Bool
  | .release | .acqRel => true
  | .relaxed | .acquire => false

/-- FENCE (R217). Reads take effect when they execute, so an acquire has nothing left to wait for but the Pilot's tile reads, which
are made (log entry 17). At system scope every FENCE sends the lines of the issuer's write-combining buffer (R178). -/
def execFence (o : MOrd) (sc : Scope) (s : State) : Out :=
  s.run (.fence o sc) .cutting (fun is => do
    if ordRel o then releaseM is sc
    else
      whenM (isPilot is.g && decide (o = .acquire)) (releaseTiles is)
      whenM (decide (sc = .system)) (modify (fun s => s.drainWc is.g)))

/-- VLSYNC (R218): the hart's own committed stores are performed; it is not cumulative and forces no tile read. -/
def execVlsync (sc : Scope) (s : State) : Out :=
  s.run (.vlsync sc) .hartOnly (fun is =>
    if sc = .hart then pure () else modify (fun s => s.releaseStores is.g sc))

end Sys2Proof.Machine
end

