-- ==== Sys2Proof/Machine/Mem.lean ====
section
/-! DEFINITION. Scalar loads and stores (R55-R57), atomics (R58-R60, R364, R365), MEMCTL (R188-R193), and home comparators as
a write meets them (R351). -/

namespace Sys2Proof.Machine

/-! ### Home comparators (R351) -/

/-- The BMASK bits that a write of `n` bytes at a physical address hits. -/
def compBits (c : Comparator) (pa n : Nat) : Nat :=
  (List.range n).foldl (fun acc j =>
    let b := pa + j
    if c.line = some (b / 64) ∧ b % 64 / 16 = c.mask.toNat / 2 ^ 16 % 4 ∧ c.mask.toNat.testBit (b % 16)
    then acc ||| 2 ^ (b % 16) else acc) 0

/-- What a record of a comparator reports as its VALUE (R388): the address register as it stands at the match, with the line offset of
the first matched byte. -/
def State.hitValue (s : State) (p k : Nat) (c : Comparator) (bits : Nat) : Word :=
  BitVec.ofNat 64 ((c.addr.getD ((s.part p).hwca.toList.getD k 0)).toNat / 64 * 64 + 16 * (c.mask.toNat / 2 ^ 16 % 4)
    + ((List.range 16).find? (fun b => bits.testBit b)).getD 0)

/-- Notes a write performed at its home that belongs to an atomic or to a BTE copy, of a writer on a module (0xFFFF for the host): one hit
for each comparator it matches. -/
def State.noteWrite (s : State) (kind slot mod quay : Nat) (bte : Bool) (p : Place) (n : Nat) : State :=
  if p.space ≠ .fabric ∨ p.addr / 2 ^ 44 ≠ s.modid ∨ (devAt p.addr).isSome then s else
  let d := homeDie p.addr
  (List.range 8).foldl (fun s k =>
    let c := (s.die d).comp.toList.getD k {}
    let bits := compBits c p.addr n
    match c.part with
    | none => s
    | some o =>
      if c.mask.toNat.testBit 18 ∧ c.mask.toNat.testBit (if bte then 19 else 20) ∧ bits ≠ 0 then
        s.modDie d (fun x => { x with
          hits := x.hits ++ [⟨o, s.hitValue o k c bits, k, kind, slot, bits, mod, quay, p.addr / 64, x.cycle⟩] })
      else s) s

/-! ### Loads and stores (R55-R57) -/

/-- The effective address of format M. -/
def Issue.ea (is : Issue) (base : Addr) (off size : Nat) : Addr := base + BitVec.ofInt 72 (is.immS 13 off * size)

/-- Whether an access meets a page of MTYPE device (R87). -/
def State.isDevice (s : State) (g : Nat) (a : Addr) : Bool :=
  match s.xlate (s.actor g) a {} with
  | .ok h => decide (h.mtype = 2)
  | .error _ => false

/-- Whether a store of `n` bytes would overflow the strip buffer (R85). -/
def State.overflows (s : State) (g : Nat) (vas : List Nat) : Bool :=
  let b := (s.ag g).strip.buf
  (s.ag g).inStrip && decide (2048 < ((granules b) ++ vas.map (· / 8)).dedup.length)

/-- The rule of a scalar load. DESIGN CHOICE (log entry 76): whether an access meets a device page is found by its translation alone, so a
misaligned access to a device page makes its cut before it traps ALIGN. -/
def State.loadRule (s : State) (a : Addr) : Rule := { cut := s.isDevice s.cur a }

/-- The rule of a scalar store. -/
def State.storeRule (s : State) (a : Addr) (n : Nat) : Rule :=
  { cut := s.isDevice s.cur a
    pre := s.overflows s.cur ((List.range n).map (fun k => (a + BitVec.ofNat 72 k).toNat)) }

/-- A scalar load of `n` bytes. -/
def loadM (is : Issue) (a : Addr) (n : Nat) : M Nat := do
  let h ← access is a n Acc.load
  let x ← readHit is a h n
  modify (fun s => s.memRecord is.g a 0 (Nat.log2 n) 1)
  return x

/-- A scalar store of units that together make `n` bytes. -/
def storeM (is : Issue) (a : Addr) (n : Nat) (units : List (Nat × List Byte)) : M Unit := do
  let h ← access is a n Acc.store
  storeUnits is a h units
  modify (fun s => s.memRecord is.g a 1 (Nat.log2 n) 1)

/-- The address of a load or store of the current agent. -/
def State.eaOf (s : State) (a : Fin 16) (o : BitVec 13) (size : Nat) : Addr :=
  s.issue.ea ((s.ag s.cur).ra a) o.toNat size

/-- A load into a scalar register: the read takes place even when it is s0 (R56). -/
def State.load (s : State) (i : Instr) (d : Fin 32) (a : Fin 16) (o : BitVec 13) (n : Nat) (f : Nat → Word) : Out :=
  s.run i (s.loadRule (s.eaOf a o n)) (fun is => do
    let x ← loadM is (s.eaOf a o n) n
    setS is d (f x))

/-- A store from a scalar register. -/
def State.store (s : State) (i : Instr) (d : Fin 32) (a : Fin 16) (o : BitVec 13) (n : Nat) : Out :=
  s.run i (s.storeRule (s.eaOf a o n) n) (fun is =>
    storeM is (s.eaOf a o n) n [(0, leBytes n ((s.ag s.cur).rs d).toNat)])

/-- LDB (R55). -/
def execLdb (d : Fin 32) (a : Fin 16) (o : BitVec 13) (s : State) : Out :=
  s.load (.ldb d a o) d a o 1 (fun x => BitVec.ofInt 64 (sext 8 x))
/-- LDH (R55). -/
def execLdh (d : Fin 32) (a : Fin 16) (o : BitVec 13) (s : State) : Out :=
  s.load (.ldh d a o) d a o 2 (fun x => BitVec.ofInt 64 (sext 16 x))
/-- LDW (R55). -/
def execLdw (d : Fin 32) (a : Fin 16) (o : BitVec 13) (s : State) : Out :=
  s.load (.ldw d a o) d a o 4 (fun x => BitVec.ofInt 64 (sext 32 x))
/-- LDD (R55). -/
def execLdd (d : Fin 32) (a : Fin 16) (o : BitVec 13) (s : State) : Out :=
  s.load (.ldd d a o) d a o 8 (BitVec.ofNat 64)
/-- LDBN (R55). -/
def execLdbn (d : Fin 32) (a : Fin 16) (o : BitVec 13) (s : State) : Out :=
  s.load (.ldbn d a o) d a o 1 (BitVec.ofNat 64)
/-- LDHN (R55). -/
def execLdhn (d : Fin 32) (a : Fin 16) (o : BitVec 13) (s : State) : Out :=
  s.load (.ldhn d a o) d a o 2 (BitVec.ofNat 64)
/-- LDWN (R55). -/
def execLdwn (d : Fin 32) (a : Fin 16) (o : BitVec 13) (s : State) : Out :=
  s.load (.ldwn d a o) d a o 4 (BitVec.ofNat 64)

/-- LDA (R55). -/
def execLda (d a : Fin 16) (o : BitVec 13) (s : State) : Out :=
  s.run (.lda d a o) (s.loadRule (s.eaOf a o 16)) (fun is => do
    let x ← loadM is (s.eaOf a o 16) 16
    setR is d (BitVec.ofNat 72 x))

/-- STB (R55). -/
def execStb (d : Fin 32) (a : Fin 16) (o : BitVec 13) (s : State) : Out := s.store (.stb d a o) d a o 1
/-- STH (R55). -/
def execSth (d : Fin 32) (a : Fin 16) (o : BitVec 13) (s : State) : Out := s.store (.sth d a o) d a o 2
/-- STW (R55). -/
def execStw (d : Fin 32) (a : Fin 16) (o : BitVec 13) (s : State) : Out := s.store (.stw d a o) d a o 4
/-- STD (R55). -/
def execStd (d : Fin 32) (a : Fin 16) (o : BitVec 13) (s : State) : Out := s.store (.std d a o) d a o 8

/-- The units of STA (R198). -/
def staUnits (x : Addr) : List (Nat × List Byte) :=
  (0, leBytes 8 (offOf x).toNat) :: (8, leBytes 1 (winOf x)) :: (List.range 7).map (fun k => (9 + k, [0]))

/-- STA (R55). -/
def execSta (d a : Fin 16) (o : BitVec 13) (s : State) : Out :=
  s.run (.sta d a o) (s.storeRule (s.eaOf a o 16) 16) (fun is =>
    storeM is (s.eaOf a o 16) 16 (staUnits ((s.ag s.cur).ra d)))

/-! ### Atomics (R58, R59) -/

/-- What an atomic does. -/
inductive AtomOp where
  | add | swp | cas | min | max | and | or | xor
deriving DecidableEq, Repr

/-- The new value of a location of `w` bits: `old` its value, `x` the operand, `y` the value of a compare-and-swap, with the
comparison signed or not; none when a compare failed. -/
def AtomOp.new (op : AtomOp) (w : Nat) (signed : Bool) (old x y : Nat) : Option Nat :=
  let lt (p q : Nat) : Bool := if signed then decide (sext w p < sext w q) else decide (p < q)
  match op with
  | .add => some ((old + x) % 2 ^ w)
  | .swp => some x
  | .cas => if old = x then some y else none
  | .min => some (if lt x old then x else old)
  | .max => some (if lt old x then x else old)
  | .and => some (old &&& x)
  | .or => some (old ||| x)
  | .xor => some (old ^^^ x)

/-- Whether window 0x01 carries the operation (R60, R186). -/
def AtomOp.host : AtomOp → Option HostOp
  | .add => some .fetchAdd | .swp => some .swap | .cas => some .cas
  | .min | .max | .and | .or | .xor => none

/-- The access of an atomic (R169): host space refuses the operations it does not carry. -/
def AtomOp.acc (op : AtomOp) : Acc := { r := true, w := true, hostBad := op.host.isNone }

/-- A free proxy mailbox entry (R365). -/
def Part.freeEntry (p : Part) : Option Nat := (List.range 64).find? (fun k => decide ((p.mail.toList.getD k {}).state = 0))

/-- The bytes of a partition's mailbox and of its proxy area: 64 entries of 64 and 64 element lists of 1,024 (R365, R384). -/
def mailSize : Nat := 4096 + 65536
/-- Where a partition's mailbox lies in its reserved memory, and its proxy area after it (R365, R371): which place of those where both fit
is open (log entry 51). -/
def State.mailAt (s : State) (p : Nat) : Nat :=
  (s.part p).resBase + 64 * (Config.mailOffset p % (((s.part p).resSize - mailSize) / 64 + 1))
/-- The place of the element list of a mailbox entry: e × 1,024 in the proxy area (R384). -/
def State.listAt (s : State) (p k : Nat) : Place := ⟨.fabric, s.mailAt p + 4096 + 1024 * k⟩

/-- The operand of a host atomic in an element list: the addend, or the new value (R384). -/
def HostAtomic.operand (h : HostAtomic) : Nat := match h.op with | .cas => h.y | .fetchAdd | .swap => h.x
/-- Its compare value, zero for the operations but CAS. -/
def HostAtomic.compare (h : HostAtomic) : Nat := match h.op with | .cas => h.x | .fetchAdd | .swap => 0

/-- The 64 bytes of a mailbox entry (R365). -/
def MailEntry.bytes (e : MailEntry) : List Byte :=
  leBytes 1 e.state ++ leBytes 1 e.op ++ leBytes 1 e.width ++ leBytes 1 e.count ++ leBytes 4 e.seq ++ leBytes 8 e.va ++ leBytes 4 e.list
  ++ leBytes 44 0

/-- Puts a mailbox entry, and its bytes into the partition's reserved memory. -/
def State.putEntry (s : State) (p k : Nat) (e : MailEntry) : State :=
  (s.modPart p (fun x => { x with mail := setIx x.mail k e })).writeBytes (placeBytes ⟨.fabric, s.mailAt p + 64 * k⟩ e.bytes)

/-- Takes the old values of a mailbox entry that is done out of its element list, and frees the entry (R365, R384). -/
def takeEntry (is : Issue) : M Unit := modify (fun s =>
  match (s.ag is.g).marks.entry with
  | none => s
  | some k =>
    let p := (s.ag is.g).part
    let e := (s.part p).mail.toList.getD k {}
    if e.state ≠ 2 then s
    else
      let olds := e.elems.zipIdx.map (fun x => (x.1.elem, leNat (s.bytes ((s.listAt p k).plus (32 * x.2)) 16) % 2 ^ (8 * x.1.width)))
      (s.putEntry p k {}).modAg is.g (fun a => { a with marks := { a.marks with entry := none, done := a.marks.done ++ olds } }))

/-- The MSI-X vectors of a function: 2,048 of a physical one, 16 of a virtual one (R359). -/
def msixVectors (f : Nat) : Nat := if f = 0 ∨ f = 385 then 2048 else 16

/-- Raises an MSI-X vector of a function. -/
def State.raise (s : State) (x : Nat × Nat) : State :=
  if x.2 < msixVectors x.1 then s.modLink (fun l => { l with msix := l.msix ++ [x] }) else s

/-- The function and the MSI-X vector that firmware raises for a partition's mailbox (R365). -/
def State.proxyVector (s : State) (p : Nat) : Nat × Nat := (s.partFunc p, if (s.part p).vfs = 0 then 64 + p else 1)

/-- Sends the next AtomicOp to window 0x01 (R60, R186), or, when it cannot be carried, takes HOST_ATOMIC_UR (R364), or posts
it with the host elements that follow it into the proxy mailbox (R365, R384). `keep` writes the old values of the elements
already performed. -/
def hostNext (is : Issue) (h : HostAtomic) (run : List HostAtomic) (keep : M Unit) : M Unit := fun s =>
  let ag := s.ag is.g
  let lack := s.link.atomlack.toNat.testBit (s.portOfAgent is.g)
  let els := (h :: run).take 32
  match ag.marks.proxySeq with
  | some seq =>
    match (s.part ag.part).freeEntry with
    | none => .error (.again s)
    | some k =>
      let e : MailEntry :=
        { state := 1, op := (match h.op with | .fetchAdd => 0 | .swap => 1 | .cas => 2), width := h.width
          count := els.length, seq := seq, va := h.va, list := 1024 * k, elems := els, agent := is.g }
      let s := (s.putEntry ag.part k e).writeBytes (placeBytes (s.listAt ag.part k)
        (els.flatMap (fun x => leBytes 16 x.operand ++ leBytes 16 x.compare)))
      let s := s.raise (s.proxyVector ag.part)
      .error (.wait (.proxy k) (s.modAg is.g (fun a => { a with marks := { a.marks with entry := some k } })))
  | none =>
    if ag.marks.ur ∨ lack then
      let t : TrapInfo := { cause := Cause.hostAtomicUr, sub := if ag.marks.ur then 1 else 2, val := BitVec.ofNat 64 h.va, win := 1
                            detail := s.portOfAgent is.g + h.elem * 2 ^ 32, suspends := true }
      if (s.part ag.part).haproxy then
        let s' := s.postReplay is.g { s.record is t 0 with flags := fPrecise, pc2 := 0 }
        .error (.wait (s'.ag is.g).status s')
      else
        match keep s with
        | .ok r => .error (.trap t (some r.2))
        | .error e => .error e
    else .error (.wait (.atomic h) s)

/-- Sends a request to the home of a place on another module, under a tag of its own, and waits for the answer (R380). -/
def askHome {α : Type} (elem : Nat) (p : Place) (x : Nat → LinkMsg) : M α := fun s =>
  let n := s.link.nextTag
  .error (.wait (.remote n elem (x n)) ((s.modLink (fun l => { l with nextTag := (n + 1) % 2 ^ 28 })).sendTo (p.addr / 2 ^ 44) (x n)))

/-- The number of an atomic in a message (R380), its comparison signed or not. -/
def AtomOp.number (op : AtomOp) (signed : Bool) : Nat :=
  match op with
  | .add => 0 | .swp => 1 | .cas => 2
  | .min => if signed then 3 else 4
  | .max => if signed then 5 else 6
  | .and => 7 | .or => 8 | .xor => 9

/-- The operation of an atomic in a message, and whether it compares as signed. -/
def msgOp (fn : Nat) : AtomOp × Bool :=
  match fn with
  | 0 => (.add, false) | 1 => (.swp, false) | 2 => (.cas, false) | 3 => (.min, true) | 4 => (.min, false) | 5 => (.max, true) | 6 => (.max, false)
  | 7 => (.and, false) | 8 => (.or, false) | _ => (.xor, false)

/-- An atomic at a place of this module's fabric or a Wharf: read, modify, write as one (R59). -/
def State.atomicAt (s : State) (g : Nat) (p : Place) (n : Nat) (new : Nat → Option Nat) : Nat × State :=
  let s := s.drainFor g (p.span n)
  match p.space, devAt p.addr with
  | .fabric, some _ =>
    let old := leNat ((p.span n).map (fun q => s.devByte q.addr))
    (old, match new old with | some v => s.deviceStore g p (leBytes n v) | none => s)
  | _, _ =>
    let old := leNat (s.bytes p n)
    (old, match new old with
      | some v => (s.writeBytes (placeBytes p (leBytes n v))).noteWrite (writerOf g).1 (writerOf g).2 s.modid (quayOf g) false p n
      | none => s)

/-- Reads for an atomic meet poison and errors as a load does (R169 item 6). -/
def atomicRead (a : Addr) (p : Place) (n : Nat) : M Unit := fun s =>
  match s.badRead p n with
  | none => .ok ((), s.scrub p n)
  | some (true, q) => .error (.trap { cause := Cause.mchkUe, sub := 4, val := offOf a, win := winOf a } (some (s.setPoison q)))
  | some (false, _) => .error (.trap { cause := Cause.mchkPoison, val := offOf a, win := winOf a } none)

/-- The checked elements of an atomic instruction: those of its first attempt, when it has waited since; what it has still to write is
then held against the watch ranges again, which TLDs may have entered meanwhile (R215, R256). `first` runs on the first attempt, past
the checks. -/
def planM (is : Issue) (n : Nat) (k : Acc) (es : List Elem) (first : List Place → M Unit) :
    M (List (Nat × Addr × Place)) := do
  takeEntry is
  match (← getA is).marks.plan with
  | p :: ps =>
    let done := (← getA is).marks.done
    watchM is (((p :: ps).filter (fun e => (Assoc.find? e.1 done).isNone && decide (e.2.2.space ≠ .host))).map (·.2.2))
    return p :: ps
  | [] =>
    let hs ← accessElems is n n k es
    for x in es.zip hs do
      if x.2.place.space ≠ .host then atomicRead x.1.addr x.2.place n
    watchM is (hs.map (·.place))
    first (hs.map (·.place))
    let plan := (es.zip hs).map (fun x => (x.1.ix, x.1.addr, x.2.place))
    modA is (fun a => { a with marks := { a.marks with plan := plan } })
    return plan

/-- Performs the elements of a plan that have not been performed, one by one in their order (R185); one whose home is on another module is
asked of it (R380). -/
def performAtoms (is : Issue) (n : Nat) (op : AtomOp) (signed : Bool) (x y : Nat → Nat) (keep : M Unit) :
    List (Nat × Addr × Place) → M Unit
  | [] => pure ()
  | e :: es => do
    match Assoc.find? e.1 (← getA is).marks.done with
    | some _ => performAtoms is n op signed x y keep es
    | none =>
      match op.host, e.2.2.space with
      | some hop, .host =>
        let ops (q : Nat × Addr × Place) : HostAtomic := ⟨hop, n, (offOf q.2.1).toNat, q.2.2.addr, x q.1, y q.1, q.1⟩
        modify (fun s => s.drainFor is.g (e.2.2.span n))
        hostNext is (ops e) ((es.takeWhile (fun q => decide (q.2.2.space = .host))).map ops) keep
      | _, _ =>
        if (← get).away e.2.2 then
          modify (fun s => s.drainFor is.g (e.2.2.span n))
          askHome e.1 e.2.2 (fun t => .amo t (op.number signed) (writerOf is.g).1 (writerOf is.g).2 (quayOf is.g) e.2.2.addr n (x e.1) (y e.1))
        else
          let r := (← get).atomicAt is.g e.2.2 n (fun old => op.new (8 * n) signed old (x e.1) (y e.1))
          set (r.2.modAg is.g (fun a => { a with marks := { a.marks with done := a.marks.done ++ [(e.1, r.1)] } }))
          performAtoms is n op signed x y keep es

/-- AMO (R58-R60). -/
def amo (i : Instr) (op : AtomOp) (d : Fin 32) (a : Fin 16) (b : Fin 32) (w : Bool) (o : MOrd) (sc : Scope) (s : State) : Out :=
  s.run i .cutting (fun is => do
    let ag ← getA is
    let n := if w then 4 else 8
    let ea := ag.ra a
    let x := (ag.rs b).toNat % 2 ^ (8 * n)
    let e := (ag.rs d).toNat % 2 ^ (8 * n)
    let plan ← planM is n op.acc [⟨noElem, ea⟩] (fun _ => if ordRel o then releaseM is sc else pure ())
    performAtoms is n op true (fun _ => if op = .cas then e else x) (fun _ => x) (pure ())
      (plan.map (fun p => (0, p.2)))
    let old := Assoc.get 0 0 (← getA is).marks.done
    modify (fun s => s.memRecord is.g ea 2 (Nat.log2 n) 1)
    setS is d (BitVec.ofInt 64 (sext (8 * n) old)))

/-- AMOADD (R58). -/
def execAmoadd (d : Fin 32) (a : Fin 16) (b : Fin 32) (w : Bool) (o : MOrd) (sc : Scope) (s : State) : Out :=
  amo (.amoadd d a b w o sc) .add d a b w o sc s
/-- AMOSWP (R58). -/
def execAmoswp (d : Fin 32) (a : Fin 16) (b : Fin 32) (w : Bool) (o : MOrd) (sc : Scope) (s : State) : Out :=
  amo (.amoswp d a b w o sc) .swp d a b w o sc s
/-- AMOCAS (R58). -/
def execAmocas (d : Fin 32) (a : Fin 16) (b : Fin 32) (w : Bool) (o : MOrd) (sc : Scope) (s : State) : Out :=
  amo (.amocas d a b w o sc) .cas d a b w o sc s
/-- AMOMIN (R58). -/
def execAmomin (d : Fin 32) (a : Fin 16) (b : Fin 32) (w : Bool) (o : MOrd) (sc : Scope) (s : State) : Out :=
  amo (.amomin d a b w o sc) .min d a b w o sc s
/-- AMOMAX (R58). -/
def execAmomax (d : Fin 32) (a : Fin 16) (b : Fin 32) (w : Bool) (o : MOrd) (sc : Scope) (s : State) : Out :=
  amo (.amomax d a b w o sc) .max d a b w o sc s
/-- AMOAND (R58). -/
def execAmoand (d : Fin 32) (a : Fin 16) (b : Fin 32) (w : Bool) (o : MOrd) (sc : Scope) (s : State) : Out :=
  amo (.amoand d a b w o sc) .and d a b w o sc s
/-- AMOOR (R58). -/
def execAmoor (d : Fin 32) (a : Fin 16) (b : Fin 32) (w : Bool) (o : MOrd) (sc : Scope) (s : State) : Out :=
  amo (.amoor d a b w o sc) .or d a b w o sc s
/-- AMOXOR (R58). -/
def execAmoxor (d : Fin 32) (a : Fin 16) (b : Fin 32) (w : Bool) (o : MOrd) (sc : Scope) (s : State) : Out :=
  amo (.amoxor d a b w o sc) .xor d a b w o sc s

/-! ### MEMCTL (R188-R193) -/

/-- The physical pages of a region of `k` pages, each translated as a load and SEALABLE; or the first trap. -/
def State.sealPages (s : State) (is : Issue) (base : Addr) : Nat → Except Stop (List Nat)
  | 0 => .ok []
  | k + 1 =>
    match s.xlate (s.actor is.g) base Acc.load with
    | .error (.trap c sub) => .error (.trap (memTrap c sub base) none)
    | .error .ats => .error (.wait (.ats (offOf base).toNat) s)
    | .ok h =>
      match h.leaf with
      | some l =>
        if pteBit l.pte 5 then
          match s.sealPages is (base + BitVec.ofNat 72 (2 ^ 16)) k with
          | .ok ps => .ok (h.place.addr / 2 ^ 16 :: ps)
          | .error e => .error e
        else .error (.trap { cause := Cause.perm, sub := 0x09, val := offOf base, win := winOf base } none)
      | none => .error (.trap { cause := Cause.perm, sub := 0x09, val := offOf base, win := winOf base } none)

/-- Drops the cached translations that map any of some physical pages (R189). -/
def State.dropPages (s : State) (pages : List Nat) : State :=
  { s with tlb := s.tlb.filter (fun t =>
      !(pages.any (fun p => decide (ptePa t.pte / t.size * t.size ≤ p * 2 ^ 16 ∧ p * 2 ^ 16 < ptePa t.pte / t.size * t.size + t.size)))) }

/-- Performs the queued stores of every agent that write some physical pages. -/
def State.performPages (s : State) (pages : List Nat) : State :=
  s.agents.foldl (fun s x => s.drainFor x.1 ((x.2.mem.queue.flatMap (fun p => p.bytes.map (·.1))).filter
    (fun p => decide (p.space = .fabric) && pages.contains (p.addr / 2 ^ 16)))) s

/-- Whether some hart holds a buffered granule in some physical pages. -/
def State.pagesBuffered (s : State) (pages : List Nat) : Bool :=
  s.agents.any (fun x => x.2.strip.buf.any (fun b => decide (b.place.space = .fabric) && pages.contains (b.place.addr / 2 ^ 16)))

/-- SEAL (R189). The region is entered at the sealing point, in the first attempt that passes the checks, in the table of each home module
of its pages; the instruction completes once the stores accepted before have been performed. -/
def execSeal (d : Fin 32) (a : Fin 16) (s : State) : Out :=
  s.run (.seal d a) .cutting (fun is => do
    let ag ← getA is
    let b := ag.ra a
    let len := (ag.rs d).toNat
    let bad (c sub : Nat) : TrapInfo := { cause := c, sub := sub, val := offOf b, win := winOf b }
    if ag.marks.phase = 0 then
      if b.toNat % 2 ^ 16 ≠ 0 ∨ len % 2 ^ 16 ≠ 0 ∨ len = 0 then trap (bad Cause.align 0)
      if winOf b ≠ 0 then trap (bad Cause.perm 0x09)
      let pages ← (fun s => match s.sealPages is b (len / 2 ^ 16) with
        | .ok ps => .ok (ps, s)
        | .error e => .error e : M (List Nat))
      let s ← get
      if pages.any (fun p => s.fw.seals.any (fun z => z.pages.contains p)) then trap (bad Cause.perm 0x0B)
      let homes := (pages.map (· / 2 ^ 28)).dedup
      if homes.any (fun m => decide (256 ≤ (s.fw.seals.filter (fun z => z.home = m)).length)) then trap (bad Cause.perm 0x0A)
      let entry (m : Nat) : Seal := { part := ag.part, base := b, home := m, pages := pages.filter (fun p => p / 2 ^ 28 = m) }
      let s := { s with fw := { s.fw with seals := s.fw.seals ++ homes.map entry } }
      set ((s.dropPages pages).modAg is.g (fun x => { x with marks := { x.marks with phase := 1 } }))
    let s ← get
    let pages := (s.fw.seals.filter (fun z => decide (z.part = ag.part ∧ z.base = b))).flatMap (·.pages)
    if s.pagesBuffered pages then retryLater else set (s.performPages pages))

/-- UNSEAL (R191). -/
def execUnseal (a : Fin 16) (s : State) : Out :=
  s.run (.unseal a) .cutting (fun is => do
    let ag ← getA is
    let b := ag.ra a
    let s ← get
    if s.fw.seals.any (fun z => decide (z.part = ag.part ∧ z.base = b)) then
      set { s with fw := { s.fw with seals := s.fw.seals.filter (fun z => !decide (z.part = ag.part ∧ z.base = b)) } }
    else trap { cause := Cause.perm, sub := 0x0C, val := offOf b, win := winOf b })

/-- PREF (R192): a hint that changes no architectural state. -/
def execPref (h : Bool) (a : Fin 16) (o : BitVec 13) (s : State) : Out := s.run (.pref h a o) .both (fun _ => pure ())

/-- FLUSH (R193): checked as a load; on a normal page of window 0x00 the home holds the latest value once the issuer's performed stores to
the line have reached it, since memory has one copy here; in window 0x01 the issuer's write-combining line is sent. -/
def execFlush (a : Fin 16) (o : BitVec 13) (s : State) : Out :=
  s.run (.flush a o) .both (fun is => do
    let ea := s.eaOf a o 64
    let s ← get
    match s.xlate (s.actor is.g) ea Acc.load with
    | .error (.trap c sub) => trap (memTrap c sub ea)
    | .error .ats => waitIn (.ats (offOf ea).toNat)
    | .ok h =>
      let s := s.keep (s.actor is.g) h
      let line : Place := ⟨h.place.space, h.place.addr / 64 * 64⟩
      set (if h.place.space = .host ∨ (h.place.space = .fabric ∧ h.mtype = 0) then s.drainFor is.g (line.span 64) else s))

end Sys2Proof.Machine
end

