-- ==== Sys2Proof/Machine/VMem.lean ====
section
/-! DEFINITION. Vector loads and stores (R173-R179), packed sparse blocks (R181-R183), VAMO (R184-R187). -/

namespace Sys2Proof.Machine

/-! ### Addresses (R175) -/

/-- How the elements of a vector access are addressed. -/
inductive VMode where
  | unit (b : Fin 32)
  | stride (b : Fin 32)
  | index (b : Fin 48) (scale : Bool)
deriving DecidableEq, Repr

/-- The index vector of a mode. -/
def VMode.regs : VMode → List (Fin 48)
  | .unit _ => []
  | .stride _ => []
  | .index b _ => [b]

/-- The elements of an access with their addresses. -/
def VMode.elems (is : Issue) (mode : VMode) (a : Fin 16) (w : Nat) (es : List Nat) : M (List Elem) := do
  let base ← getR is a
  match mode with
  | .unit b =>
    let off := (← getS is b).toInt
    return es.map (fun i => ⟨i, base + BitVec.ofInt 72 (off + (i * w / 8 : Nat))⟩)
  | .stride b =>
    let st := (← getS is b).toInt
    return es.map (fun i => ⟨i, base + BitVec.ofInt 72 ((i : Int) * st)⟩)
  | .index b scale =>
    let xs ← vread is b w es
    return es.map (fun i => ⟨i, base + BitVec.ofInt 72 (sext w (xs i) * (if scale ∧ 8 ≤ w then (w / 8 : Nat) else 1))⟩)

/-- The bytes of an element access. -/
def elemBytes (w : Nat) : Nat := max 1 (w / 8)

/-- The memory record of a vector access; with no active element the address is a free value (R353). -/
def vecRecord (is : Issue) (es : List Elem) (kind w : Nat) : M Unit := fun s =>
  match es with
  | e :: _ => .ok ((), s.memRecord is.g e.addr kind (Nat.log2 (elemBytes w)) es.length)
  | [] => .ok ((), (s.memRecord is.g ((Config.freeWord (s.freeOf (s.ctxOf is.g))).setWidth 72) kind (Nat.log2 (elemBytes w)) 0).useFreeOf (s.ctxOf is.g))

/-! ### Loads (R176, R179) -/

/-- Counts a vector load whose elements have not all returned (R238). -/
def countLoad (is : Issue) : M Unit := modA is (fun a => { a with mem := { a.mem with loadsOut := a.mem.loadsOut + 1 } })

/-- Reads the elements of checked accesses, in order. -/
def readElems (is : Issue) (n : Nat) : List (Elem × Hit) → M (List (Nat × Nat))
  | [] => return []
  | x :: xs => do
    let v ← readHit is x.1.addr x.2 n
    let vs ← readElems is n xs
    return (x.1.ix, v) :: vs

/-- The part of an element's bytes that the element is: a q4 element is a nibble. -/
def elemOfBytes (w i x : Nat) : Nat := if w = 4 then x / 2 ^ (4 * (i % 2)) % 16 else x

/-- VLD, VLDS and VLDX. -/
def vload (ok : Nat → Bool) (mode : VMode) (d : Fin 48) (a : Fin 16) (m : Option (Fin 12)) (is : Issue) : M Unit := do
  let p ← vstart is ok mode.regs (some d) m
  let w := p.1.w
  let n := elemBytes w
  let es ← mode.elems is a w p.2
  let hs ← accessElems is n n Acc.vload es
  let vs ← readElems is n (es.zip hs)
  vwrite is d w (vs.map (fun v => (v.1, elemOfBytes w v.1 v.2)))
  countLoad is
  vecRecord is es 3 w

/-- The trap of an element on a device page, or none. -/
def State.devicePage (s : State) (is : Issue) (n : Nat) (e : Elem) : Option TrapInfo :=
  match s.check is e.addr n n Acc.vload e.ix with
  | .bad t => if t.cause = Cause.perm ∧ t.sub = 7 then some t else none
  | .ok _ | .ats _ | .held => none

/-- The hits of the elements after the first up to the first that fails a check, and that one's index; a watch match traps, and so does
a device page, whichever element lies on it: also one above the element that would trim (R89, R179, R350). -/
def State.checkRest (s : State) (is : Issue) (n : Nat) : List Elem → Except Stop (List Hit × Option Nat)
  | [] => .ok ([], none)
  | e :: es =>
    match s.check is e.addr n n Acc.vload e.ix with
    | .ats va => .error (.wait (.ats va) s)
    | .held => .error (.again s)
    | .bad t =>
      if t.cause = Cause.watch ∨ (t.cause = Cause.perm ∧ t.sub = 7) then .error (.trap t none)
      else match es.findSome? (s.devicePage is n) with
      | some u => .error (.trap u none)
      | none => .ok ([], some e.ix)
    | .ok h =>
      match s.checkRest is n es with
      | .ok r => .ok (h :: r.1, r.2)
      | .error x => .error x

/-- Reads elements after the first until one of them meets poison or an error (R179, R180). -/
def readRest (is : Issue) (n : Nat) : List (Elem × Hit) → State → List (Nat × Nat) × Option Nat × State
  | [], s => ([], none, s)
  | x :: xs, s =>
    match readHit is x.1.addr x.2 n s with
    | .ok v =>
      let r := readRest is n xs v.2
      ((x.1.ix, v.1) :: r.1, r.2)
    | .error (.trap _ (some s')) => ([], some x.1.ix, s')
    | .error _ => ([], some x.1.ix, s)

/-- VLDFF (R179). -/
def vloadFF (mode : VMode) (d : Fin 48) (a : Fin 16) (m : Option (Fin 12)) (is : Issue) : M Unit := do
  let p ← vstart is tyINF mode.regs (some d) m
  let w := p.1.w
  let n := elemBytes w
  let es ← mode.elems is a w p.2
  match es with
  | [] => pure ()
  | e :: rest =>
    let s ← get
    let first ← (match s.check is e.addr n n Acc.vload e.ix with
      | .ok h => (pure h : M Hit)
      | _ => fun s => match s.checkElems is n n Acc.vload es with
        | .error x => .error x
        | .ok hs => .ok (hs.headD ⟨⟨.fabric, 0⟩, 0, none⟩, s))
    let r ← (fun s => match s.checkRest is n rest with
      | .ok r => .ok (r, (first :: r.1).foldl (fun s h => s.keep (s.actor is.g) h) s)
      | .error x => .error x : M (List Hit × Option Nat))
    let v ← readHit is e.addr first n
    let q := readRest is n (rest.zip r.1) (← get)
    set q.2.2
    vwrite is d w (((e.ix, v) :: q.1).map (fun v => (v.1, v.2)))
    match (match q.2.1 with | some k => some k | none => r.2) with
    | some k => modA is (fun x => x.modStrip (fun st => { st with vl := BitVec.ofNat 32 k }))
    | none => pure ()
  countLoad is
  vecRecord is es 3 w

/-! ### Stores (R177, R85, R87) -/

/-- A range that a vector store writes: its element, its bytes, its lane slice, and whether the one store that it is part of writes the
whole of its 64-byte granule (R180, R182). -/
structure StoreUnit where
  elem  : Elem
  bytes : List Byte
  slice : Option Nat
  whole : Bool := false
deriving DecidableEq, Repr

/-- The rule of a vector store of some units: it is cut-forcing on a device page and when it alone fills the buffer, and a cut
is made before one that would overflow it (R85, R87). -/
def State.vstoreRule (s : State) (units : Issue → M (List StoreUnit)) : Rule :=
  match units s.issue (s.begin_ s.issue) with
  | .error _ => .vector
  | .ok (us, s') =>
    let dev (u : StoreUnit) : Bool := s'.isDevice s.cur u.elem.addr
    let vas := (us.filter (fun u => !dev u)).flatMap (fun u =>
      (List.range u.bytes.length).map (fun k => (u.elem.addr + BitVec.ofNat 72 k).toNat))
    let alone := decide (2048 < (vas.map (· / 8)).dedup.length)
    { Rule.vector with cut := us.any dev || alone, pre := s.overflows s.cur vas }

/-- Stores checked units: into the buffer, or on a device page at once and one by one (R81, R163), where the last of a store of a whole
granule leaves it without poison (R180). More than fit in the buffer go to the queues at the cut after the instruction (R85). -/
def storeVec (is : Issue) (nt : Bool) : List (StoreUnit × Hit) → M Unit
  | [] => pure ()
  | x :: xs => do
    if x.2.mtype = 2 then modify (fun s =>
      let s := s.deviceStore is.g x.2.place x.1.bytes
      if x.1.whole && decide (x.2.place.addr % 64 = 56) then s.wipe x.2.place else s)
    else
      modA is (fun a => a.modStrip (fun st => { st with
        buf := bufAdd st.buf ((bufBytes x.1.elem.addr x.2 x.1.bytes x.1.slice nt).map (fun b => { b with whole := x.1.whole })) }))
    storeVec is nt xs

/-- A vector store of some units, each of `n` bytes. -/
def vstoreRun (is : Issue) (n al w : Nat) (nt : Bool) (units : Issue → M (List StoreUnit)) : M Unit := do
  let us ← units is
  let hs ← accessElems is n al Acc.store (us.map (·.elem))
  watchM is ((hs.filter (fun h => h.mtype = 2)).map (·.place))
  storeVec is nt (us.zip hs)
  vecRecord is (us.map (·.elem)) 4 w

/-- The zero-point code of a padding element (R138, R177). -/
def zeroCodes (is : Issue) (es : List Nat) : M (Nat → Nat) := do
  let x ← getA is
  let blk := vtBlock x.strip.vtype.toNat
  let gi (i : Nat) : Nat := (x.fp.qparm.toNat / 2 ^ 8 % 2 ^ 7 + i) / blk
  let zs ← vread is (Fin.ofNat 48 (x.fp.qparm.toNat % 64 + 1)) 8 (es.map gi).dedup
  return fun i => zs (gi i)

/-- The units of VST, VSTS and VSTX. -/
def vstUnits (ok : Nat → Bool) (mode : VMode) (d : Fin 48) (a : Fin 16) (m : Option (Fin 12)) (is : Issue) :
    M (List StoreUnit) := do
  needType is ok
  needGroups is (d :: mode.regs)
  let x ← getA is
  let padded : Bool := isQ x.venv.ty && decide (x.strip.pad ≠ 0)
  if padded ∧ !x.fp.qparm.getLsbD 6 then illtype is 7
  if padded then consumeRegs is [(x.fp.qparm.toNat % 64 + 1, x.strip.vlen)]
  let p ← vstart is ok (d :: mode.regs) none m
  let w := p.1.w
  let els ← mode.elems is a w p.2
  let partner (i : Nat) : List Nat := if w = 4 then [i / 2 * 2, i / 2 * 2 + 1] else [i]
  let need := (p.2.flatMap partner).dedup
  let isPad (i : Nat) : Bool := padded && decide (p.1.vl - x.strip.pad.toNat ≤ i)
  let xs ← vread is d w (need.filter (fun i => !isPad i))
  let zs ← (if padded then zeroCodes is (need.filter isPad) else pure (fun _ => 0))
  let code (i : Nat) : Nat := if isPad i then zs i % 2 ^ w else xs i
  let value (i : Nat) : Nat := if w = 4 then code (i / 2 * 2) + 16 * code (i / 2 * 2 + 1) else code i
  return els.map (fun e => { elem := e, bytes := leBytes (elemBytes w) (value e.ix), slice := some ((elemAt x.strip.vlen w e.ix).2 / 256) })

/-- VST, VSTS and VSTX. -/
def vstore (i : Instr) (ok : Nat → Bool) (mode : VMode) (d : Fin 48) (a : Fin 16) (m : Option (Fin 12)) (nt : Bool)
    (s : State) : Out :=
  let units := vstUnits ok mode d a m
  s.run i (s.vstoreRule units) (fun is => do
    let w := (← getA is).venv.w
    vstoreRun is (elemBytes w) (elemBytes w) w nt units)

/-! ### Packed sparse blocks (R181-R183) -/

/-- The bytes of the mask of a packed block of `n` elements. -/
def packedMask (n : Nat) : Nat := 8 * ((n + 63) / 64)
/-- The bytes of the values of a packed block. -/
def packedValues (c w : Nat) : Nat := 8 * ((c * w + 63) / 64)

/-- The 8-byte granules of the bytes that one store writes at an address. -/
def granuleUnits (a : Addr) (bs : List Byte) : List StoreUnit :=
  (List.range (bs.length / 8)).map (fun k =>
    let g := (a.toNat + 8 * k) / 64 * 64
    ⟨⟨noElem, a + BitVec.ofNat 72 (8 * k)⟩, (bs.drop (8 * k)).take 8, none, decide (a.toNat ≤ g ∧ g + 64 ≤ a.toNat + bs.length)⟩)

/-- The units of VSTC. -/
def vstcUnits (d : Fin 48) (a : Fin 16) (b : Fin 32) (m : Option (Fin 12)) (is : Issue) : M (List StoreUnit) := do
  let p ← vstart is tyINF [d] none m
  let base ← getR is a
  if base.toNat % 8 ≠ 0 then trap { cause := Cause.align, val := offOf base, win := winOf base }
  let xs ← vread is d p.1.w p.2
  let stored := p.2.filter (fun i => decide (xs i ≠ 0))
  let c := stored.length
  let size := 8 + packedMask p.1.vl + packedValues c p.1.w
  if (← getS is b).toNat < size then trap { cause := Cause.packedOverrun, sub := 1, val := BitVec.ofNat 64 size }
  let mask := stored.foldl (fun acc i => acc + 2 ^ i) 0
  let vals := stored.zipIdx.foldl (fun acc x => acc + xs x.1 * 2 ^ (x.2 * p.1.w)) 0
  return granuleUnits base (leBytes 4 c ++ leBytes 4 (p.1.ty + p.1.vl * 2 ^ 8) ++ leBytes (packedMask p.1.vl) mask
    ++ leBytes (packedValues c p.1.w) vals)

/-- VSTC (R182). -/
def execVstc (d : Fin 48) (a : Fin 16) (b : Fin 32) (m : Option (Fin 12)) (n : Bool) (s : State) : Out :=
  s.run (.vstc d a b m n) (s.vstoreRule (vstcUnits d a b m)) (fun is => do
    let w := (← getA is).venv.w
    vstoreRun is 8 8 w n (vstcUnits d a b m))

/-- Reads a part of a packed block: each of its granules is checked first. -/
def packedPart (is : Issue) (a : Addr) (n : Nat) : M Nat := do
  let es := (List.range (n / 8)).map (fun k => (⟨noElem, a + BitVec.ofNat 72 (8 * k)⟩ : Elem))
  let hs ← accessElems is 8 8 Acc.vload es
  let vs ← readElems is 8 (es.zip hs)
  return vs.zipIdx.foldl (fun acc x => acc + x.1.2 * 2 ^ (64 * x.2)) 0

/-- VLDC (R183). DESIGN CHOICE (log entry 79): the fields of the header are judged before the mask is checked and read, so a bad format
traps FORMAT even where the mask's bytes would fail their check. -/
def execVldc (d : Fin 48) (a : Fin 16) (b : Fin 32) (m : Option (Fin 12)) (n : Bool) (s : State) : Out :=
  s.run (.vldc d a b m n) .vector (fun is => do
    let p ← vstart is tyINF [] (some d) m
    let w := p.1.w
    let base := (← getR is a) + BitVec.ofInt 72 (← getS is b).toInt
    if base.toNat % 8 ≠ 0 then trap { cause := Cause.align, val := offOf base, win := winOf base }
    let bad : TrapInfo := { cause := Cause.packedOverrun, sub := 2, val := offOf base, win := winOf base }
    let hdr ← packedPart is base 8
    let c := hdr % 2 ^ 32
    let cnt := hdr / 2 ^ 40
    if hdr / 2 ^ 32 % 16 ≠ p.1.ty ∨ hdr / 2 ^ 36 % 16 ≠ 0 then trap bad
    let mask ← packedPart is (base + 8) (packedMask cnt)
    if mask / 2 ^ cnt ≠ 0 ∨ popCount mask cnt ≠ c then trap bad
    let vals ← packedPart is (base + 8 + BitVec.ofNat 72 (packedMask cnt)) (packedValues c w)
    let value (i : Nat) : Nat :=
      if i < cnt ∧ mask.testBit i then bitsOf vals (popCount (mask % 2 ^ i) i * w) w else 0
    vwrite is d w (p.2.map (fun i => (i, value i)))
    countLoad is
    vecRecord is [⟨noElem, base⟩] 3 w)

/-- VLD (R176). -/
def execVld (d : Fin 48) (a : Fin 16) (b : Fin 32) (m : Option (Fin 12)) (n : Bool) (s : State) : Out :=
  s.run (.vld d a b m n) .vector (vload tyAny (.unit b) d a m)

/-- VLDS (R176). -/
def execVlds (d : Fin 48) (a : Fin 16) (b : Fin 32) (m : Option (Fin 12)) (n : Bool) (s : State) : Out :=
  s.run (.vlds d a b m n) .vector (vload tyINF (.stride b) d a m)

/-- VLDX (R176). -/
def execVldx (d : Fin 48) (a : Fin 16) (b : Fin 48) (m : Option (Fin 12)) (n c : Bool) (s : State) : Out :=
  s.run (.vldx d a b m n c) .vector (vload tyINF (.index b c) d a m)

/-- VLDFF (R179). -/
def execVldff (d : Fin 48) (a : Fin 16) (b : Fin 32) (m : Option (Fin 12)) (n : Bool) (s : State) : Out :=
  s.run (.vldff d a b m n) .vector (vloadFF (.unit b) d a m)

/-- VST (R177). -/
def execVst (d : Fin 48) (a : Fin 16) (b : Fin 32) (m : Option (Fin 12)) (n : Bool) (s : State) : Out :=
  vstore (.vst d a b m n) tyAny (.unit b) d a m n s

/-- VSTS (R177). -/
def execVsts (d : Fin 48) (a : Fin 16) (b : Fin 32) (m : Option (Fin 12)) (n : Bool) (s : State) : Out :=
  vstore (.vsts d a b m n) tyINF (.stride b) d a m n s

/-- VSTX (R177). -/
def execVstx (d : Fin 48) (a : Fin 16) (b : Fin 48) (m : Option (Fin 12)) (n c : Bool) (s : State) : Out :=
  vstore (.vstx d a b m n c) tyINF (.index b c) d a m n s

/-! ### VAMO (R184-R187) -/

/-- Location scopes (R185). -/
def State.locScope (s : State) (g : Nat) (p : Place) : Nat :=
  match p.space with
  | .wharf q => if q = quayOf g then 1 else if dieOf q = dieOf (quayOf g) then 2 else 3
  | .fabric => if p.addr / 2 ^ 44 = s.modid then 3 else 4
  | .host => 5

/-- The scope of a number. -/
def scopeOf (n : Nat) : Scope :=
  match n with
  | 0 => .hart | 1 => .quay | 2 => .die | 3 => .module | 4 => .domain | _ => .system

/-- The types VAMO accepts (R184). -/
def tyAtom (pair : Bool) (t : Nat) : Bool := decide (t = 3 ∨ t = 7) || (!pair && decide (t = 2 ∨ t = 6))

/-- VAMO: the operation, and whether it acts on pairs. DESIGN CHOICE (log entry 80): with no active element there is no location, and the
widest location scope is taken as hart scope, so nothing is released (R185). -/
def vamo (op : AtomOp) (pair : Bool) (d : Fin 48) (a : Fin 16) (b : Fin 48) (m : Option (Fin 12)) (o : MOrd) (is : Issue) :
    M Unit := do
  needType is (tyAtom pair)
  let e := (← getA is).venv
  let cas : Bool := decide (op = .cas)
  if cas ∧ 48 < d.val + 2 * e.g then illtype is 4
  let y : Fin 48 := if cas then Fin.ofNat 48 (d.val + e.g) else d
  let p ← vstart is (tyAtom pair) ([d, b] ++ (if cas then [y] else [])) (some d) m false
  let w := p.1.w
  let n := if pair then 16 else w / 8
  let es := if pair then p.2.filter (fun i => decide (i % 2 = 0 ∧ i + 1 < p.1.vl)) else p.2
  let both := if pair then es.flatMap (fun i => [i, i + 1]) else es
  let xs ← vread is d w both
  let ys ← vread is y w both
  let wide (f : Nat → Nat) (i : Nat) : Nat := if pair then f i + f (i + 1) * 2 ^ 64 else f i
  let base ← getR is a
  let ks ← vread is b w es
  let els := es.map (fun i => (⟨i, base + BitVec.ofInt 72 (sext w (ks i))⟩ : Elem))
  let s ← get
  let plan ← planM is n op.acc els (fun ps => if ordRel o then
    releaseM is (scopeOf (ps.foldl (fun acc p => max acc (s.locScope is.g p)) 0)) else pure ())
  let back : M Unit := do
    let done := (← getA is).marks.done
    vwrite is d w (done.flatMap (fun x => if pair then [(x.1, x.2 % 2 ^ 64), (x.1 + 1, x.2 / 2 ^ 64)] else [(x.1, x.2)]))
  performAtoms is n op (isI p.1.ty) (wide xs) (if cas then wide ys else wide xs) back plan
  back
  vecRecord is els 2 (8 * n)

/-- VAMOADD (R184). -/
def execVamoadd (d : Fin 48) (a : Fin 16) (b : Fin 48) (m : Option (Fin 12)) (o : MOrd) (s : State) : Out :=
  s.run (.vamoadd d a b m o) { Rule.vector with cut := true } (vamo .add false d a b m o)

/-- VAMOSWP (R184). -/
def execVamoswp (d : Fin 48) (a : Fin 16) (b : Fin 48) (m : Option (Fin 12)) (o : MOrd) (s : State) : Out :=
  s.run (.vamoswp d a b m o) { Rule.vector with cut := true } (vamo .swp false d a b m o)

/-- VAMOCAS (R184). -/
def execVamocas (d : Fin 48) (a : Fin 16) (b : Fin 48) (m : Option (Fin 12)) (o : MOrd) (s : State) : Out :=
  s.run (.vamocas d a b m o) { Rule.vector with cut := true } (vamo .cas false d a b m o)

/-- VAMOMIN (R184). -/
def execVamomin (d : Fin 48) (a : Fin 16) (b : Fin 48) (m : Option (Fin 12)) (o : MOrd) (s : State) : Out :=
  s.run (.vamomin d a b m o) { Rule.vector with cut := true } (vamo .min false d a b m o)

/-- VAMOMAX (R184). -/
def execVamomax (d : Fin 48) (a : Fin 16) (b : Fin 48) (m : Option (Fin 12)) (o : MOrd) (s : State) : Out :=
  s.run (.vamomax d a b m o) { Rule.vector with cut := true } (vamo .max false d a b m o)

/-- VAMOAND (R184). -/
def execVamoand (d : Fin 48) (a : Fin 16) (b : Fin 48) (m : Option (Fin 12)) (o : MOrd) (s : State) : Out :=
  s.run (.vamoand d a b m o) { Rule.vector with cut := true } (vamo .and false d a b m o)

/-- VAMOOR (R184). -/
def execVamoor (d : Fin 48) (a : Fin 16) (b : Fin 48) (m : Option (Fin 12)) (o : MOrd) (s : State) : Out :=
  s.run (.vamoor d a b m o) { Rule.vector with cut := true } (vamo .or false d a b m o)

/-- VAMOXOR (R184). -/
def execVamoxor (d : Fin 48) (a : Fin 16) (b : Fin 48) (m : Option (Fin 12)) (o : MOrd) (s : State) : Out :=
  s.run (.vamoxor d a b m o) { Rule.vector with cut := true } (vamo .xor false d a b m o)

/-- VAMOCASW (R187). -/
def execVamocasw (d : Fin 48) (a : Fin 16) (b : Fin 48) (m : Option (Fin 12)) (o : MOrd) (s : State) : Out :=
  s.run (.vamocasw d a b m o) { Rule.vector with cut := true } (vamo .cas true d a b m o)

end Sys2Proof.Machine
end

