-- ==== Sys2Proof/Machine/Berth.lean ====
section
/-! DEFINITION. Berths, the pushes of copies (R224-R237) and WAITC (R238, R239). The rows land in the event BTE_ROW. -/

namespace Sys2Proof.Machine

/-! ### Berths and their configuration (R224-R226) -/

/-- A berth of a Quay. -/
def State.berth (s : State) (q n : Nat) : Berth := (s.qy q).berths.toList.getD n {}

/-- Changes a berth. -/
def State.modBerth (s : State) (q n : Nat) (f : Berth → Berth) : State :=
  s.modQy q (fun y => { y with berths := setIx y.berths n (f (y.berths.toList.getD n {})) })

/-- ROWQ of a bcfg value. -/
def rowQ (c : Word) : Nat := c.toNat % 2 ^ 13
/-- CSC. -/
def cscOf (c : Word) : Nat := c.toNat / 2 ^ 13 % 8
/-- WOFF. -/
def wOff (c : Word) : Nat := c.toNat / 2 ^ 16 % 2 ^ 22
/-- WSTR. -/
def wStr (c : Word) : Nat := c.toNat / 2 ^ 38 % 2 ^ 22
/-- SSTR of a bstr value. -/
def sStr (c : Word) : Int := sext 32 c.toNat
/-- DSTR. -/
def dStr (c : Word) : Int := sext 32 (c.toNat / 2 ^ 32)

/-- Whether a copy of a kind has rows of ROWQ units, and whether its Wharf side is a slot of the berth. -/
def CopyKind.rowed : CopyKind → Bool
  | .gthv _ => false
  | _ => true
/-- Whether the slots of the berth are one side of the copy. -/
def CopyKind.slotted : CopyKind → Bool
  | .gthw | .sctw => true
  | _ => false

/-- Whether a push of `e` elements breaks R225. -/
def configBad (k : CopyKind) (c : Word) (e : Nat) : Bool :=
  (k.rowed && decide (rowQ c = 0)) || decide (cscOf c = 0 ∨ 6 ≤ cscOf c)
  || (k.slotted && (decide (wOff c % 8 ≠ 0 ∨ wStr c % 8 ≠ 0)
      || decide (0 < e ∧ 2 ^ 22 < wOff c + (e - 1) * wStr c + 8 * rowQ c)))

/-- The trap of a BERTH_MISUSE subcode (R229, R340). -/
def misuse {α : Type} (n : Fin 16) (sub : Nat) : M α :=
  trap { cause := Cause.berthMisuse, sub := sub, val := BitVec.ofNat 64 n.val, detail := n.val }

/-- NOTOWNER unless the issuer owns the berth. -/
def needOwner (is : Issue) (n : Fin 16) : M Unit := do
  if ((← get).berth (quayOf is.g) n.val).owner ≠ some is.g then misuse n 1

/-- The push scope of a code (R230). -/
def pushScope (s : BitVec 2) : Scope :=
  match s.toNat with
  | 0 => .quay | 1 => .module | 2 => .domain | _ => .system

/-- The copies that the Quay's slots hold. -/
def Quay.copyCount (y : Quay) : Nat := (y.berths.toList.map (fun b => b.copies.length)).sum + y.tcopies.length

/-! ### BRST -/

/-- BRST (R232). -/
def execBrst (n : Fin 16) (s : State) : Out :=
  s.run (.brst n) .hartOnly (fun is => do
    let b := (← get).berth (quayOf is.g) n.val
    if b.owner ≠ none ∧ b.owner ≠ some is.g then misuse n 2
    if b.copies ≠ [] then retryLater
    modify (fun s => s.modBerth (quayOf is.g) n.val (fun b =>
      { b with owner := some is.g, expect := 0, avail := 0, ahead := [], fault := none })))

/-- BRST.FREE (R232). -/
def execBrstFree (n : Fin 16) (s : State) : Out :=
  s.run (.brstFree n) .hartOnly (fun is => do
    needOwner is n
    if ((← get).berth (quayOf is.g) n.val).copies ≠ [] then retryLater
    modify (fun s => s.modBerth (quayOf is.g) n.val (fun b => { b with owner := none })))

/-! ### Pushes (R231, R233) -/

/-- The checks of a push of `e` elements, and the wait for one of the 64 copy slots. -/
def pushChecks (is : Issue) (n : Fin 16) (k : CopyKind) (e : Nat) : M Unit := do
  let s ← get
  let b := s.berth (quayOf is.g) n.val
  if b.fault.isSome then misuse n 4
  if configBad k b.bcfg e then misuse n 3
  if 2 ^ 32 - 1 < b.expect + e then misuse n 5
  if 64 ≤ (s.qy (quayOf is.g)).copyCount then retryLater

/-- Appends a copy to its berth; one of no elements has landed at once. -/
def State.push (s : State) (g : Nat) (n : Nat) (c : Copy) : State :=
  let s := s.modBerth (quayOf g) n (fun b => { b with
    expect := b.expect + c.count
    copies := if c.count = 0 then b.copies else b.copies ++ [{ c with base := b.expect }] })
  s.modAg g (fun a => { a with mem := { a.mem with nextCopy := a.mem.nextCopy + 1 } })

/-- The release of a push. Its host stores are sent as well, which R178 lets happen early, so that the copy reads them. -/
def pushRelease (is : Issue) (sc : Scope) : M Unit := do
  releaseM is sc
  modify (fun s => s.drainWc is.g)

/-- The rule of a push. -/
def Rule.push : Rule := { Rule.vector with cut := true }

/-- The row numbers of a push from an index vector. -/
def pushRows (is : Issue) (v : Fin 48) (w : Nat) (es : List Nat) : M (List Int) := do
  let xs ← vread is v w es
  return es.map (fun i => sext w (xs i))

/-- GTHW and SCTW: the slots of the issuer's Wharf on one side, the memory rows on the other. -/
def pushW (k : CopyKind) (n a : Fin 16) (b : Fin 48) (m : Option (Fin 12)) (p : BitVec 2) (is : Issue) : M Unit := do
  needType is tyINF
  needGroups is [b]
  needOwner is n
  if ((← get).berth (quayOf is.g) n.val).fault.isSome then misuse n 4
  let e ← vstart is tyINF [b] none m
  pushChecks is n k e.2.length
  let rows ← pushRows is b e.1.w e.2
  let c := (← get).berth (quayOf is.g) n.val
  let base ← getR is a
  let slots := mkAddr 2 (wOff c.bcfg)
  pushRelease is (pushScope p)
  let s ← get
  let cp : Copy :=
    { kind := k, agent := is.g, serial := (s.ag is.g).mem.nextCopy, base := 0, count := rows.length, rows := rows
      src := if k = .sctw then slots else base, dst := if k = .sctw then base else slots
      sstr := sStr c.bstr, dstr := (wStr c.bcfg : Int), bytes := 8 * rowQ c.bcfg }
  set ((s.push is.g n.val cp).memRecord is.g (base + BitVec.ofInt 72 (rows.headD 0 * sStr c.bstr)) 5
    (Nat.log2 cp.bytes) rows.length)

/-- GTHW (R233). -/
def execGthw (n : Fin 16) (a : Fin 16) (b : Fin 48) (m : Option (Fin 12)) (p : BitVec 2) (s : State) : Out :=
  s.run (.gthw n a b m p) .push (pushW .gthw n a b m p)

/-- SCTW (R233). -/
def execSctw (n : Fin 16) (a : Fin 16) (b : Fin 48) (m : Option (Fin 12)) (p : BitVec 2) (s : State) : Out :=
  s.run (.sctw n a b m p) .push (pushW .sctw n a b m p)

/-- Renames a register to a physical one that holds what it held (R235); what earlier landings left on it goes, since every element below VL
will land. -/
def Agent.renameTo (a : Agent) (r q : Nat) : Agent :=
  a.modVec (fun f => if h : r < 48 ∧ q < 96 then
    { (f.carry (a.physOf r).val q (fun _ => true) (fun _ => 0)) with
      phys := f.phys.set q f.phys[a.physOf r] h.2
      map := { f.map with v := f.map.v.set r ⟨q, h.2⟩ h.1 } } else f)

/-- GTHV and GTHV.FF: the destination takes new physical registers. -/
def pushV (ff : Bool) (d : Fin 48) (a : Fin 16) (b : Fin 48) (n : Fin 16) (p : BitVec 2) (is : Issue) : M Unit := do
  needType is tyINF
  needGroups is [b, d]
  needOwner is n
  if ((← get).berth (quayOf is.g) n.val).fault.isSome then misuse n 4
  let e ← vstart is tyINF [b] none none
  pushChecks is n (.gthv ff) e.2.length
  let s ← get
  let ag := s.ag is.g
  let rs := (List.range e.1.g).map (fun k => d.val + k)
  if rs.any (fun r => s.landingOn is.g (ag.physOf r).val) ∨ (s.freePhys is.g).length < e.1.g then retryLater
  let rows ← pushRows is b e.1.w e.2
  let c := s.berth (quayOf is.g) n.val
  let base ← getR is a
  pushRelease is (pushScope p)
  let s ← get
  let new := (s.freePhys is.g).take e.1.g
  let s := s.modAg is.g (fun a => (rs.zip new).foldl (fun a x => a.renameTo x.1 x.2) a)
  let cp : Copy :=
    { kind := .gthv ff, agent := is.g, serial := (s.ag is.g).mem.nextCopy, base := 0, count := rows.length, rows := rows
      src := base, sstr := sStr c.bstr, bytes := elemBytes e.1.w, width := e.1.w, vlen := ag.strip.vlen, phys := new }
  set ((s.push is.g n.val cp).memRecord is.g (base + BitVec.ofInt 72 (rows.headD 0 * sStr c.bstr)) 5
    (Nat.log2 cp.bytes) rows.length)

/-- GTHV (R233, R235). -/
def execGthv (d : Fin 48) (a : Fin 16) (b : Fin 48) (n : Fin 16) (p : BitVec 2) (s : State) : Out :=
  s.run (.gthv d a b n p) .push (pushV false d a b n p)

/-- GTHV.FF (R236). -/
def execGthvFf (d : Fin 48) (a : Fin 16) (b : Fin 48) (n : Fin 16) (p : BitVec 2) (s : State) : Out :=
  s.run (.gthvFf d a b n p) .push (pushV true d a b n p)

/-- BCPY (R233). -/
def execBcpy (n : Fin 16) (f : Fin 16) (c : Fin 32) (d : Fin 16) (p : BitVec 2) (s : State) : Out :=
  s.run (.bcpy n f c d p) { pilot := false, cut := true } (fun is => do
    needOwner is n
    let rows := (← getS is c).toNat
    pushChecks is n .bcpy rows
    let b := (← get).berth (quayOf is.g) n.val
    let src ← getR is f
    let dst ← getR is d
    pushRelease is (pushScope p)
    let s ← get
    let cp : Copy :=
      { kind := .bcpy, agent := is.g, serial := (s.ag is.g).mem.nextCopy, base := 0, count := rows, src := src, dst := dst
        sstr := sStr b.bstr, dstr := dStr b.bstr, bytes := 8 * rowQ b.bcfg }
    set ((s.push is.g n.val cp).memRecord is.g src 5 (Nat.log2 cp.bytes) rows))

/-! ### BAVL (R237) -/

/-- BAVL: a landed row is in memory already, so the acquire has nothing left to wait for (log entry 17). -/
def execBavl (d : Fin 32) (n : Fin 16) (s : State) : Out :=
  s.run (.bavl d n) .hartOnly (fun is => do
    needOwner is n
    let b := (← get).berth (quayOf is.g) n.val
    match b.fault with
    | some f => if b.avail = f.ordinal then trap (berthTrap n.val f)
    | none => pure ()
    setS is d (BitVec.ofNat 64 b.avail))

/-! ### WAITC (R238) -/

/-- How many operations are counted when those of some serial numbers have not finished: from the oldest of them on. -/
def inFlight (next : Nat) (out : List Nat) : Nat :=
  match out.min? with
  | some m => next - m
  | none => 0

/-- The counts S, C and T of an agent. -/
def State.waitCounts (s : State) (g : Nat) : Nat × Nat × Nat :=
  let a := s.ag g
  let y := s.qy (quayOf g)
  (inFlight a.mem.nextOp (a.mem.queue.map (·.op) ++ a.mem.wc.map (·.op)),
   inFlight a.mem.nextCopy (y.berths.toList.flatMap (fun b => (b.copies.filter (fun c => c.agent = g)).map (·.serial))),
   inFlight a.mem.nextTile ((y.tile.feeds.filter (fun f => f.agent = g)).map (·.serial)
     ++ (y.tile.asyncs.filter (fun f => f.agent = g)).map (·.serial)))

/-- Whether a count is at or below a limit; 31 is any number. -/
def within (n : Nat) (l : BitVec 5) : Bool := decide (l.toNat = 31 ∨ n ≤ l.toNat)

/-- WAITC (R238). It waits in its place; within a strip no interrupt is taken there (R239). -/
def execWaitc (l n c t : BitVec 5) (s : State) : Out :=
  (s.modAg s.cur (fun a => a.modStrip (fun st => { st with mark := .none }))).run (.waitc l n c t) .both (fun is => do
    let s ← get
    let w := s.waitCounts is.g
    if within (s.ag is.g).mem.loadsOut l && within w.1 n && within w.2.1 c && within w.2.2 t then pure () else retryLater)

end Sys2Proof.Machine
end

