-- ==== Sys2Proof/Machine/Bte.lean ====
section
/-! DEFINITION. The Block-Transfer Engine (R223, R226, R227, R233-R236): the landing of one element of a copy, and what a
failing one leaves. -/

namespace Sys2Proof.Machine

/-- The key under which a Quay's Block-Transfer Engine waits for the host. -/
def bteKey (q : Nat) : Nat := 16 * q + 9

/-! ### Rows -/

/-- The alignment of a row. -/
def Copy.align (c : Copy) : Nat := match c.kind with | .gthv _ => c.bytes | _ => 8

/-- A range cut at the smallest pages. -/
def pieces : Nat → Addr → Nat → List (Addr × Nat)
  | 0, _, _ => []
  | k + 1, a, n =>
    if n = 0 then [] else
    let m := min n (4096 - a.toNat % 4096)
    (a, m) :: pieces k (a + BitVec.ofNat 72 m) (n - m)

/-- The pieces of a row. -/
def rowPieces (a : Addr) (n : Nat) : List (Addr × Nat) := pieces (n / 4096 + 2) a n

/-- Why a row cannot be copied now: a cause at an address, or a host translation that is missing. -/
inductive RowFail where
  | trap (cause sub : Nat) (a : Addr)
  | ats (va : Nat)
deriving DecidableEq, Repr

/-- The copier of a copy as the maker of accesses: its hart, or the task of a copy task. -/
def State.copier (s : State) (q : Nat) (c : Copy) : Actor :=
  if 100000 ≤ c.agent then
    let t := s.task (c.agent - 100000)
    ⟨t.part, (s.ctx t.ctx).func, (s.ctx t.ctx).pasid, dieOf q, q, c.fail⟩
  else { s.actor c.agent with die := dieOf q, quay := q, fail := c.fail }

/-- The check of one side of a row: its places with their lengths. -/
def State.rowSide (s : State) (by_ : Actor) (a : Addr) (n al : Nat) (k : Acc) : Except RowFail (List (Place × Nat)) :=
  if a.toNat % al ≠ 0 then .error (.trap Cause.align 0 a)
  else (rowPieces a n).foldr (fun p acc =>
    match s.xlate by_ p.1 k with
    | .error (.trap c sub) => .error (.trap c sub p.1)
    | .error .ats => .error (.ats (offOf p.1).toNat)
    | .ok h => match acc with
      | .ok l => .ok ((h.place, p.2) :: l)
      | .error e => .error e) (.ok [])

/-- The check of a whole row (R233): as a load at its source, as a store at its destination. -/
def State.rowCheck (s : State) (q : Nat) (c : Copy) (k : Nat) :
    Except RowFail (List (Place × Nat) × List (Place × Nat)) :=
  let by_ := s.copier q c
  match s.rowSide by_ (c.srcOf k) c.bytes c.align Acc.load with
  | .error e => .error e
  | .ok src =>
    match c.dstOf k with
    | none => .ok (src, [])
    | some d =>
      match s.rowSide by_ d c.bytes c.align Acc.store with
      | .error e => .error e
      | .ok dst => .ok (src, dst)

/-- The bytes of some places. -/
def spread (l : List (Place × Nat)) : List Place := l.flatMap (fun x => x.1.span x.2)

/-- Whether two lists of ranges have a byte in common. -/
def rangesMeet (l m : List (Place × Nat)) : Bool :=
  l.any (fun x => m.any (fun y => decide (x.1.space = y.1.space ∧ x.1.addr < y.1.addr + y.2 ∧ y.1.addr < x.1.addr + x.2)))

/-! ### Landing (R223, R226, R234) -/

/-- Marks an ordinal landed: A rises over all that have (R226). -/
def Berth.land (b : Berth) (o : Nat) : Berth :=
  let ahead := b.ahead ++ [o]
  let n := ((List.range (ahead.length + 1)).find? (fun k => !(ahead.contains (b.avail + k)))).getD 0
  { b with avail := b.avail + n, ahead := ahead.filter (fun x => decide (b.avail + n ≤ x)) }

/-- The ephemeral bit of the architectural register that a physical one holds (R103). -/
def Agent.ephOf (a : Agent) (p : Nat) : Bool :=
  match a.vec.map.v.toList.findIdx? (fun x => decide (x.val = p)) with
  | some r => a.strip.ephm.toNat.testBit r
  | none => match a.strip.ckpt.map with
    | some m => (match m.v.toList.findIdx? (fun x => decide (x.val = p)) with
      | some r => a.strip.ephm.toNat.testBit r
      | none => false)
    | none => false

/-- A register element lands (R101, R223): a write, ephemeral as the register is written now (R103), of a slice that is settled first when
it has expired; storage that nothing reads takes what was cancelled. -/
def State.landElem (s : State) (c : Copy) (k : Nat) (v : Nat) (bad : Bool) : State :=
  let at_ := elemAt c.vlen c.width k
  let p := c.phys.getD at_.1 nowhere
  if (s.ag c.agent).status = .absent then s else
  let sl := at_.2 / 256
  let s := s.settleSlices c.agent ((s.ag c.agent).vec.expired.filter (fun x => decide (x = (p, sl))))
  let eph := (s.ag c.agent).ephOf p
  s.modAg c.agent (fun a => a.modVec (fun f => if h : p < 96 then { f with
    phys := f.phys.set p (BitVec.ofNat 8192 (putBits f.phys[p].toNat at_.2 c.width v))
    eph := f.eph.filter (· ≠ 32 * p + sl) ++ (if eph then [32 * p + sl] else [])
    expired := f.expired.filter (fun x => !decide (x = (p, at_.2 / 256)))
    poison := f.poison.filter (fun x => !decide (x.phys = p ∧ x.lo < at_.2 + c.width ∧ at_.2 < x.lo + x.width))
      ++ (if bad then [⟨p, at_.2, c.width, c.srcOf k⟩] else []) } else f))

/-- Writes the bytes of a row at its places: memory and Wharfs by whole granules, then the device registers in ascending order; the
home comparators see each line. -/
def State.landBytes (s : State) (q n : Nat) (ps : List (Place × Byte)) : State :=
  let mem := ps.filter (fun x => !(decide (x.1.space = .fabric) && (devAt x.1.addr).isSome))
  let dev := ps.filter (fun x => decide (x.1.space = .fabric) && (devAt x.1.addr).isSome)
  let lines := (mem.map (fun x => (⟨x.1.space, x.1.addr / 64⟩ : Place))).dedup
  let s := lines.foldl (fun s l =>
    let bs := mem.filter (fun x => decide (x.1.space = l.space ∧ x.1.addr / 64 = l.addr))
    ((s.writeBytes bs).tellHomes 2 n q bs).noteWrite 2 n s.modid q true ((bs.headD (l, 0)).1) bs.length) s
  ((dev.map (fun x => x.1.addr / 8)).dedup).foldl (fun s r =>
    let bs := dev.filter (fun x => x.1.addr / 8 = r)
    match devAt (bs.headD (⟨.fabric, 8 * r⟩, 0)).1.addr with
    | some fo => s.devStore fo.1 fo.2 (bs.map (·.2))
    | none => s) s

/-- The record of an uncorrectable word that the engine read (R223, R340). -/
def State.btePropRecord (s : State) (q n o : Nat) (a : Addr) : TrapRecord :=
  { cause := Cause.mchkUe, sub := 0x10, flags := fInfo, src := 2, srcix := n, quay := q, seq := 0, module := s.modid
    inner := 0, win := winOf a, pc := 0, pc2 := 0, value := offOf a, detail := n + o * 2 ^ 32, cycle := (s.die (dieOf q)).cycle }

/-- Counts uncorrectable words in wecc.UE, which saturates (R224). -/
def Quay.countUe (y : Quay) (k : Nat) : Quay :=
  { y with wecc := BitVec.ofNat 64 (y.wecc.toNat % 2 ^ 32 + min (2 ^ 32 - 1) (y.wecc.toNat / 2 ^ 32 + k) * 2 ^ 32) }

/-- Lands an element whose row has passed its check: the row is read wholly, then written; single-bit errors that the read meets are
corrected (R222). A row with uncorrectable words counts each of them and leaves one record (R223, R224, DESIGN CHOICE, log entry
102). -/
def State.landRow (s : State) (q n : Nat) (c : Copy) (k : Nat) (src dst : List (Place × Nat)) : State :=
  let srcs := spread src
  let dsts := spread dst
  let vals := srcs.map s.rawByte
  let s := src.foldl (fun s x => s.scrub x.1 x.2) s
  let bad := srcs.map (fun p => s.poisoned p || s.uncorrectable p)
  let ues := ((srcs.filter s.uncorrectable).map (fun p => (⟨p.space, p.addr / 8⟩ : Place))).dedup
  let s := if ues = [] then s else
    (s.modQy q (fun y => y.countUe ues.length)).report (s.copier q c).part (s.btePropRecord q n (c.base + k) (c.srcOf k))
  match c.dstOf k with
  | none => s.landElem c k (leNat vals) (bad.any id)
  | some _ =>
    let s := s.landBytes q n (dsts.zip vals)
    (dsts.zip bad).foldl (fun s x => if x.2 then s.setPoison x.1 else s) s

/-! ### Failing rows (R227, R236) -/

/-- The bits of the j-th register of a copy that its elements from the k-th on take. -/
def Copy.bitsFrom (c : Copy) (j k : Nat) : Nat :=
  let lo := k * c.width - j * c.vlen
  let hi := min c.vlen (c.count * c.width - j * c.vlen)
  if lo < hi then 2 ^ hi - 2 ^ lo else 0

/-- Leaves a mark on the registers of a copy from its k-th element on: the recorded fault of its berth, or none for a trim. -/
def State.markCopy (s : State) (c : Copy) (k : Nat) (fault : Option (Nat × BerthFault)) : State :=
  match c.kind with
  | .gthv _ => if (s.ag c.agent).status = .absent then s else
      let new : List RegMark := (c.phys.zipIdx.filter (fun x => decide (x.1 < 96 ∧ c.bitsFrom x.2 k ≠ 0))).map
        (fun x => ⟨x.1, c.bitsFrom x.2 k, k, fault⟩)
      s.modAg c.agent (fun a => a.modVec (fun v => { v with marks := v.marks ++ new }))
  | _ => s

/-- Cuts a copy off at an element: it and the later ones never land, and count as not landed. -/
def Berth.cutCopy (b : Berth) (c : Copy) (k : Nat) : Berth :=
  { b with
    ahead := b.ahead.filter (fun o => decide (o < c.base + k))
    copies := b.copies.filterMap (fun x =>
      if x.base = c.base ∧ x.serial = c.serial then
        if (List.range k).all (fun j => x.landed.contains j) then none
        else some { x with count := k, landed := x.landed.filter (· < k), stall := none, ats := none, group := none }
      else some x) }

/-- A GTHV.FF copy stops at an element above its first (R236). -/
def State.stopCopy (s : State) (q n : Nat) (c : Copy) (k : Nat) : State :=
  (s.markCopy c k none).modBerth q n (fun b => b.cutCopy c k)

/-- A row fault that is not replayable (R227). -/
def State.faultCopy (s : State) (q n : Nat) (c : Copy) (k cause sub : Nat) (a : Addr) : State :=
  let b := s.berth q n
  let f : BerthFault := b.fault.getD ⟨cause, sub, a, c.base + k⟩
  let later := b.copies.filter (fun x => decide (c.base < x.base))
  let s := s.markCopy c k (some (n, f))
  let s := later.foldl (fun s x => s.markCopy x 0 (some (n, f))) s
  s.modBerth q n (fun b => { (({ b with copies := b.copies.filter (fun x => decide (x.base ≤ c.base)) } : Berth).cutCopy c k) with
    fault := some f })

/-- Changes a copy of a berth. -/
def State.modCopy (s : State) (q n : Nat) (c : Copy) (f : Copy → Copy) : State :=
  s.modBerth q n (fun b => { b with copies := b.copies.map (fun x => if x.base = c.base ∧ x.serial = c.serial then f x else x) })

/-- Posts the record of a replayable row fault and sends its page request (R172, R227, R343): what the copy waits for, none
while there is no room. -/
def State.postRow (s : State) (q n : Nat) (c : Copy) (cause sub : Nat) (a : Addr) : State × Option (Nat × Option Nat) :=
  let p := (s.copier q c).part
  let x := s.part p
  let r : TrapRecord :=
    { cause := cause, sub := sub, flags := fReplay, src := 2, srcix := n, quay := q, seq := 0, module := s.modid
      inner := 0, win := winOf a, pc := 0, pc2 := 0, value := offOf a, detail := 1, cycle := (s.die (dieOf q)).cycle }
  if x.slotsFree < 3 ∨ x.held.any (fun h => h.sameSource r) then (s, none) else
  let s := s.modPart p (fun x => x.post r)
  if cause = Cause.priPending then
    let y := s.requestPages (bteKey q) (s.copier q c) [(offOf a).toNat / 2 ^ 12]
    (y.1, some (x.seq + 1, some y.2))
  else (s, some (x.seq + 1, none))

/-- A replayable row fault stalls the copy once its record is posted. -/
def State.stallCopy (s : State) (q n : Nat) (c : Copy) (cause sub : Nat) (a : Addr) : State :=
  match s.postRow q n c cause sub a with
  | (s, none) => s
  | (s, some w) => s.modCopy q n c (fun y => { y with stall := some w.1, group := w.2 })

/-- What a failing element does to its copy. -/
def State.failRow (s : State) (q n : Nat) (c : Copy) (k : Nat) (e : RowFail) : State :=
  match e with
  | .ats va => s.modCopy q n c (fun y => { y with ats := some va })
  | .trap cause sub a =>
    if c.kind = .gthv true ∧ 0 < k then s.stopCopy q n c k
    else if cause = Cause.xlateMiss ∨ cause = Cause.priPending then s.stallCopy q n c cause sub a
    else s.faultCopy q n c k cause sub a

/-- The lowest element up to one that has not landed and fails its check. -/
def State.firstFail (s : State) (q : Nat) (c : Copy) (k : Nat) : Option (Nat × RowFail) :=
  ((List.range (k + 1)).filter (fun j => !(c.landed.contains j))).findSome? (fun j =>
    match s.rowCheck q c j with
    | .error e => some (j, e)
    | .ok _ => none)

/-- Whether an element overlaps a lower one that has not landed, so that it must follow it (R234). -/
def State.mustFollow (s : State) (q : Nat) (c : Copy) (k : Nat) : Bool :=
  match s.rowCheck q c k with
  | .error _ => false
  | .ok x => ((List.range k).filter (fun j => !(c.landed.contains j))).any (fun j =>
      match s.rowCheck q c j with
      | .error _ => false
      | .ok y => rangesMeet x.2 y.2 || rangesMeet x.1 y.2 || rangesMeet x.2 y.1)

/-- Whether a row meets a Wharf of another Quay whose hash write waits (R221). -/
def State.rowHeld (s : State) (q : Nat) (x : List (Place × Nat) × List (Place × Nat)) : Bool :=
  (x.1 ++ x.2).any (fun p => s.heldAt p.1 && decide (p.1.space ≠ .wharf q))

/-- Lands an element, once the reads that its watch forces need no host translation first (R256). -/
def State.landElement (s : State) (q n o : Nat) (c : Copy) (x : List (Place × Nat) × List (Place × Nat)) : State :=
  let k := o - c.base
  let w := s.watchQuiet q (spread x.2) c.fail
  match w.2 with
  | some (.ats va) => s.modCopy q n c (fun y => { y with ats := some va })
  | some .held => s
  | none =>
    (w.1.landRow q n c k x.1 x.2).modBerth q n (fun b =>
      let b := b.land o
      { b with copies := b.copies.filterMap (fun y =>
          if y.base = c.base ∧ y.serial = c.serial then
            if y.count ≤ y.landed.length + 1 then none else some { y with landed := y.landed ++ [k] }
          else some y) })

/-- The oldest copy of a berth moves one element. A later copy lands nothing before it: were a row of the oldest to fault, the
later ones would never land (R227). -/
def State.bteStep (s : State) (q n o : Nat) : State :=
  match (s.berth q n).copies with
  | [] => s
  | c :: _ =>
    let k := o - c.base
    if o < c.base ∨ c.count ≤ k ∨ c.landed.contains k ∨ c.stall.isSome ∨ c.ats.isSome ∨ (s.qy q).freeze ∨ (s.qy q).salvage then s
    else match s.firstFail q c k with
    | some f => s.failRow q n c f.1 f.2
    | none =>
      if s.mustFollow q c k then s else
      match s.rowCheck q c k with
      | .error _ => s
      | .ok x => if s.rowHeld q x then s else s.landElement q n o c x

end Sys2Proof.Machine
end

