-- ==== Sys2Proof/Machine/Tile.lean ====
section
/-! DEFINITION. Tile instructions (R243-R268, R38-R41): their checks at issue, appends, forces and transfers. -/

namespace Sys2Proof.Machine

/-! ### Checks at issue (R247) -/

/-- The trap of a TILE_SHAPE subcode on a register. -/
def tileTrap {α : Type} (sub reg : Nat) : M α :=
  trap { cause := Cause.tileShape, sub := sub, val := BitVec.ofNat 64 reg }

/-- The shape register of a tile register. -/
def TileState.shapeReg (t : TileState) (r : Fin 8) : Shape := shapeOf t.tshp[r]

/-- The current version of a register. -/
def TileState.curOf (t : TileState) (r : Fin 8) : Option Nat := t.cur[r]

/-- The tile state of the issuer's Quay. -/
def getT (is : Issue) : M TileState := do return (← get).tile (quayOf is.g)
/-- Changes it. -/
def modT (is : Issue) (f : TileState → TileState) : M Unit := modify (fun s => s.setTile (quayOf is.g) (f (s.tile (quayOf is.g))))

/-- A condition on a shape with the register that is named when it fails. -/
abbrev ShapeCheck := List (Bool × Fin 8)

/-- The first register of a list of conditions that fails. -/
def firstBad (l : ShapeCheck) : Option (Fin 8) := (l.find? (fun p => !p.1)).map (·.2)

/-- SHAPE, NOVALUE, STALE, TYPE and MISMATCH of R247: `regs` all registers in operand order, `srcs` the sources. -/
def tileChecks (is : Issue) (regs srcs : List (Fin 8)) (types dims : TileState → ShapeCheck) : M Unit := do
  let t ← getT is
  match firstBad (regs.map (fun r => ((t.shapeReg r).legal, r))) with
  | some r => tileTrap 1 r.val
  | none => pure ()
  match firstBad (srcs.map (fun r => ((t.curOf r).isSome, r))) with
  | some r => tileTrap 2 r.val
  | none => pure ()
  match firstBad (srcs.map (fun r => (decide ((t.ver ((t.curOf r).getD 0)).shape = t.shapeReg r), r))) with
  | some r => tileTrap 3 r.val
  | none => pure ()
  match firstBad (types t) with
  | some r => tileTrap 4 r.val
  | none => pure ()
  match firstBad (dims t) with
  | some r => tileTrap 5 r.val
  | none => pure ()

/-- The version of a register, or NOVALUE; the transfers accepted into it are written first (R265). -/
def capture (is : Issue) (r : Fin 8) : M Nat := do
  match (← getT is).curOf r with
  | none => tileTrap 2 r.val
  | some v => modT is (fun t => t.writeFeeds (fun f => decide (f.version = v))); return v

/-! ### Appending (R245, R246, R253, R254) -/

/-- Room for nodes and segments under the overflow policy. -/
def tileRoom (is : Issue) (nodes segs : Nat) : M Unit := do
  let t ← getT is
  let full (sub : Nat) : M Unit := trap { cause := Cause.thunkFull, sub := sub, val := BitVec.ofNat 64 segs }
  if t.tpol then
    if 192 < t.nodes.length + nodes then full 1
    if 192 < t.segs + segs then full 2
  else forceM (quayOf is.g) none (fun rd t => TileState.makeRoom rd nodes segs 200 t)

/-- What a node carries beside its sources. -/
structure NodeSpec where
  op     : TileOp
  scalar : Word := 0
  addr   : Addr := 0
  stride : Int := 0

/-- Makes a new version the current one of a register; what is no longer reachable is discarded. -/
def TileState.append (t : TileState) (d : Fin 8) (pc : Word) (mode : RMode) (srcs : List Nat) (n : NodeSpec) : TileState :=
  let sh := t.shapeReg d
  let node : Node := ⟨t.freeNum, t.nextId, n.op, pc, mode, srcs, n.scalar, n.addr, n.stride⟩
  ({ t with
    versions := Assoc.set t.nextId ⟨sh.ty, sh.rows, sh.cols, some node, 0, []⟩ t.versions
    cur := t.cur.set d (some t.nextId)
    nextId := t.nextId + 1
    appended := t.appended + 1 }).collect

/-- Appends a node: its sources are captured, room is made, and the version is created. -/
def appendM (is : Issue) (d : Fin 8) (srcs : List (Fin 8)) (n : NodeSpec) : M Unit := do
  let vs ← srcs.mapM (capture is)
  tileRoom is 1 ((← getT is).shapeReg d).segs
  let mode := RMode.ofCode (← getA is).fp.frm.toNat
  modT is (fun t => t.append d is.pc (if mode = .sr then .rne else mode) vs n)

/-! ### TILE-MEM (R258-R260) -/

/-- ALIGN of a tile access (R259). -/
def tileAlign (base : Addr) (stride : Int) (ty : Nat) : M Unit :=
  let w := max 1 (tileBits ty / 8)
  if base.toNat % w ≠ 0 ∨ stride % (w : Int) ≠ 0 then trap { cause := Cause.align, val := offOf base, win := winOf base }
  else pure ()

/-- A free watch range: with all 64 in use the oldest TLD is forced whole (R256). -/
def watchRoom (is : Issue) : M Unit := do
  if 64 ≤ (← getT is).watched.length then
    forceM (quayOf is.g) none (fun rd t =>
      match TileState.oldest t.watched with
      | some p => (t.forceAll rd p.1).counted TileState.countWatch
      | none => (t, none))

/-- TLD (R259, R255). -/
def execTld (d : Fin 8) (a : Fin 16) (b : Fin 32) (s : State) : Out :=
  s.run (.tld d a b) .pilotOnly (fun is => do
    tileChecks is [d] [] (fun _ => []) (fun _ => [])
    let base ← getR is a
    let stride := (← getS is b).toInt
    tileAlign base stride ((← getT is).shapeReg d).ty
    tileRoom is 1 ((← getT is).shapeReg d).segs
    watchRoom is
    appendM is d [] { op := .tld, addr := base, stride := stride })

/-- TZERO (R259). -/
def execTzero (d : Fin 8) (s : State) : Out :=
  s.run (.tzero d) .pilotOnly (fun is => do
    tileChecks is [d] [] (fun _ => []) (fun _ => [])
    appendM is d [] { op := .tzero })

/-- TDROP (R259). -/
def execTdrop (d : Fin 8) (s : State) : Out :=
  s.run (.tdrop d) .pilotOnly (fun is => do
    match (← getT is).curOf d with
    | none => tileTrap 2 d.val
    | some _ => modT is (fun t => ({ t with cur := t.cur.set d none }).collect))

/-- A rectangle (R258): ROW0, NROWS, COL0, NCOLS. -/
structure Rect where
  row0 : Nat
  rows : Nat
  col0 : Nat
  cols : Nat
deriving DecidableEq, Repr

/-- The rectangle of a scalar. -/
def rectOf (v : Word) : Rect := ⟨v.toNat % 256, v.toNat / 2 ^ 8 % 256, v.toNat / 2 ^ 16 % 256, v.toNat / 2 ^ 24 % 256⟩
/-- Its layout in a trap record. -/
def Rect.code (r : Rect) : Nat := rectCode r.row0 r.rows r.col0 r.cols
/-- The units it demands of a shape. -/
def Rect.units (r : Rect) (s : Shape) : Nat := s.rect r.row0 r.rows r.col0 r.cols

/-- The version and rectangle of TFORCE, TFORCE.A and TST: NOVALUE, then BOUNDS. An empty rectangle whose first row or column lies
beyond the shape does not lie in it either (DESIGN CHOICE, log entry 105). -/
def tileRect (is : Issue) (d : Fin 8) (c : Fin 32) : M (Nat × Rect) := do
  let v ← capture is d
  let r := rectOf (← getS is c)
  let sh := ((← getT is).ver v).shape
  if sh.rows < r.row0 + r.rows ∨ sh.cols < r.col0 + r.cols then tileTrap 6 d.val
  return (v, r)

/-- A synchronous force of a rectangle of a version. -/
def forceRect (is : Issue) (v : Nat) (r : Rect) : M Unit :=
  forceM (quayOf is.g) (some r.code) (fun rd t => t.force rd v (r.units (t.ver v).shape))

/-- TFORCE (R259). -/
def execTforce (d : Fin 8) (c : Fin 32) (s : State) : Out :=
  s.run (.tforce d c) .pilotOnly (fun is => do
    let x ← tileRect is d c
    forceRect is x.1 x.2)

/-- TFORCE.A (R251): the force is done by the event ASYNC_FORCE_DONE. -/
def execTforceA (d : Fin 8) (c : Fin 32) (s : State) : Out :=
  s.run (.tforceA d c) .pilotOnly (fun is => do
    let x ← tileRect is d c
    let n := (← getA is).mem.nextTile
    modT is (fun t => { t with asyncs := t.asyncs ++ [{ agent := is.g, serial := n, version := x.1, units := x.2.units (t.ver x.1).shape }] })
    modA is (fun a => { a with mem := { a.mem with nextTile := n + 1 } }))

/-- The elements of a rectangle, by ascending row, then column. -/
def Rect.elems (r : Rect) : List (Nat × Nat) :=
  (List.range r.rows).flatMap (fun i => (List.range r.cols).map (fun j => (r.row0 + i, r.col0 + j)))

/-- The checks of element stores, in order (R260). -/
def checkEach (is : Issue) (n : Nat) : List Addr → M (List Hit)
  | [] => return []
  | a :: as => do
    let h ← access is a n Acc.store
    let hs ← checkEach is n as
    return h :: hs

/-- Stores a nibble of a byte, the other nibble as it stands when the store is performed. It is performed at once, which a relaxed store
may be (R205, R260, log entry 86). -/
def State.storeNibble (s : State) (g : Nat) (p : Place) (hi : Bool) (e : Nat) : State :=
  let s := s.drainFor g [p]
  let old := (s.rawByte p).toNat
  s.deviceStore g p (leBytes 1 (if hi then old % 16 + e % 16 * 16 else old / 16 * 16 + e % 16))

/-- Stores the elements of a rectangle of a version, by ascending row, then column (R260): nibbles, and elements on a device page, one by
one; the others as one store operation. -/
def State.storeRect (s : State) (g : Nat) (v : Version) (es : List ((Nat × Nat) × Hit)) : State :=
  let b := tileBits v.ty
  let bytes (x : (Nat × Nat) × Hit) : List Byte := leBytes (b / 8) (v.get x.1.1 x.1.2)
  if b = 4 then es.foldl (fun s x => s.storeNibble g x.2.place (decide (x.1.2 % 2 = 1)) (v.get x.1.1 x.1.2)) s
  else (es.filter (fun x => x.2.mtype = 2)).foldl (fun s x => s.deviceStore g x.2.place (bytes x))
    (s.enqueue g none false ((es.filter (fun x => x.2.mtype ≠ 2)).map (fun x => placeBytes x.2.place (bytes x))))

/-- TST (R260). -/
def execTst (d : Fin 8) (a : Fin 16) (b c : Fin 32) (s : State) : Out :=
  s.run (.tst d a b c) .pilotOnly (fun is => do
    let x ← tileRect is d c
    let base ← getR is a
    let stride := (← getS is b).toInt
    let ty := ((← getT is).ver x.1).ty
    tileAlign base stride ty
    let els := x.2.elems
    let addr (e : Nat × Nat) : Addr := (tileAddr base stride (tileBits ty) e.1 e.2).1
    let hs ← checkEach is (max 1 (tileBits ty / 8)) (els.map addr)
    forceRect is x.1 x.2
    let v := (← getT is).ver x.1
    watchM is (hs.map (·.place))
    modify (fun s => s.storeRect is.g v (els.zip hs)))

/-! ### TILE-MATH (R261-R263) -/

/-- The types of TEW, TACT and TRED, and of TMMA's operands (R243, R262). -/
def floatTile (ty : Nat) : Bool := decide (8 ≤ ty ∧ ty ≤ 12)

/-- Whether two operand types of TMMA go together. -/
def pairTile (x y : Nat) : Bool := decide (x = y) || (decide (x = 8 ∨ x = 9) && decide (y = 8 ∨ y = 9))

/-- TMMA (R262, R263). -/
def execTmma (d a b : Fin 8) (s : State) : Out :=
  s.run (.tmma d a b) .pilotOnly (fun is => do
    tileChecks is [d, a, b] [d, a, b]
      (fun t => [(decide ((t.shapeReg d).ty = 12), d), (floatTile (t.shapeReg a).ty, a),
        (floatTile (t.shapeReg b).ty && pairTile (t.shapeReg a).ty (t.shapeReg b).ty, b)])
      (fun t => [(decide ((t.shapeReg d).rows = (t.shapeReg a).rows ∧ (t.shapeReg d).cols = (t.shapeReg b).cols), d),
        (decide ((t.shapeReg b).rows = (t.shapeReg a).cols), b)])
    appendM is d [d, a, b] { op := .tmma })

/-- The group size of a code (R261). -/
def groupSize (g : BitVec 2) : Nat := match g.toNat with | 1 => 32 | 2 => 64 | _ => 128

/-- TQMMA (R262, R263): `p` is tpa, `q` is tpb. -/
def execTqmma (d a b : Fin 8) (g : BitVec 2) (q p : Fin 8) (s : State) : Out :=
  let gs := groupSize g
  s.run (.tqmma d a b g q p) .pilotOnly (fun is => do
    tileChecks is [d, a, b, p, q] [d, a, b, p, q]
      (fun t => [(decide ((t.shapeReg d).ty = 12), d), (decide ((t.shapeReg a).ty = 14 ∨ (t.shapeReg a).ty = 15), a),
        (decide ((t.shapeReg b).ty = 14 ∨ (t.shapeReg b).ty = 15), b), (decide ((t.shapeReg p).ty = 16), p),
        (decide ((t.shapeReg q).ty = 16), q)])
      (fun t =>
        let m := (t.shapeReg a).rows
        let k := (t.shapeReg a).cols
        let n := (t.shapeReg b).cols
        [(decide ((t.shapeReg d).rows = m ∧ (t.shapeReg d).cols = n), d), (decide ((t.shapeReg b).rows = k), b),
          (decide (k % gs = 0), a), (decide ((t.shapeReg p).rows = m ∧ (t.shapeReg p).cols = k / gs), p),
          (decide ((t.shapeReg q).rows = k / gs ∧ (t.shapeReg q).cols = n), q)])
    appendM is d [d, a, b, p, q] { op := .tqmma gs })

/-- TEW (R262, R263). -/
def execTew (d a b : Fin 8) (o : BitVec 3) (s : State) : Out :=
  s.run (.tew d a b o) .pilotOnly (fun is => do
    tileChecks is [d, a, b] [a, b]
      (fun t => [d, a, b].map (fun r => (floatTile (t.shapeReg r).ty, r)))
      (fun t => [d, b].map (fun r =>
        (decide ((t.shapeReg r).rows = (t.shapeReg a).rows ∧ (t.shapeReg r).cols = (t.shapeReg a).cols), r)))
    appendM is d [a, b] { op := .tew o.toNat })

/-- TACT (R262, R263). -/
def execTact (d a : Fin 8) (c : Fin 32) (o : BitVec 3) (s : State) : Out :=
  s.run (.tact d a c o) .pilotOnly (fun is => do
    tileChecks is [d, a] [a]
      (fun t => [d, a].map (fun r => (floatTile (t.shapeReg r).ty, r)))
      (fun t => [(decide ((t.shapeReg d).rows = (t.shapeReg a).rows ∧ (t.shapeReg d).cols = (t.shapeReg a).cols), d)])
    appendM is d [a] { op := .tact o.toNat, scalar := (← getS is c) })

/-- TRED (R262, R263): `r` selects columns. -/
def execTred (d a : Fin 8) (o : BitVec 2) (r : Bool) (s : State) : Out :=
  s.run (.tred d a o r) .pilotOnly (fun is => do
    tileChecks is [d, a] [a]
      (fun t => [d, a].map (fun r => (floatTile (t.shapeReg r).ty, r)))
      (fun t => [(decide ((t.shapeReg d).rows = (if r then 1 else (t.shapeReg a).rows)
        ∧ (t.shapeReg d).cols = (if r then (t.shapeReg a).cols else 1)), d)])
    appendM is d [a] { op := .tred o.toNat r })

/-- TVIEW (R262): MAP, then BOUNDS for the images of the corners. -/
def execTview (d a : Fin 8) (c : Fin 32) (s : State) : Out :=
  s.run (.tview d a c) .pilotOnly (fun is => do
    tileChecks is [d, a] [a]
      (fun t => [(decide ((t.shapeReg d).ty = (t.shapeReg a).ty), a)]) (fun _ => [])
    let map ← getS is c
    if [0, 2, 4, 6].any (fun k => decide (map.toNat / 2 ^ k % 4 = 2)) then tileTrap 8 0
    let t ← getT is
    let sd := t.shapeReg d
    let sa := t.shapeReg a
    let corners : List (Int × Int) := [(0, 0), (0, sd.cols - 1), (sd.rows - 1, 0), (sd.rows - 1, sd.cols - 1)]
    if corners.any (fun x =>
        let p := viewImage map x.1 x.2
        !decide (0 ≤ p.1 ∧ p.1 < sa.rows ∧ 0 ≤ p.2 ∧ p.2 < sa.cols)) then tileTrap 6 a.val
    appendM is d [a] { op := .tview, scalar := map })

/-- TMMAS (R38-R41): an experimental instruction of the stepping modelled. Its dimensions are tested in the order in which R247 names the
register of each (DEDUCED, log entry 68). -/
def execTmmas (d a b m : Fin 8) (s : State) : Out :=
  s.run (.tmmas d a b m) .pilotOnly (fun is => do
    tileChecks is [d, a, b, m] [d, a, b, m]
      (fun t => [(decide ((t.shapeReg d).ty = 12), d), (decide ((t.shapeReg a).ty = 10 ∨ (t.shapeReg a).ty = 11), a),
        (decide ((t.shapeReg b).ty = (t.shapeReg a).ty), b), (decide ((t.shapeReg m).ty = 4), m)])
      (fun t =>
        let k := (t.shapeReg b).rows
        [(decide (k % 4 = 0), b),
          (decide ((t.shapeReg d).rows = (t.shapeReg a).rows ∧ (t.shapeReg d).cols = (t.shapeReg b).cols), d),
          (decide (2 * (t.shapeReg a).cols = k), a),
          (decide ((t.shapeReg m).rows = (t.shapeReg a).rows ∧ 4 * (t.shapeReg m).cols = k), m)])
    appendM is d [d, a, b, m] { op := .tmmas })

/-! ### TILE-XFER (R264-R267) -/

/-- Whether a version has a live node or is a source of one. -/
def TileState.busy (t : TileState) (v : Nat) : Bool :=
  (t.ver v).node.isSome || t.nodes.any (fun p => p.2.srcs.contains v)

/-- A new materialised version of a register, every element zero (R265). -/
def TileState.create (t : TileState) (d : Fin 8) : TileState :=
  let sh := t.shapeReg d
  { t with
    versions := Assoc.set t.nextId ⟨sh.ty, sh.rows, sh.cols, none, 0, []⟩ t.versions
    cur := t.cur.set d (some t.nextId)
    nextId := t.nextId + 1 }

/-- TFEED (R265): the row is accepted here and written by the event TFEED_WRITTEN. -/
def execTfeed (d : Fin 8) (c : Fin 32) (v : Fin 48) (s : State) : Out :=
  s.run (.tfeed d c v) { Rule.vector with cut := true } (fun is => do
    let p ← vstart is tyINF [v] none none
    let e := p.1
    let r := (← getS is c).toNat
    let t ← getT is
    let sh ← (match t.curOf d with
      | none => if (t.shapeReg d).legal then pure (t.shapeReg d) else tileTrap 1 d.val
      | some x => if t.busy x then tileTrap 7 d.val else pure (t.ver x).shape : M Shape)
    if e.ty ≠ sh.ty ∨ 14 ≤ sh.ty then tileTrap 4 d.val
    if sh.rows ≤ r ∨ sh.cols < e.vl then tileTrap 6 d.val
    let xs ← vread is v e.w p.2
    if t.curOf d = none then
      tileRoom is 0 sh.segs
      modT is (fun t => t.create d)
    let n := (← getA is).mem.nextTile
    modT is (fun t => { t with feeds := t.feeds ++ [⟨is.g, n, (t.curOf d).getD 0, r, p.2.map xs⟩] })
    modA is (fun a => { a with mem := { a.mem with nextTile := n + 1 } }))

/-- TDRAIN (R266). The hart's own transfers into the version are written first. -/
def execTdrain (d : Fin 8) (c : Fin 32) (v : Fin 48) (s : State) : Out :=
  s.run (.tdrain d c v) .vector (fun is => do
    let p ← vstart is tyINF [] (some v) none
    let e := p.1
    let r := (← getS is c).toNat
    match (← getT is).curOf d with
    | none => tileTrap 2 d.val
    | some x =>
      let sh := ((← getT is).ver x).shape
      if e.ty ≠ sh.ty then tileTrap 4 d.val
      if sh.rows ≤ r ∨ sh.cols < e.vl then tileTrap 6 d.val
      modT is (fun t => t.writeFeeds (fun f => decide (f.version = x ∧ f.agent = is.g)))
      forceRect is x ⟨r, 1, 0, e.vl⟩
      let ver := (← getT is).ver x
      vwrite is v e.w (p.2.map (fun j => (j, ver.get r j))))

/-- The counters of TSTAT (R267). -/
def TileState.stat (t : TileState) (sel : Nat) : Word :=
  match sel with
  | 0 => BitVec.ofNat 64 t.nodes.length
  | 1 => BitVec.ofNat 64 t.segs
  | 2 => BitVec.ofNat 64 t.watched.length
  | 3 => t.appended
  | 4 => t.ovforce
  | 5 => t.blocks
  | _ => t.wforce

/-- TSTAT (R267). -/
def execTstat (d : Fin 8) (c : Fin 32) (l : BitVec 4) (s : State) : Out :=
  s.run (.tstat d c l) .both (fun is => do
    let t ← getT is
    if l = 6 then
      match t.curOf d with
      | none => tileTrap 2 d.val
      | some x =>
        let v := t.ver x
        let n := if v.node.isNone then 0 else
          ((unitsOf v.shape.units).filter (fun u => !v.computed.testBit u)).length
        setS is c (BitVec.ofNat 64 n)
    else setS is c (t.stat l.toNat))

/-! ### The engine's own steps -/

/-- TFEED_WRITTEN (R265): the oldest transfer accepted on a Quay is written. -/
def execTfeedWritten (q : Nat) (s : State) : Out :=
  .next (match (s.tile q).feeds with
    | [] => s
    | f :: _ => s.setTile q ((s.tile q).writeFeeds (fun x => decide (x = f))))

/-- ASYNC_FORCE_DONE (R251, R252): the oldest asynchronous force of a Quay is evaluated; a fault stops it unreported, a host translation
that is to be requested first or a Wharf whose hash is about to change is waited for. -/
def execAsyncForceDone (q : Nat) (s : State) : Out :=
  .next (match (s.tile q).asyncs with
    | [] => s
    | f :: fs =>
      if f.ats.isSome then s
      else
        let r := (s.tile q).force (s.tileRead q f.fail) f.version f.units
        let s := s.putForced q r.1
        let left := match r.2 with
          | some e =>
            if e.cause ≠ 0 then fs
            else if e.sub = 0 then { f with ats := some (offOf e.addr).toNat } :: fs
            else f :: fs
          | none => fs
        s.setTile q { s.tile q with asyncs := left })

end Sys2Proof.Machine
end

