-- ==== Sys2Proof/Machine/Walker.lean ====
section
/-! DEFINITION. The grammar walkers (R269-R296): images, steps, checkpoints, slot records. The spill area holds what the
walker's own state here holds; its bytes in memory are free values to any reader (R279). -/

namespace Sys2Proof.Machine

/-! ### Slots, results and status (R269, R281, R282, R284) -/

/-- Results of an operation (R281). -/
abbrev gOk : Nat := 0
/-- REJECT. -/
abbrev gReject : Nat := 1
/-- GOVF. -/
abbrev gOvf : Nat := 2
/-- GIMG. -/
abbrev gImg : Nat := 3
/-- NOCKPT. -/
abbrev gNockpt : Nat := 4
/-- UNBOUND. -/
abbrev gUnbound : Nat := 5
/-- NOSPILL. -/
abbrev gNospill : Nat := 6

/-- A slot number, or SLOTNUM. -/
def slotNum (is : Issue) (r : Fin 32) : M Nat := do
  let n ← getS is r
  if 15 < n.toNat then
    trap { cause := Cause.grammar, sub := 7, val := n, detail := n.toNat % 256 }
  else return n.toNat

/-- The walkers of the issuer's Quay. -/
def getW (is : Issue) : M Walkers := do return ((← get).qy (quayOf is.g)).walk
/-- Changes them. -/
def modW (is : Issue) (f : Walkers → Walkers) : M Unit :=
  modify (fun s => s.modQy (quayOf is.g) (fun y => { y with walk := f y.walk }))

/-- What a slot holds. -/
def getSlot (is : Issue) (n : Nat) : M (Option Walker) := do return (← getW is).slots.toList.getD n none
/-- Puts it. -/
def setSlot (is : Issue) (n : Nat) (w : Option Walker) : M Unit := modW is (fun k => { k with slots := setIx k.slots n w })

/-- Records LAST, and traps GRAMMAR when the slot's trap bit asks for it; the effects stand, and within a strip the cut after
the instruction comes first (R282). -/
def gdone (is : Issue) (n code : Nat) : M Unit := do
  modW is (fun k => { k with last := setIx k.last n code })
  if 2 ≤ code ∧ (← getW is).gtrap.getLsbD n then
    modify (fun s => s.retire is true)
    trapKeep { cause := Cause.grammar, sub := code, val := BitVec.ofNat 64 n, detail := n, tepc := some (is.at_ + 4) }

/-- The status word (R281). -/
def gstatus (w : Option Walker) (last : Nat) (eosok : Bool) : Word :=
  match w with
  | none => BitVec.ofNat 64 last
  | some w => BitVec.ofNat 64 (last + w.err * 2 ^ 4 + 2 ^ 6 + eosok.toNat * 2 ^ 7 + w.done.toNat * 2 ^ 8
      + w.stack.length * 2 ^ 9 + w.ckpts.length * 2 ^ 20 + w.tokens % 2 ^ 32 * 2 ^ 32)

/-! ### Reading images (R271-R277, R284) -/

/-- A walker's read: a relaxed load by the issuing agent. -/
def gload (is : Issue) (a : Addr) (n : Nat) : M Nat := do
  let h ← access is a n Acc.load
  readHit is a h n

/-- Several 8-byte reads as one value. -/
def gloads (is : Issue) (a : Addr) : Nat → M Nat
  | 0 => return 0
  | k + 1 => do
    let x ← gload is a 8
    let y ← gloads is (a + 8) k
    return x + y * 2 ^ 64

/-- A little-endian field of a value: byte offset and size. -/
def byteField (x off n : Nat) : Nat := x / 2 ^ (8 * off) % 2 ^ (8 * n)

/-- The header of 64 bytes, when it meets R271. -/
def hdrOf (x : Nat) : Option GrammarHdr :=
  let f := byteField x
  let h : GrammarHdr := ⟨f 8 2, f 10 2, f 12 4, f 16 4, f 20 4, f 28 4, f 32 4, f 36 4, f 40 4, f 44 4, f 24 4, f 48 4, f 52 4⟩
  let sec (off len : Nat) : Bool := decide (off % 8 = 0 ∧ 320 ≤ off ∧ off + len ≤ h.size)
  if f 0 4 = 0x31524D47 ∧ f 4 2 = 1 ∧ f 6 2 = 0 ∧ 1 ≤ h.nclass ∧ h.nclass ≤ 256 ∧ 1 ≤ h.nsym
      ∧ 1 ≤ h.nstate ∧ h.nstate ≤ 2 ^ 24 ∧ 1 ≤ h.ntrans ∧ h.ntrans ≤ 2 ^ 28 ∧ 1 ≤ h.ntok ∧ h.ntok ≤ 262144
      ∧ 1 ≤ h.nTrie ∧ h.nTrie ≤ 2 ^ 24 ∧ h.start < h.nstate ∧ f 56 8 = 0
      ∧ sec h.oState (16 * h.nstate) ∧ sec h.oTrans (8 * h.ntrans) ∧ sec h.oTok (8 * h.ntok) ∧ sec h.oBytes 0
      ∧ sec h.oTrie (16 * h.nTrie)
  then some h else none

/-- Reads and checks the header and the byte-class map (R277). -/
def gheader (is : Issue) (img : Addr) : M (Option GrammarHdr) := do
  let x ← gloads is img 8
  match hdrOf x with
  | none => return none
  | some h =>
    let m ← gloads is (img + 64) 32
    return if (List.range 256).all (fun b => decide (byteField m b 1 < h.nclass)) then some h else none

/-- A state entry (R272). -/
structure GState where
  tfirst : Nat
  tcount : Nat
  accept : Bool
  cache  : Option Nat
  ctop   : Nat
deriving DecidableEq, Repr

/-- Reads a state entry; none is malformed. -/
def gstate (is : Issue) (w : Walker) (st : Nat) : M (Option GState) := do
  let x ← gloads is (w.image + BitVec.ofNat 72 (w.hdr.oState + 16 * st)) 2
  let f := byteField x
  let fl := f 6 2
  return if f 0 4 + f 4 2 ≤ w.hdr.ntrans ∧ fl < 4 ∧ f 14 2 = 0 ∧ (if 2 ≤ fl then f 8 4 % 8 = 0 else f 8 4 = 0) then
    some ⟨f 0 4, f 4 2, decide (fl % 2 = 1), if 2 ≤ fl then some (f 8 4) else none, f 12 2⟩ else none

/-- A transition (R273). -/
structure GTrans where
  cls  : Nat
  op   : Nat
  sym  : Nat
  next : Nat
deriving DecidableEq, Repr

/-- Reads a transition. -/
def gtrans (is : Issue) (w : Walker) (k : Nat) : M (Option GTrans) := do
  let x ← gload is (w.image + BitVec.ofNat 72 (w.hdr.oTrans + 8 * k)) 8
  let f := byteField x
  let t : GTrans := ⟨f 0 1, f 1 1, f 2 2, f 4 4⟩
  let symOk : Bool := match t.op with
    | 0 => decide (t.sym = 0)
    | 1 => decide (t.sym < w.hdr.nsym)
    | 2 => decide (t.sym < w.hdr.nsym ∨ t.sym = 0xFFFF)
    | _ => false
  return if t.cls < w.hdr.nclass ∧ symOk ∧ t.next < w.hdr.nstate then some t else none

/-- Reads a token entry (R274): offset, length, end of sequence. -/
def gtok (is : Issue) (w : Walker) (t : Nat) : M (Option (Nat × Nat × Bool)) := do
  let x ← gload is (w.image + BitVec.ofNat 72 (w.hdr.oTok + 8 * t)) 8
  let f := byteField x
  return if f 4 2 ≤ 255 ∧ f 6 2 ≤ 1 ∧ (f 6 2 = 1 → f 4 2 = 0) ∧ w.hdr.oBytes + f 0 4 + f 4 2 ≤ w.hdr.size then
    some (f 0 4, f 4 2, decide (f 6 2 = 1)) else none

/-- EOSOK (R269); none when the state's entry is malformed. -/
def geosok (is : Issue) (w : Walker) : M (Option Bool) := do
  if w.err ≠ 0 ∨ w.done ∨ w.stack ≠ [] then return some false
  else
    match ← gstate is w w.st with
    | none => return none
    | some e => return some e.accept

/-! ### The spill area (R279) -/

/-- The place of a stack symbol, counted from the bottom, in a spill area. -/
def spillSym (spill k : Nat) : Addr := mkAddr 0 (spill + 2 * k)
/-- The place of a log entry. -/
def spillLog (spill k : Nat) : Addr := mkAddr 0 (spill + 2048 + 2 * k)

/-- A read of a spilled symbol or entry. -/
def spillRead (is : Issue) (a : Addr) : M Unit := do
  let _ ← gload is a 2

/-- Stores bytes as the walker does: relaxed stores of its issuer, checked already. -/
def walkStore (is : Issue) (us : List (Hit × List Byte)) : M Unit := modify (fun s =>
  let dev := us.filter (fun u => u.1.mtype = 2)
  let mem := us.filter (fun u => u.1.mtype ≠ 2)
  dev.foldl (fun s u => s.deviceStore is.g u.1.place u.2)
    (if mem = [] then s else s.enqueue is.g none false (mem.map (fun u => placeBytes u.1.place u.2))))

/-- Writes of spilled symbols or entries: any other reader sees unspecified values. -/
def spillWrite (is : Issue) (as : List Addr) : M Unit := do
  let hs ← checkEach is 2 as
  let s ← get
  let n := s.freeOf (s.ctxOf is.g)
  modify (fun s => s.useFreeOf (s.ctxOf is.g))
  walkStore is (hs.zipIdx.map (fun h => (h.1, [Config.freeByte (8192 * n + 2 * h.2), Config.freeByte (8192 * n + 2 * h.2 + 1)])))

/-! ### Step (R286) -/

/-- A step in progress: the state, the stack, the log entries it would append, the spilled symbols it would write, the
least depth it has come to, and how many bytes it has taken. -/
structure GRun where
  st    : Nat
  stack : List Nat
  ents  : List Nat := []
  outs  : List Nat := []
  low   : Nat
  taken : Nat := 0

/-- The first transition that takes a class: none is malformed, `some none` is no transition. A trial reads the spilled
symbols that it looks at. -/
def gfind (is : Issue) (w : Walker) (trial : Bool) (r : GRun) (cls : Nat) : Nat → Nat → M (Option (Option GTrans))
  | 0, _ => return some none
  | n + 1, k => do
    match ← gtrans is w k with
    | none => return none
    | some t =>
      if t.cls ≠ cls then gfind is w trial r cls n (k + 1)
      else if t.op ≠ 2 then return some (some t)
      else
        match r.stack with
        | [] => gfind is w trial r cls n (k + 1)
        | top :: _ =>
          let ix := r.stack.length - 1
          if trial ∧ ix < r.low ∧ ix + 64 < w.stack.length then spillRead is (spillSym w.spill ix)
          if top = t.sym ∨ t.sym = 0xFFFF then return some (some t) else gfind is w trial r cls n (k + 1)

/-- Takes the bytes of a token one by one: the result code and the run. -/
def gbytes (is : Issue) (w : Walker) (trial : Bool) : List Nat → GRun → M (Nat × GRun)
  | [], r => return (gOk, r)
  | a :: as, r => do
    let b ← gload is (w.image + BitVec.ofNat 72 a) 1
    let cls ← gload is (w.image + BitVec.ofNat 72 (64 + b)) 1
    if w.hdr.nclass ≤ cls then return (gImg, r)
    match ← gstate is w r.st with
    | none => return (gImg, r)
    | some e =>
      match ← gfind is w trial r cls e.tcount e.tfirst with
      | none => return (gImg, r)
      | some none => return (gReject, r)
      | some (some t) =>
        let d := r.stack.length
        match t.op with
        | 1 =>
          if d = 1024 then return (gOvf, r)
          else gbytes is w trial as { r with
            st := t.next, stack := t.sym :: r.stack, ents := r.ents ++ [0xFFFF], taken := r.taken + 1
            outs := if 64 ≤ d then r.outs ++ [d - 64] else r.outs }
        | 2 =>
          if !trial ∧ 64 < d then spillRead is (spillSym w.spill (d - 65))
          gbytes is w trial as { r with
            st := t.next, stack := r.stack.tail, ents := r.ents ++ [r.stack.headD 0], low := min r.low (d - 1), taken := r.taken + 1 }
        | _ => gbytes is w trial as { r with st := t.next, taken := r.taken + 1 }

/-- What Step finds for a token; with a code, how many of its bytes it has taken. -/
inductive GTry where
  | code (c : Nat) (taken : Nat := 0)
  | eos
  | run (r : GRun)

/-- Step without its effect. -/
def gtry (is : Issue) (w : Walker) (trial : Bool) (t : Nat) : M GTry := do
  if w.done ∨ w.hdr.ntok ≤ t then return .code gReject
  match ← gtok is w t with
  | none => return .code gImg
  | some (boff, len, eos) =>
    if eos then
      match ← geosok is w with
      | none => return .code gImg
      | some true => return .eos
      | some false => return .code gReject
    else if len = 0 then return .code gReject
    else
      let as := (List.range len).map (fun k => w.hdr.oBytes + boff + k)
      let r ← gbytes is w trial as { st := w.st, stack := w.stack, low := w.stack.length }
      if r.1 = gOk then return .run r.2 else return .code r.1 r.2.taken

/-! ### The log and the checkpoints (R280) -/

/-- Drops the oldest checkpoint with the entries below the next one's. -/
def Walker.dropOldest (w : Walker) : Walker :=
  match w.ckpts with
  | [] => w
  | [_] => { w with ckpts := [], log := [] }
  | _ :: c :: cs =>
    { w with
      ckpts := (c :: cs).map (fun x => { x with logPos := x.logPos - c.logPos })
      log := w.log.drop c.logPos }

/-- Drops checkpoints until some entries fit. -/
def Walker.fit (n : Nat) : Nat → Walker → Walker
  | 0, w => w
  | k + 1, w => if w.ckpts ≠ [] ∧ 2048 < w.log.length + n then Walker.fit n k w.dropOldest else w

/-- Logs the entries of a step: the slot, and the positions written. -/
def Walker.logStep (w : Walker) (ents : List Nat) : Walker × List Nat :=
  let w := Walker.fit ents.length 17 w
  if w.ckpts = [] then ({ w with log := [] }, [])
  else ({ w with log := w.log ++ ents }, (List.range ents.length).map (fun k => w.log.length + k))

/-! ### GBIND -/

/-- GBIND (R285). -/
def execGbind (d : Fin 16) (a : Fin 32) (s : State) : Out :=
  s.run (.gbind d a) .cutting (fun is => do
    let n ← slotNum is a
    let img ← getR is d
    if img.toNat % 64 ≠ 0 then trap { cause := Cause.align, val := offOf img, win := winOf img }
    let sp := (← getW is).gspill.toList.getD n 0
    if sp.toNat % 2 = 0 then gdone is n gNospill
    else
      match ← gheader is img with
      | none => gdone is n gImg
      | some h =>
        setSlot is n (some { image := img, hdr := h, spill := sp.toNat / 2 ^ 13 * 2 ^ 13, st := h.start })
        gdone is n gOk)

/-- GBIND.FREE (R285). -/
def execGbindFree (a : Fin 32) (s : State) : Out :=
  s.run (.gbindFree a) .cutting (fun is => do
    let n ← slotNum is a
    setSlot is n none
    gdone is n gOk)

/-! ### GSTEP -/

/-- The outcome of GSTEP on a bound slot without an error: the result, the slot. -/
def gstepRun (is : Issue) (w : Walker) (t : Nat) : M (Nat × Walker) := do
  match ← gtry is w false t with
  | .eos => return (gOk, { w with done := true, tokens := (w.tokens + 1) % 2 ^ 32 })
  | .run r =>
    let l := w.logStep r.ents
    return (gOk, { l.1 with st := r.st, stack := r.stack, tokens := (w.tokens + 1) % 2 ^ 32 })
  | .code c _ =>
    if c = gOvf then return (c, { w with err := 1 })
    else if c = gImg then return (c, { w with err := 2 })
    else return (c, w)

/-- The spill writes of a committed step. -/
def gstepSpill (is : Issue) (w : Walker) (t : Nat) : M Unit := do
  match ← gtry is w false t with
  | .run r =>
    let as := r.outs.map (spillSym w.spill) ++ ((w.logStep r.ents).2).map (spillLog w.spill)
    if as ≠ [] then spillWrite is as
  | _ => pure ()

/-- A bound slot with its image's header, which is read when an instruction first needs it after a context restore (R296, log entry 87);
none where the header is bad. -/
def getHead (is : Issue) (w : Walker) : M (Option Walker) := do
  if w.hdr.size = 0 then return (← gheader is w.image).map (fun h => { w with hdr := h })
  else return some w

/-- GSTEP (R286). When the entry of the state that EOSOK asks for is malformed, the step is undone with GIMG (R277). -/
def execGstep (d a b : Fin 32) (s : State) : Out :=
  s.run (.gstep d a b) .cutting (fun is => do
    let n ← slotNum is a
    let t := (← getS is b).toNat
    let bad (w : Walker) : M Unit := do
      setSlot is n (some { w with err := 2 })
      setS is d (gstatus (some { w with err := 2 }) gImg false)
      gdone is n gImg
    match ← getSlot is n with
    | none =>
      setS is d (gstatus none gUnbound false)
      gdone is n gUnbound
    | some w =>
      if w.err ≠ 0 then
        setS is d (gstatus (some w) (w.err + 1) false)
        gdone is n (w.err + 1)
      else match ← getHead is w with
      | none => bad w
      | some w =>
        let r ← gstepRun is w t
        match ← geosok is r.2 with
        | none => bad w
        | some e =>
          if r.1 = gOk then gstepSpill is w t
          setSlot is n (some r.2)
          setS is d (gstatus (some r.2) r.1 e)
          gdone is n r.1)

/-! ### The trie (R275) -/

/-- A trie node: its children, the byte that leads into it, the token that it lists. -/
structure GNode where
  child  : Nat
  nchild : Nat
  byte   : Nat
  tok    : Option Nat
deriving DecidableEq, Repr

/-- Some bytes of a token in the pool. -/
def gpool (is : Issue) (w : Walker) : List Nat → M (List Nat)
  | [] => return []
  | a :: as => do
    let b ← gload is (w.image + BitVec.ofNat 72 a) 1
    let bs ← gpool is w as
    return b :: bs

/-- Whether a path from the root is the bytes of a token, as the node that lists it has to say. -/
def glists (is : Issue) (w : Walker) (path : List Nat) (t : Nat) : M Bool := do
  if w.hdr.ntok ≤ t ∨ path = [] then return false
  else match ← gtok is w t with
  | some (boff, len, false) =>
    if len = path.length then
      let bs ← gpool is w ((List.range len).map (fun k => w.hdr.oBytes + boff + k))
      return decide (bs = path)
    else return false
  | _ => return false

/-- Reads a trie node; `path` is the bytes on the edges above it, and `root` says that no edge leads into it. None is malformed, or
disagrees with the token table. -/
def gnode (is : Issue) (w : Walker) (path : List Nat) (root : Bool) (n : Nat) : M (Option GNode) := do
  let x ← gloads is (w.image + BitVec.ofNat 72 (w.hdr.oTrie + 16 * n)) 2
  let f := byteField x
  let has := (f 8 4).testBit 31
  let node : GNode := ⟨f 0 4, f 4 2, f 6 1, if has then some (f 8 4 % 2 ^ 18) else none⟩
  let fits := decide (f 7 1 = 0 ∧ f 12 4 = 0 ∧ f 8 4 / 2 ^ 18 % 2 ^ 13 = 0 ∧ node.nchild ≤ 256
    ∧ (if node.nchild = 0 then node.child = 0 else 1 ≤ node.child ∧ node.child + node.nchild ≤ w.hdr.nTrie))
  if !fits then return none
  else match node.tok with
  | none => return some node
  | some t => return if ← glists is w (if root then path else path ++ [node.byte]) t then some node else none

/-- Reads `k` consecutive children of a node: none when one is malformed or their bytes do not ascend. -/
def gkids (is : Issue) (w : Walker) (path : List Nat) : Nat → Nat → M (Option (List GNode))
  | 0, _ => return some []
  | k + 1, n => do
    match ← gnode is w path false n, ← gkids is w path k (n + 1) with
    | some x, some xs => return if (match xs with | y :: _ => decide (x.byte < y.byte) | [] => true) then some (x :: xs) else none
    | _, _ => return none

/-- The node at the end of a path below a node; none where the trie is malformed, or has no such path. -/
def gdescend (is : Issue) (w : Walker) (path : List Nat) (x : GNode) : List Nat → M (Option GNode)
  | [] => return some x
  | b :: bs => do
    match ← gkids is w path x.nchild x.child with
    | none => return none
    | some kids =>
      match kids.find? (fun y => decide (y.byte = b)) with
      | none => return none
      | some y => gdescend is w (path ++ [b]) y bs

/-- Whether the trie agrees with the token table as far as the walk of a token reads it: the nodes on the path of the bytes that the walk
has taken, with the children that lie beside them, and for a token taken whole that it is listed there (R275, R287, log entry 85). -/
def gtrieOk (is : Issue) (w : Walker) (t taken : Nat) (whole : Bool) : M Bool := do
  if taken = 0 then return true
  else match ← gtok is w t with
  | none => return false
  | some (boff, _, _) =>
    let bs ← gpool is w ((List.range taken).map (fun k => w.hdr.oBytes + boff + k))
    match ← gnode is w [] true 0 with
    | none => return false
    | some r =>
      match ← gdescend is w [] r bs with
      | none => return false
      | some x => return !whole || decide (x.tok = some t)

/-! ### GMASK -/

/-- The mask's bits for the tokens from `t` on, each evaluated, and whether a malformed entry was read (R275, R276, R287); `e` is the
entry of the state, none when it is malformed. -/
def gmaskBits (is : Issue) (w : Walker) (e : Option GState) : Nat → Nat → M (Bool × List Bool)
  | 0, _ => return (false, [])
  | k + 1, t => do
    let walk : M (Bool × Bool) := do
      match ← gtry is w true t with
      | .code c n => return (decide (c = gImg) || !(← gtrieOk is w t n false), false)
      | .run r => return (!(← gtrieOk is w t r.taken true), true)
      | .eos => return (false, true)
    let cached : Option Nat := e.bind (fun e => if e.ctop = 0xFFFF ∨ w.stack.head? = some e.ctop then e.cache else none)
    let x : Bool × Bool ← (match cached with
      | none => walk
      | some off => do
        let base := w.image + BitVec.ofNat 72 off
        let acc ← gload is (base + BitVec.ofNat 72 (t / 8)) 1
        let rej ← gload is (base + BitVec.ofNat 72 (8 * ((w.hdr.ntok + 63) / 64) + t / 8)) 1
        if acc.testBit (t % 8) ∨ rej.testBit (t % 8) then return (acc.testBit (t % 8) && rej.testBit (t % 8), acc.testBit (t % 8))
        else walk)
    let xs ← gmaskBits is w e k (t + 1)
    return (x.1 || xs.1, x.2 :: xs.2)

/-- The mask of a bound slot: its bits, LAST, the slot. -/
def gmaskRun (is : Issue) (w : Walker) : M (List Bool × Nat × Walker) := do
  let zeros := List.replicate (w.hdr.ntok + 1) false
  if w.err ≠ 0 then return (zeros, w.err + 1, w)
  else if w.done then return (zeros, gOk, w)
  else
    let e ← gstate is w w.st
    let x ← gmaskBits is w e w.hdr.ntok 0
    if x.1 ∨ e.isNone then return (zeros, gImg, { w with err := 2 })
    else return (x.2 ++ [e.any (fun e => e.accept) && decide (w.stack = [])], gOk, w)

/-- The bytes of a mask in its form. -/
def maskBytes (bytes : Bool) (bs : List Bool) : List Byte :=
  if bytes then
    let n := (bs.length + 7) / 8 * 8
    bs.map (fun b => if b then 1 else 0) ++ List.replicate (n - bs.length) 0
  else leBytes ((bs.length + 63) / 64 * 8) (bs.zipIdx.foldl (fun acc x => if x.1 then acc + 2 ^ x.2 else acc) 0)

/-- Granules of 8 bytes from an address on. -/
def granuleAddrs (a : Addr) (n : Nat) : List Addr := (List.range (n / 8)).map (fun k => a + BitVec.ofNat 72 (8 * k))

/-- Writes checked granules and performs them before the instruction completes. -/
def performGranules (is : Issue) (hs : List Hit) (bs : List Byte) : M Unit := do
  walkStore is (hs.zipIdx.map (fun h => (h.1, (bs.drop (8 * h.2)).take 8)))
  modify (fun s => s.drainFor is.g ((hs.filter (fun h => h.mtype ≠ 2)).flatMap (fun h => h.place.span 8)))

/-- GMASK (R287). -/
def execGmask (d : Fin 16) (a : Fin 32) (f : Bool) (s : State) : Out :=
  s.run (.gmask d a f) .cutting (fun is => do
    let n ← slotNum is a
    match ← getSlot is n with
    | none => gdone is n gUnbound
    | some w =>
      let w := (← getHead is w).getD (if w.err = 0 then { w with err := 2 } else w)
      let dst ← getR is d
      if dst.toNat % 8 ≠ 0 then trap { cause := Cause.align, val := offOf dst, win := winOf dst }
      let as := granuleAddrs dst (maskBytes f (List.replicate (w.hdr.ntok + 1) false)).length
      let hs ← checkEach is 8 as
      watchM is (hs.map (·.place))
      let r ← gmaskRun is w
      performGranules is hs (maskBytes f r.1)
      setSlot is n (some r.2.2)
      gdone is n r.2.1)

/-! ### GCKPT, GROLL, GFORK -/

/-- GCKPT (R288). -/
def execGckpt (a : Fin 32) (s : State) : Out :=
  s.run (.gckpt a) .cutting (fun is => do
    let n ← slotNum is a
    match ← getSlot is n with
    | none => gdone is n gUnbound
    | some w =>
      if w.err ≠ 0 then gdone is n (w.err + 1)
      else
        let w := if 16 ≤ w.ckpts.length then w.dropOldest else w
        setSlot is n (some { w with ckpts := w.ckpts ++ [⟨w.st, w.stack.length, w.log.length, w.tokens, w.done⟩] })
        gdone is n gOk)

/-- Applies log entries backwards, the last first: the stack, the spilled symbols read and written. -/
def undoLog : List Nat → List Nat → List Nat × List Nat × List Nat
  | [], st => (st, [], [])
  | e :: es, st =>
    let d := st.length
    if e = 0xFFFF then
      let r := undoLog es st.tail
      (r.1, (if 64 < d then [d - 65] else []) ++ r.2.1, r.2.2)
    else
      let r := undoLog es (e :: st)
      (r.1, r.2.1, (if 64 ≤ d then [d - 64] else []) ++ r.2.2)

/-- GROLL (R289). -/
def execGroll (a b : Fin 32) (s : State) : Out :=
  s.run (.groll a b) .cutting (fun is => do
    let n ← slotNum is a
    let k := (← getS is b).toNat
    match ← getSlot is n with
    | none => gdone is n gUnbound
    | some w =>
      if w.err = 2 then gdone is n gImg
      else
        match w.ckpts.reverse[k]? with
        | none => gdone is n gNockpt
        | some c =>
          let es := (w.log.drop c.logPos).reverse
          let r := undoLog es w.stack
          let logs := (List.range es.length).map (fun j => spillLog w.spill (w.log.length - 1 - j))
          for x in logs ++ r.2.1.map (spillSym w.spill) do spillRead is x
          if r.2.2 ≠ [] then spillWrite is (r.2.2.map (spillSym w.spill))
          setSlot is n (some { w with
            st := c.st, tokens := c.tokens, done := c.done, err := 0, stack := r.1
            ckpts := w.ckpts.take (w.ckpts.length - k), log := w.log.take c.logPos })
          gdone is n gOk)

/-- The spilled symbols and entries of a slot in a spill area. -/
def Walker.spilled (w : Walker) (spill : Nat) : List Addr :=
  (List.range (w.stack.length - 64)).map (spillSym spill) ++ (List.range w.log.length).map (spillLog spill)

/-- GFORK (R290). -/
def execGfork (d a : Fin 32) (s : State) : Out :=
  s.run (.gfork d a) .cutting (fun is => do
    let n ← slotNum is a
    let m ← slotNum is d
    match ← getSlot is n with
    | none => gdone is n gUnbound
    | some w =>
      let sp := (← getW is).gspill.toList.getD m 0
      if sp.toNat % 2 = 0 then gdone is n gNospill
      else if m = n then gdone is n gOk
      else
        let spill := sp.toNat / 2 ^ 13 * 2 ^ 13
        if w.spilled spill ≠ [] then spillWrite is (w.spilled spill)
        setSlot is m (some { w with spill := spill })
        modW is (fun k => { k with last := setIx k.last m gOk })
        gdone is n gOk)

/-! ### GSAVE and GREST (R291-R293) -/

/-- The bytes of a checkpoint in a record. -/
def WalkCkpt.bytes (c : WalkCkpt) : List Byte :=
  leBytes 4 c.st ++ leBytes 2 c.depth ++ leBytes 2 c.logPos ++ leBytes 4 c.tokens ++ leBytes 4 c.done.toNat

/-- The first `n` bytes of a list, zeros beyond its end. -/
def padTo (n : Nat) (bs : List Byte) : List Byte := bs ++ List.replicate (n - bs.length) 0

/-- A slot record. -/
def Walker.record (w : Walker) (tag : Word) : List Byte :=
  leBytes 4 0x53524C47 ++ leBytes 2 1 ++ leBytes 2 (w.err + w.done.toNat * 4)
  ++ leBytes 8 (offOf w.image).toNat ++ leBytes 1 (winOf w.image) ++ leBytes 7 0
  ++ leBytes 4 w.st ++ leBytes 2 w.stack.length ++ leBytes 1 w.ckpts.length ++ leBytes 1 0 ++ leBytes 2 w.log.length
  ++ leBytes 2 0 ++ leBytes 4 w.tokens ++ leBytes 8 tag.toNat ++ leBytes 16 0
  ++ padTo 2048 (w.stack.reverse.flatMap (leBytes 2)) ++ padTo 256 (w.ckpts.flatMap WalkCkpt.bytes)
  ++ padTo 4096 (w.log.flatMap (leBytes 2))

/-- GSAVE (R292). -/
def execGsave (d : Fin 16) (a b : Fin 32) (s : State) : Out :=
  s.run (.gsave d a b) .cutting (fun is => do
    let n ← slotNum is a
    match ← getSlot is n with
    | none => gdone is n gUnbound
    | some w =>
      let dst ← getR is d
      if dst.toNat % 64 ≠ 0 then trap { cause := Cause.align, val := offOf dst, win := winOf dst }
      let as := granuleAddrs dst 6464
      let hs ← checkEach is 8 as
      for x in w.spilled w.spill do spillRead is x
      watchM is (hs.map (·.place))
      performGranules is hs (w.record (← getS is b))
      gdone is n gOk)

/-- The checkpoints of a record. -/
def recordCkpts (x : Nat) : List WalkCkpt :=
  let f := byteField x
  (List.range (f 30 1)).map (fun k =>
    ⟨f (2112 + 16 * k) 4, f (2116 + 16 * k) 2, f (2118 + 16 * k) 2, f (2120 + 16 * k) 4, decide (f (2124 + 16 * k) 1 % 2 = 1)⟩)

/-- Whether the fields of a record keep the limits of R291 that do not depend on the image: those that are 0, what is zero beyond a
length, and the order of the checkpoints (R293). -/
def recordFits (x : Nat) : Bool :=
  let f := byteField x
  let cks := recordCkpts x
  decide (f 0 4 = 0x53524C47 ∧ f 4 2 = 1 ∧ f 6 2 < 8 ∧ f 6 2 % 4 ≤ 2 ∧ f 17 7 = 0 ∧ f 31 1 = 0 ∧ f 34 2 = 0 ∧ f 48 16 = 0
    ∧ f 28 2 ≤ 1024 ∧ f 30 1 ≤ 16 ∧ f 32 2 ≤ 2048 ∧ (f 30 1 = 0 → f 32 2 = 0)
    ∧ f (64 + 2 * f 28 2) (2048 - 2 * f 28 2) = 0 ∧ f (2112 + 16 * f 30 1) (256 - 16 * f 30 1) = 0
    ∧ f (2368 + 2 * f 32 2) (4096 - 2 * f 32 2) = 0)
  && (List.range (f 30 1)).all (fun k => decide (f (2124 + 16 * k) 4 < 2))
  && cks.all (fun c => decide (c.depth ≤ 1024 ∧ c.logPos ≤ f 32 2))
  && (cks.zip cks.tail).all (fun p => decide (p.1.logPos ≤ p.2.logPos))

/-- A slot as a record of 6,464 bytes gives it, with its tag, when every field keeps its limit under the header of its image. -/
def walkerOf (x : Nat) (h : GrammarHdr) (spill : Nat) : Option (Walker × Word) :=
  let f := byteField x
  let stack := (List.range (f 28 2)).map (fun k => f (64 + 2 * k) 2)
  let cks := recordCkpts x
  let log := (List.range (f 32 2)).map (fun k => f (2368 + 2 * k) 2)
  if recordFits x ∧ f 24 4 < h.nstate ∧ stack.all (fun e => decide (e < h.nsym)) ∧ log.all (fun e => decide (e < h.nsym ∨ e = 0xFFFF))
      ∧ cks.all (fun c => decide (c.st < h.nstate)) then
    some ({ image := mkAddr (f 16 1) (f 8 8), hdr := h, spill := spill, st := f 24 4
            stack := stack.reverse, log := log, ckpts := cks, tokens := f 36 4
            err := f 6 2 % 4, done := decide (4 ≤ f 6 2) }, BitVec.ofNat 64 (f 40 8))
  else none

/-- GREST (R293). The limits of the record's own fields are judged before the image is read. -/
def execGrest (d a : Fin 32) (b : Fin 16) (s : State) : Out :=
  s.run (.grest d a b) .cutting (fun is => do
    let n ← slotNum is a
    let src ← getR is b
    if src.toNat % 64 ≠ 0 then trap { cause := Cause.align, val := offOf src, win := winOf src }
    let x ← gloads is src 808
    let img := mkAddr (byteField x 16 1) (byteField x 8 8)
    if !recordFits x ∨ img.toNat % 64 ≠ 0 then gdone is n gImg
    else
      match ← gheader is img with
      | none => gdone is n gImg
      | some h =>
        let sp := (← getW is).gspill.toList.getD n 0
        match walkerOf x h (sp.toNat / 2 ^ 13 * 2 ^ 13) with
        | none => gdone is n gImg
        | some w =>
          if sp.toNat % 2 = 0 then gdone is n gNospill
          else
            if w.1.spilled w.1.spill ≠ [] then spillWrite is (w.1.spilled w.1.spill)
            setSlot is n (some w.1)
            setS is d w.2
            gdone is n gOk)

/-- GSTAT (R294). -/
def execGstat (d a : Fin 32) (sel : BitVec 2) (s : State) : Out :=
  s.run (.gstat d a sel) .both (fun is => do
    let n ← slotNum is a
    let w ← getSlot is n
    let last := (← getW is).last.toList.getD n 0
    match sel.toNat, w with
    | 0, none => setS is d (gstatus none last false)
    | 0, some x =>
      let e ← if x.err ≠ 0 then pure none else match ← getHead is x with | some y => geosok is y | none => pure none
      setS is d (gstatus (some x) last (e.getD false))
    | 1, none => setS is d 0
    | 1, some x => setS is d (BitVec.ofNat 64 x.st)
    | 2, none => setS is d (BitVec.allOnes 64)
    | 2, some x => setS is d (match x.stack with | [] => BitVec.allOnes 64 | t :: _ => BitVec.ofNat 64 t)
    | _, none => setS is d 0
    | _, some x => setS is d (BitVec.ofNat 64 x.log.length))

end Sys2Proof.Machine
end

