-- ==== Sys2Proof/Machine/Place.lean ====
section
/-! DEFINITION. Launch records (R299-R302), the placement of a grid (R302-R304), the start of an agent (R45, R304). -/

namespace Sys2Proof.Machine

/-! ### Launch records -/

/-- An address slot of a record in the layout of STA: the address, and whether its bytes 9-15 are zero. -/
def slotAddr (x off : Nat) : Addr × Bool := (BitVec.ofNat 72 (byteField x off 9), decide (byteField x (off + 9) 7 = 0))

/-- A level descriptor (R300) and whether its zero bytes are zero and its codes in range. -/
def levelOf (x off k : Nat) : Level × Bool :=
  let f (o n : Nat) : Nat := byteField x (off + o) n
  let l : Level := ⟨f 0 4, f 4 1, f 5 1, f 6 1, f 7 1, decide (f 8 1 % 2 = 1)⟩
  (l, decide (1 ≤ l.extent ∧ l.domain ≤ 5 ∧ l.scope ≤ 5 ∧ f 8 1 < 2 ∧ f 9 7 = 0)
    && (if k = 0 then decide (l.domain = 0 ∧ 1 ≤ l.qmin ∧ l.qmin ≤ 8 ∧ l.qmin ≤ l.qpref ∧ l.qpref ≤ 8)
        else decide (l.qmin = 0 ∧ l.qpref = 0)))

/-- The extents' product. -/
def extents (ls : List Level) : Nat := ls.foldl (fun (n : Nat) (l : Level) => n * l.extent) 1
/-- The hart levels of a grid. -/
def hartLevels (ls : List Level) : List Level := ls.takeWhile (fun l => decide (l.domain = 0))
/-- The levels above them. -/
def quayLevels (ls : List Level) : List Level := ls.dropWhile (fun l => decide (l.domain = 0))
/-- The harts of a Quay instance (R302). -/
def hartCount (ls : List Level) : Nat := extents (hartLevels ls)

/-- A launch record of 256 bytes, when it is legal (R299-R302). -/
def launchOf (x : Nat) : Option LaunchRecord :=
  let f (o w : Nat) : Nat := byteField x o w
  let n := f 6 1
  let fl := f 7 1
  let lv := (List.range n).map (fun k => levelOf x (128 + 16 * k) k)
  let ls : List Level := lv.map (fun p => p.1)
  let slots := [slotAddr x 16, slotAddr x 32, slotAddr x 48, slotAddr x 64]
  let stack := f 88 4
  let lv0 : Level := ls.headD ⟨1, 0, 0, 1, 1, false⟩
  if decide (f 0 4 = 0x3148434C ∧ f 4 2 = 1 ∧ 1 ≤ n ∧ n ≤ 8 ∧ fl < 16 ∧ f 8 8 = 0 ∧ f 92 4 = 0 ∧ stack % 16 = 0 ∧ f 96 32 = 0)
      && slots.all (fun p => p.2) && (decide (fl % 2 = 1) || decide (f 32 16 = 0)) && lv.all (fun p => p.2)
      && decide (f (128 + 16 * n) (128 - 16 * n) = 0)
      && (ls.zip ls.tail).all (fun p => decide (p.1.domain ≤ p.2.domain))
      && decide (hartCount ls ≤ 8 ∧ hartCount ls * lv0.qmin ≤ 8) then
    some { pilot := decide (fl % 2 = 1), seed := decide (fl / 2 % 2 = 1), prio := fl / 4 % 4
           entry := (slotAddr x 16).1, pentry := (slotAddr x 32).1, args := (slotAddr x 48).1, fut := (slotAddr x 64).1
           seedv := BitVec.ofNat 64 (f 80 8), stack := if stack = 0 then 65536 else stack, levels := ls }
  else none

/-! ### Index vectors, groups, scopes (R302, R303) -/

/-- The index vector of a number in a grid of some levels, innermost first. -/
def digits : List Level → Nat → List Nat
  | [], _ => []
  | l :: ls, n => n % l.extent :: digits ls (n / l.extent)

/-- The number of an index vector. -/
def ofDigits : List Level → List Nat → Nat
  | l :: ls, i :: is => i + l.extent * ofDigits ls is
  | _, _ => 0

/-- The module of a Quay as a placement names it: those of this module are 0-191, those of module m begin at 192 × (m + 1). -/
def quayModule (q : Nat) : Option Nat := if q < 192 then none else some (q / 192 - 1)

/-- Whether two Quays lie in one domain of a scope code (R303). -/
def sameScope (sc q r : Nat) : Bool :=
  match sc with
  | 0 | 1 => decide (q = r)
  | 2 => decide (quayModule q = quayModule r ∧ q % 192 / 24 = r % 192 / 24)
  | 3 => decide (quayModule q = quayModule r)
  | _ => true

/-- Whether two Quays lie in one unit of a domain code (R300). -/
def sameUnit (d q r : Nat) : Bool :=
  match d with
  | 0 | 1 => decide (q = r)
  | 2 => decide (quayModule q = quayModule r ∧ q % 192 / 4 = r % 192 / 4)
  | 3 => decide (quayModule q = quayModule r ∧ q % 192 / 24 = r % 192 / 24)
  | 4 => decide (quayModule q = quayModule r)
  | _ => true

/-- Whether two placed Quay instances agree with every level from one on; `d` is the domain of the level below it. Members of one group
lie in one scope (R303); an instance of a level of a wider domain than the level below occupies one unit of it, and different
instances that run together occupy disjoint units (R302). -/
def fits (d : Nat) : List Level → List Nat × Nat → List Nat × Nat → Bool → Bool
  | [], _, _, _ => true
  | l :: ls, x, y, both =>
    (!decide (x.1.tail = y.1.tail) || sameScope l.scope x.2 y.2)
    && (!decide (x.1 = y.1 ∧ d < l.domain) || sameUnit l.domain x.2 y.2)
    && (!both || decide (x.1 = y.1) || !sameUnit l.domain x.2 y.2)
    && fits l.domain ls (x.1.tail, x.2) (y.1.tail, y.2) both

/-- Whether the levels of scope .h meet it, `n` the harts of an instance of the first: a group of more than one hart is in no one hart
(R303). -/
def hartScopes : List Level → Nat → Bool
  | [], _ => true
  | l :: ls, n => (!decide (l.scope = 0) || decide (n * l.extent = 1)) && hartScopes ls (n * l.extent)

/-- The Quays that the instances still to be placed may take, after one has been placed. -/
def narrow (ls : List Level) (y : List Nat × Nat) (rest : List (List Nat × List Nat)) : List (List Nat × List Nat) :=
  rest.map (fun r => (r.1, r.2.filter (fun q => fits 0 ls (r.1, q) y true)))

/-- Whether the Quays that some instances may take suffice for them: each takes one of its own (R302). -/
def enough (rest : List (List Nat × List Nat)) : Bool :=
  rest.all (fun r => !r.2.isEmpty)
  && decide (rest.length ≤ (rest.foldl (fun (l : List Nat) r => if rest.length ≤ l.length then l else (l ++ r.2).dedup) []).length)

/-- Places instances one after another on the first Quay that leaves enough for the others; `ok` accepts a whole placement. -/
def placeFrom (ls : List Level) (ok : List (List Nat × Nat) → Bool) :
    Nat → List (List Nat × List Nat) → List (List Nat × Nat) → Option (List (List Nat × Nat))
  | 0, _, acc => if ok acc then some acc else none
  | _ + 1, [], acc => if ok acc then some acc else none
  | n + 1, (v, qs) :: rest, acc =>
    qs.findSome? (fun q =>
      let rest' := narrow ls (v, q) rest
      if enough rest' then placeFrom ls ok n rest' (acc ++ [(v, q)]) else none)

/-- Places Quay instances on candidate Quays, so that `ok` accepts the placement: those placed before stand in `old`, with whether they
still run. -/
def place (ls : List Level) (ok : List (List Nat × Nat) → Bool) (cand : List Nat) (old : List ((List Nat × Nat) × Bool)) (vs : List (List Nat)) :
    Option (List (List Nat × Nat)) :=
  let rest := vs.map (fun v => (v, cand.filter (fun q => old.all (fun o => fits 0 ls (v, q) o.1 o.2))))
  if enough rest then placeFrom ls ok vs.length rest [] else none

/-- The number of Quay instances in a unit of a wave (R304): a whole group of the outermost level with BAR set, or one. -/
def unitSize (ls : List Level) : Nat :=
  extents (ls.take (ls.length - (ls.reverse.takeWhile (fun l => !l.bar)).length))

/-- Whether a launch may use the other modules of its domain group (R378). -/
def reachesOut (ls : List Level) : Bool := ls.any (fun l => decide (4 ≤ l.domain ∨ 4 ≤ l.scope))

/-! ### Slots and agents -/

/-- The free hart slots of a Quay. -/
def State.freeSlots (s : State) (q : Nat) : List Nat :=
  (List.range 8).filter (fun h => decide ((s.ag (q * 16 + h)).status = .absent))

/-- Whether a Quay has room for a Quay instance. -/
def State.hasRoom (s : State) (q harts : Nat) (pilot : Bool) : Bool :=
  decide (harts ≤ (s.freeSlots q).length) && (!pilot || decide ((s.ag (q * 16 + 8)).status = .absent))

/-- What an agent begins with (R45, R304); `stack` is the size of its stack. -/
structure Start where
  entry  : Addr
  args   : Addr
  idx    : List Nat
  stack  : Nat
  seed   : Word
  qmin   : Nat
  qpref  : Nat
  prio   : Nat
  taskid : Word

/-- The top of the stack of some bytes that the loader allots (R45, R304): where it lies in window 0x00 the spec leaves open (log entry 62);
it is a multiple of 16, and the stack lies below it. -/
def stackTop (free size : Nat) : Addr := mkAddr 0 ((Config.freeWord free).toNat % (2 ^ 64 - size) / 16 * 16 + size)

/-- An agent at the start of its task, over what its slot keeps of the context; `free` names where its stack lies. The PC holds a multiple
of 4 (R19): of an entry point that is none, the model takes the multiple below it (log entry 78). An entry point whose window byte is not
0x00 faults at the first fetch, as a jump there does (DESIGN CHOICE, log entry 108). -/
def Agent.start (old : Agent) (part ctx k free : Nat) (t : Start) : Agent :=
  let old := if old.part = part ∧ old.ctx = ctx then old else {}
  { old with
    status := .run
    regs := { s := Vector.ofFn (fun i => if 1 ≤ i.val ∧ i.val ≤ 8 then BitVec.ofNat 64 (t.idx.getD (i.val - 1) 0) else 0)
              a := (Vector.replicate 16 (0 : Addr)).set 0 t.args |>.set 15 (stackTop free t.stack)
              pc := BitVec.ofNat 64 ((offOf t.entry).toNat / 4 * 4), instret := old.regs.instret }
    fp := { old.fp with srseed := t.seed }
    task := { qmin := t.qmin, qpref := t.qpref, taskid := t.taskid, prio := t.prio, effPrio := t.prio, bartime := old.task.bartime }
    marks := { jumpWin := winOf t.entry }
    part := part, ctx := ctx, tkey := k }

/-- Creates a task and starts its agent in a slot. -/
def State.startTask (s : State) (g : Nat) (t : Task) (st : Start) : State :=
  let k := s.work.nextTask
  let a := (s.ag g).start t.part t.ctx k (s.freeOf t.ctx) st
  let s := { s with work := { s.work with
    tasks := Assoc.set k { t with state := .running g, quay := quayOf g, prio := st.prio, effPrio := st.prio } s.work.tasks
    nextTask := k + 1 } }
  (s.setAg g a).useFreeOf t.ctx

end Sys2Proof.Machine
end

