-- ==== Sys2Proof/Machine/Vcfg.lean ====
section
/-! DEFINITION. VCFG (R76-R79) and the lease step (R70, R71, R315). -/

namespace Sys2Proof.Machine

/-! ### The lease step (R70, R315) -/

/-- Chooses `n` of a list; which ones the spec leaves open. -/
def chooseOf (free n : Nat) (l : List Nat) : List Nat :=
  if l.length ≤ n then l else (l.rotate (Config.freeChoice free l.length)).take n

/-- The quads of a set. -/
def quadList (quads : Nat) : List Nat := (List.range 8).filter (fun k => quads.testBit k)
/-- A set of quads. -/
def quadSet (l : List Nat) : Nat := (List.range 8).foldl (fun acc k => if l.contains k then acc + 2 ^ k else acc) 0

/-- Whether a hart that waits comes before another in the order of R314: its effective priority, then its arrival. -/
def State.leaseBefore (s : State) (q x y : Nat) : Bool :=
  let ix (g : Nat) : Nat := (s.qy q).leaseq.idxOf g
  decide ((s.ag y).task.effPrio < (s.ag x).task.effPrio ∨ ((s.ag y).task.effPrio = (s.ag x).task.effPrio ∧ ix x < ix y))

/-- The harts of a Quay that wait in a lease step and have been granted nothing: a hart that waits holds no quads (R70). -/
def State.leaseWaits (s : State) (q : Nat) : List Nat := (s.qy q).leaseq.filter (fun x => decide ((s.ag x).strip.quads = 0))

/-- Whether some other waiting hart comes first. -/
def State.leaseAhead (s : State) (g : Nat) : Bool :=
  (s.leaseWaits (quayOf g)).any (fun x => decide (x ≠ g) && s.leaseBefore (quayOf g) x g)

/-- How many running harts of a Quay that hold a lease below their QPREF come before a hart in the order of R314, by effective priority and
then by readiness: each of them is to receive one more quad before it (R315). -/
def State.extraAhead (s : State) (g : Nat) : Nat :=
  let since (x : Nat) : Nat := (s.task (s.ag x).tkey).since
  let q := quayOf g
  (((List.range 8).map (fun h => q * 16 + h)).filter (fun x =>
    let n := popCount (s.ag x).strip.quads.toNat 8
    decide (x ≠ g ∧ (s.ag x).status ≠ .absent ∧ 0 < n ∧ n < (s.ag x).task.qpref
      ∧ ((s.ag g).task.effPrio < (s.ag x).task.effPrio ∨ ((s.ag x).task.effPrio = (s.ag g).task.effPrio ∧ since x < since g))))).length

/-- Marks a lease change pending on the harts that hold more than their QMIN at equal or lower effective priority (R315). -/
def State.callIn (s : State) (g : Nat) : State :=
  (List.range 8).foldl (fun s h =>
    let x := quayOf g * 16 + h
    if x ≠ g ∧ (s.ag x).task.effPrio ≤ (s.ag g).task.effPrio ∧ (s.ag x).task.qmin < popCount (s.ag x).strip.quads.toNat 8 then
      s.modAg x (fun a => { a with strip := { a.strip with lpend := true }, marks := { a.marks with reclaim := true } })
    else s) s

/-- The lease step of a hart: the state with its new grant, or the state in which it waits. A hart that has been granted its QMIN while it
waited completes with that (R315). -/
def State.leaseStep (s : State) (g : Nat) : State × Bool :=
  let q := quayOf g
  let a := s.ag g
  let retired (k : Nat) : Bool := decide ((s.qy q).retired.toNat / 2 ^ (4 * k) % 16 = 15)
  let held := (quadList a.strip.quads.toNat).filter (fun k => !retired k)
  let limit := if a.strip.lpend then (if a.marks.reclaim then a.task.qmin else max a.task.qmin a.task.qpref) else 8
  let n := s.freeOf a.ctx
  let kept := chooseOf n limit held
  let waited := (s.qy q).leaseq.contains g
  let free := s.freeQuads q
  let need := a.task.qmin - kept.length
  let more : Option (List Nat) :=
    if kept.length < a.task.qmin then
      if !s.leaseAhead g && decide (need ≤ free.length) then some (chooseOf n need free) else none
    else if kept.length < a.task.qpref ∧ waited = false ∧ (s.leaseWaits q).all (· = g) ∧ s.extraAhead g < free.length then some (chooseOf n 1 free)
    else some []
  let s := s.useFreeOf a.ctx
  match more with
  | some l =>
    let quads := quadSet (kept ++ l)
    let s := if quads = a.strip.quads.toNat ∧ s.lanesOf q quads = a.strip.live then s else s.performAll g
    (((s.leaveLease g).setQuads g quads).modAg g (fun x => { x with
      strip := { x.strip with lpend := false }, marks := { x.marks with reclaim := false } }), true)
  | none =>
    let s := (s.performAll g).setQuads g 0
    let s := s.modQy q (fun y => if y.leaseq.contains g then y else { y with leaseq := y.leaseq ++ [g] })
    (s.callIn g, false)

/-! ### VSETL and VSETLR (R77) -/

/-- Makes every vector and mask register unspecified (R77); landings in progress complete where nothing reads them (R101). -/
def State.blankRegs (s : State) (g : Nat) : State :=
  let n := s.freeOf (s.ctxOf g)
  ((s.cancelLandings g []).modAg g (fun a => a.modVec (fun f => { f with
    phys := Vector.ofFn (fun i => Config.freeVReg (120 * n + i.val))
    masks := Vector.ofFn (fun i => Config.freeVReg (120 * n + 96 + i.val))
    eph := [], expired := [], poison := [], marks := [] }))).useFreeOf (s.ctxOf g)

/-- The length and padding that a vtype grants for an application length (R77). -/
def grantOf (t avl vmax : Nat) : Nat × Nat :=
  if 14 ≤ vtType t then
    let blk := vtBlock t
    let vl := min ((avl + blk - 1) / blk * blk) vmax
    (vl, vl - min avl vl)
  else (min avl vmax, 0)

/-- Opens a strip under a vtype: the last part of R77. -/
def Agent.openStrip (a : Agent) (d : Fin 32) (t vl pad : Nat) : Agent :=
  ({ a with
    strip := { a.strip with
      vl := BitVec.ofNat 32 vl, pad := BitVec.ofNat 7 pad, vtype := BitVec.ofNat 8 t, shut := false, segm := 0
      isOpen := true }
    fp := { a.fp with srstep := 0 } }).ws d (BitVec.ofNat 64 vl)

/-- VSETL with a vtype operand. -/
def vsetlBody (d a : Fin 32) (t : Nat) (is : Issue) : M Unit := do
  let bad (sub : Nat) : TrapInfo := { cause := Cause.illtype, sub := sub, val := BitVec.ofNat 64 t }
  if !vtLegal t then trap (bad 1)
  commitM is
  modify (fun s => s.endOpen is.g)
  if (← getA is).strip.ppend then
    if (← get).copiesDone is.g then trapKeep { cause := Cause.preempt, tepc := some is.pc } else retryLater
  let r := (← get).leaseStep is.g
  set r.1
  if !r.2 then retryLater
  modA is (fun x => { x.checkpoint is.pc none with strip := { (x.checkpoint is.pc none).strip with cap := x.strip.vlcap } })
  let x ← getA is
  match x.strip.vlmaxOf t with
  | none => trapKeep (bad 2)
  | some vmax =>
    let g := grantOf t (x.rs a).toNat vmax
    modify (fun s => s.blankRegs is.g)
    modA is (fun x => x.openStrip d t g.1 g.2)

/-- VSETL (R77): the vtype operand is the immediate, read as unsigned. -/
def execVsetl (d a : Fin 32) (i : BitVec 13) (s : State) : Out :=
  s.run (.vsetl d a i) { pilot := false, vcfg := true } (fun is => vsetlBody d a (is.immU 13 i.toNat) is)

/-- VSETLR (R77): the vtype operand is a scalar register. -/
def execVsetlr (d a b : Fin 32) (s : State) : Out :=
  s.run (.vsetlr d a b) { pilot := false, vcfg := true } (fun is => vsetlBody d a ((s.ag s.cur).rs b).toNat is)

/-- VEND (R79). -/
def execVend (s : State) : Out :=
  s.run .vend { pilot := false, vcfg := true } (fun is => do
    commitM is
    modify (fun s => s.endOpen is.g))

/-- VCUT (R79): an explicit cut, which cutcnt does not count. -/
def execVcut (s : State) : Out :=
  s.run .vcut { pilot := false, vcfg := true } (fun is => do
    commitM is
    modify (fun s => if (s.ag is.g).strip.isOpen then s.cutAt is.g (is.at_ + 4) false .here else s))

end Sys2Proof.Machine
end

