-- ==== Sys2Proof/Machine/Harbour.lean ====
section
/-! DEFINITION. The Harbour Master: its accesses (R301, R400), futures (R313, R316, R318), the acts it may have to wait in,
launches and waves (R301-R305), the completion of queue entries (R366), task records (R306-R312), the end of a task (R312,
R325), barrier groups (R328). -/

namespace Sys2Proof.Machine

/-! ### Accesses of the Harbour Master -/

/-- The contexts of a partition, by rising number. -/
def State.ctxsOf (s : State) (p : Nat) : List (Nat × Ctx) := s.fw.ctxs.filter (fun c => c.2.exists_ && decide (c.2.part = p))

/-- The contexts of a partition that run: a saved one runs again where it is restored. -/
def State.openCtxs (s : State) (p : Nat) : List (Nat × Ctx) := (s.ctxsOf p).filter (fun c => !c.2.saved)

/-- The context of a partition that holds a Quay. -/
def State.ctxAt (s : State) (p q : Nat) : Option Nat := (List.find? (fun (c : Nat × Ctx) => c.2.quays.contains q) (s.openCtxs p)).map (fun (c : Nat × Ctx) => c.1)

/-- The Quays of a partition's Piers. -/
def Part.quays (p : Part) : List Nat := (List.range 192).filter (fun q => p.piers.testBit (q / 4))

/-- The Harbour Master as the maker of an access for a partition: for its lowest context, with that context's function and PASID, from
that context's lowest Quay; without one for the partition's function. -/
def State.hmActor (s : State) (p : Nat) (fail : Option (Nat × Nat)) : Actor :=
  match s.ctxsOf p with
  | [] => ⟨p, s.partFunc p, 0, 0, 0, fail⟩
  | c :: _ => let q := c.2.quays.headD 0; ⟨p, c.2.func, c.2.pasid, dieOf q, q, fail⟩

/-- The read of a range: its places and its value, or the first failure; bad data fails as a load's does (R180). -/
def State.hmRead (s : State) (by_ : Actor) (a : Addr) (n al : Nat) (k : Acc) : Except RowFail (List (Place × Nat) × Nat) :=
  match s.rowSide by_ a n al k with
  | .error e => .error e
  | .ok ps =>
    let places := spread ps
    match places.zipIdx.findSome? (fun x =>
        if s.uncorrectable x.1 then some (Cause.mchkUe, 4, x.2) else if s.poisoned x.1 then some (Cause.mchkPoison, 0, x.2) else none) with
    | some b => .error (.trap b.1 b.2.1 (a + BitVec.ofNat 72 b.2.2))
    | none => .ok (ps, leNat (places.map s.rawByte))

/-- The state after such a read: single-bit errors of the Wharf words that it has read are corrected (R222). -/
def State.hmSeen (s : State) (by_ : Actor) (a : Addr) (n al : Nat) (k : Acc) : State :=
  match s.hmRead by_ a n al k with
  | .error _ => s
  | .ok r => r.1.foldl (fun s x => s.scrub x.1 x.2) s

/-- Writes bytes at an address that the Harbour Master has checked before; it is no writer that a home comparator names (R388). -/
def State.hmWrite (s : State) (by_ : Actor) (a : Addr) (bs : List Byte) : State :=
  match s.rowSide by_ a bs.length 1 Acc.store with
  | .error _ => s
  | .ok ps => (s.writeBytes ((spread ps).zip bs)).tellHomes 4 0 0 ((spread ps).zip bs)

/-- Whether a failure is served as R172 states. -/
def RowFail.replays : RowFail → Bool
  | .ats _ => true
  | .trap c _ _ => decide (c = Cause.xlateMiss ∨ c = Cause.priPending)

/-- The cause and subcode of a failure. -/
def RowFail.code : RowFail → Nat × Nat
  | .ats _ => (0, 0)
  | .trap c sub _ => (c, sub)

/-- The value of a future set as failed (R313). -/
def failValue (c : Nat × Nat) : Word := BitVec.ofNat 64 (c.1 + c.2 * 2 ^ 8)

/-- A record of the Harbour Master (R400). -/
def State.hmRecord (s : State) (by_ : Actor) (c : Nat × Nat) (flags : Nat) (a : Addr) : TrapRecord :=
  { cause := c.1, sub := c.2, flags := flags, src := 5, srcix := 0, quay := 0, seq := 0, module := s.modid, inner := 0
    win := winOf a, pc := 0, pc2 := 0, value := offOf a, detail := if flags = fReplay then 1 else 0
    cycle := (s.die by_.die).cycle }

/-- The report of a failure (R301, R400). -/
def State.hmReport (s : State) (by_ : Actor) (c : Nat × Nat) (a : Addr) : State :=
  s.report by_.part (s.hmRecord by_ c fInfo a)

/-! ### Futures (R313, R316, R318) -/

/-- Whether a state word is malformed. -/
def futMalformed (w : Nat) : Bool := decide (w % 4 = 3 ∨ w / 8 ≠ 0)
/-- ST of a state word, 3 when it is malformed. -/
def futSt (w : Nat) : Nat := if futMalformed w then 3 else w % 4

/-- The checks of a future's address that come before its data are read (R169, R316). -/
def State.futureHit (s : State) (by_ : Actor) (a : Addr) : Except RowFail Hit :=
  if a.toNat % 16 ≠ 0 then .error (.trap Cause.align 0 a)
  else match s.xlate by_ a Acc.atomic with
  | .error (.trap c sub) => .error (.trap c sub a)
  | .error .ats => .error (.ats (offOf a).toNat)
  | .ok h => .ok h

/-- Whether a future may lie at an address: on a normal page of window 0x00 (R316). -/
def futurePage (a : Addr) (h : Hit) : Bool := decide (winOf a = 0 ∧ h.mtype = 0)

/-- The place of a future, checked as an atomic with all of R169, then as R316 adds. -/
def State.futurePlace (s : State) (by_ : Actor) (a : Addr) : Except RowFail Place :=
  match s.futureHit by_ a with
  | .error e => .error e
  | .ok h =>
    match s.badRead h.place 16 with
    | some (true, _) => .error (.trap Cause.mchkUe 4 a)
    | some (false, _) => .error (.trap Cause.mchkPoison 0 a)
    | none => if futurePage a h then .ok h.place else .error (.trap Cause.perm 0x0D a)

/-- The state word of a future. -/
def State.futWord (s : State) (p : Place) : Nat := leNat (s.bytes (p.plus 8) 8)
/-- VALUE of a future. -/
def State.futValue (s : State) (p : Place) : Word := BitVec.ofNat 64 (leNat (s.bytes p 8))

/-- Writes VALUE and ST, clears WAITERS, and sends a wake-up to the future's home when it was set (R318, R324); what is seen here of a
future of another module wakes nobody. -/
def State.putFuture (s : State) (p : Place) (v : Word) (st : Nat) : State :=
  let w := (s.futWord p).testBit 2
  let s := s.writeBytes (placeBytes p (leBytes 8 v.toNat ++ leBytes 8 st))
  if !w ∨ s.away p then s
  else s.modDie (s.homeKey p.addr) (fun x => { x with wakes := x.wakes ++ [⟨p.addr, st, v⟩] })

/-- The setting of a future by the Harbour Master: the state, or why it cannot be set (R400). -/
def State.futSet (s : State) (by_ : Actor) (a : Addr) (v : Word) (st : Nat) : Except RowFail State :=
  match s.futurePlace by_ a with
  | .error e => .error e
  | .ok p =>
    let w := s.futWord p
    if futMalformed w then .error (.trap Cause.futureDoubleSet 2 a)
    else if w % 4 ≠ 0 then .error (.trap Cause.futureDoubleSet 1 a)
    else .ok (s.putFuture p v st)

/-! ### Acts that may wait -/

/-- Adds an act. -/
def State.addAct (s : State) (p : Nat) (a : Act) : State :=
  { s with work := { s.work with jobs := s.work.jobs ++ [⟨s.work.nextJob, p, a, none, none, none, none, none⟩], nextJob := s.work.nextJob + 1 } }

/-- Sets a completion future, unless there is none. -/
def State.addSet (s : State) (p : Nat) (fut : Addr) (v : Word) (st : Nat) : State :=
  if fut = 0 then s else s.addAct p (.setFuture fut v st)

/-- Puts an act back. -/
def State.putJob (s : State) (j : Job) : State := { s with work := { s.work with jobs := s.work.jobs ++ [j] } }

/-- Whether an act writes a queue's descriptor at an address. -/
def Act.writesAt (a : Addr) : Act → Bool
  | .write b _ => decide (b = a)
  | .launch _ _ _ | .setFuture _ _ _ | .signal _ _ _ _ | .finish _ _ _ _ _ | .decode _ | .taskLaunch _ _ | .remoteStart _ => false

/-- Writes bytes of a queue's descriptor: one that has to wait for its translation is made later, unless the bytes are written anew before
(R306, R400). -/
def State.hmPut (s : State) (p : Nat) (a : Addr) (bs : List Byte) : State :=
  let s := { s with work := { s.work with jobs := s.work.jobs.filter (fun j => !(decide (j.part = p) && j.act.writesAt a)) } }
  let by_ := s.hmActor p none
  match s.rowSide by_ a bs.length 1 Acc.store with
  | .error e => if e.replays then s.addAct p (.write a bs) else s.hmReport by_ e.code a
  | .ok _ => s.hmWrite by_ a bs

/-- Asks the home of a future on another module to set it, and waits for the answer (R316, R380). -/
def State.askFuture (s : State) (j : Job) (p : Place) (v : Word) (st : Nat) : State :=
  let n := s.link.nextTag
  ((s.putJob { j with asked := some n }).modLink (fun l => { l with nextTag := (n + 1) % 2 ^ 28 })).sendTo (p.addr / 2 ^ 44)
    (.fset n 4 0 0 p.addr v.toNat st)

/-- The key under which an act waits for the host. -/
def jobKey (k : Nat) : Nat := 4096 + k

/-- Leaves an act waiting: for a host translation, or for the service of a replayable record (R172, R301); stall 0 stands for a
record that waits for room (R343). -/
def State.stallJob (s : State) (j : Job) (e : RowFail) : State :=
  match e with
  | .ats va => s.putJob { j with ats := some va }
  | .trap c sub a =>
    let by_ := s.hmActor j.part none
    let r := s.hmRecord by_ (c, sub) fReplay a
    let x := s.part j.part
    if x.slotsFree < 3 ∨ x.held.any (fun h => h.sameSource r) then s.putJob { j with stall := some 0 }
    else
      let s := s.modPart j.part (fun x => x.post r)
      if c = Cause.priPending then
        let y := s.requestPages (jobKey j.key) by_ [(offOf a).toNat / 2 ^ 12]
        y.1.putJob { j with stall := some (x.seq + 1), group := some y.2 }
      else s.putJob { j with stall := some (x.seq + 1) }

/-! ### Host launch queues: completion and progress (R366) -/

/-- The release at system scope that a progress write is (R208). -/
def State.releaseAll (s : State) : State :=
  s.agents.foldl (fun s x => (s.drainQueue x.1).systemDrain x.1) s

/-- Marks an entry complete; when progress rises it is written by a release at system scope. -/
def State.entryDone (s : State) (q n : Nat) : State :=
  let x := s.lq q
  if !x.owned then s else
  let ds := if n < x.progress then x.doneSet else n :: x.doneSet
  let p := x.progress + ((List.range (ds.length + 1)).find? (fun k => !(ds.contains (x.progress + k)))).getD 0
  let s := s.modLq q (fun x => { x with progress := p, doneSet := ds.filter (fun k => decide (p ≤ k)) })
  if p = x.progress then s
  else s.releaseAll.hostWrite x.progAddr (leBytes 4 p)

/-- Completes the WAIT entries that the progress of their queues satisfies, one after another. -/
def State.settleWaits : Nat → State → State
  | 0, s => s
  | k + 1, s =>
    match s.fw.lqs.findSome? (fun x => (x.2.waits.find? (fun w => decide (w.2.2 ≤ (s.lq w.2.1).progress))).map (fun w => (x.1, w))) with
    | none => s
    | some (q, w) =>
      ((s.modLq q (fun x => { x with waits := x.waits.filter (· ≠ w) })).entryDone q w.1).settleWaits k

/-- How many WAIT entries have started and not completed. -/
def State.waitCount (s : State) : Nat := (s.fw.lqs.map (fun x => x.2.waits.length)).sum

/-- Completes an entry and what its progress completes. -/
def State.completeEntry (s : State) (q : Option (Nat × Nat)) : State :=
  match q with
  | none => s
  | some (q, n) => let s := s.entryDone q n; s.settleWaits (s.waitCount)

/-! ### Groups (R303, R328) -/

/-- A participant of a barrier at the start of a unit: its task, or none on another module. -/
structure Member where
  task  : Option Nat
  pilot : Bool
  index : List Nat
  quay  : Nat
deriving DecidableEq, Repr

/-- Whether a member takes part in the barriers of a level. -/
def Member.joins (m : Member) (l : Level) : Bool := !m.pilot || decide (1 ≤ l.domain)

/-- The barrier groups of a unit: one for each group of a level with BAR set. Its counter is on the die of its lowest-numbered Quay, Quays
being ordered by module and then by number (R378). -/
def groupsOf (launch : Nat) (ls : List Level) (modid : Nat) (ms : List Member) : List Group :=
  ls.zipIdx.flatMap (fun x =>
    if x.1.bar then
      let here := ms.filter (fun m => m.joins x.1)
      ((here.map (fun m => m.index.drop (x.2 + 1))).dedup).map (fun k =>
        let g := here.filter (fun m => decide (m.index.drop (x.2 + 1) = k))
        let rank (q : Nat) : Nat := match quayModule q with | none => modid * 192 + q | some m => m * 192 + q % 192
        let low := g.foldl (fun (acc : Nat) (m : Member) => if rank m.quay < rank acc then m.quay else acc) (match g with | m :: _ => m.quay | [] => 0)
        { launch := launch, level := x.2, key := k
          arrivals := g.filterMap (fun m => m.task.map (fun t => (t, 0)))
          remote := (g.filter (fun m => m.task.isNone)).length
          die := if low < 192 then dieOf low else 8 + rank low })
    else [])

/-- Where a group's counter is, as a message names it: 8 more than the rank of a Quay of the die. -/
def Group.home (g : Group) (modid : Nat) : Nat := if g.die < 8 then 8 + modid * 192 + 24 * g.die else g.die

/-- The die of a group's counter as a module sees it. -/
def homeAt (modid h : Nat) : Nat := if 8 ≤ h ∧ (h - 8) / 192 = modid then (h - 8) % 192 / 24 else h

/-- The homes of the groups that an instance belongs to, level by level; a level without barriers has none. -/
def homesOf (ls : List Level) (modid : Nat) (gs : List Group) (v : List Nat) : List Nat :=
  let idx := (hartLevels ls).map (fun _ => 0) ++ v
  (List.range ls.length).map (fun k =>
    match gs.find? (fun g => decide (g.level = k ∧ g.key = idx.drop (k + 1))) with
    | some g => g.home modid
    | none => 0)

/-- Whether nothing has arrived yet at the phase in progress; a participant that has ended has arrived (R330). -/
def Group.fresh (g : Group) : Bool :=
  g.arrivals.all (fun a => decide (a.2 ≤ g.phase)) && decide (g.away = 0 ∧ g.gone = [] ∧ g.lost = 0)

/-- An arrival at the phase in progress: the first one fixes the phase's timeout (R330). -/
def Group.arrive (g : Group) (k bartime : Nat) : Group :=
  { g with arrivals := Assoc.set k (Assoc.get 0 k g.arrivals + 1) g.arrivals, timeout := if g.fresh then bartime else g.timeout }

/-- The end of a participant here: it has arrived at the phase in progress and every later one (R325, R330). -/
def Group.leave (g : Group) (k bartime : Nat) : Group :=
  { g with
    gone := k :: g.gone
    timeout := if g.fresh then bartime else g.timeout
    later := if g.gone = [] ∧ g.lost = 0 then bartime else g.later }

/-- An arrival from another module by a participant that has made some BARVs; its end when it is its last. -/
def Group.arriveAway (g : Group) (count : Nat) (last : Bool) (bartime : Nat) : Group :=
  let t := if g.fresh then bartime else g.timeout
  if last then { g with
    lost := g.lost + 1, away := if g.phase < count then g.away - 1 else g.away, timeout := t
    later := if g.gone = [] ∧ g.lost = 0 then bartime else g.later }
  else { g with away := g.away + 1, timeout := t }

/-- Whether every participant of a group has ended: its counter is free. -/
def Group.over (g : Group) : Bool :=
  g.arrivals.all (fun a => g.gone.contains a.1) && (decide (8 ≤ g.die) || decide (g.remote ≤ g.lost))

/-- The origin of a launch and its number there (R378). -/
def State.launchName (s : State) (l : Nat) : Nat × Nat := (s.launch l).origin.getD (s.modid, l)

/-- Tells the module that holds a group's counter of an arrival here. -/
def State.sendArrival (s : State) (g : Group) (count : Nat) (last : Bool) (bartime : Nat) : State :=
  if g.die < 8 then s
  else let n := s.launchName g.launch; s.sendTo ((g.die - 8) / 192) (.arrive n.1 n.2 g.level g.key count last bartime)

/-- The die that holds a group's counter: one of this module, or 8 more than the number of one of another, dies counted by module. -/
def Group.counter (g : Group) : Nat := if g.die < 8 then g.die else 8 + (g.die - 8) / 24

/-- Whether the 1,024 barrier counters of each die suffice for some more groups, those that this module knows of on other modules' dies
included (R328). -/
def State.countersFit (s : State) (gs : List Group) : Bool :=
  ((gs.map Group.counter).dedup).all (fun d => decide (((s.work.groups ++ gs).filter (fun g => g.counter = d)).length ≤ 1024))

/-! ### Starting instances (R302-R304) -/

/-- What the instances of a grid begin with. -/
def LaunchRecord.start (r : LaunchRecord) (pilot : Bool) (idx : List Nat) : Start :=
  let l0 := r.levels.headD ⟨1, 0, 0, 1, 1, false⟩
  { entry := if pilot then r.pentry else r.entry, args := r.args, idx := idx, stack := r.stack
    seed := if r.seed && !pilot then r.seedv else 0
    qmin := if pilot then 0 else l0.qmin, qpref := if pilot then 0 else l0.qpref
    prio := r.prio, taskid := BitVec.ofNat 64 (0xFFFF + ofDigits r.levels idx % 2 ^ 32 * 2 ^ 16) }

/-- The index vectors of a Quay instance's agents: its harts, then its Pilot. -/
def LaunchRecord.agentsOf (r : LaunchRecord) (v : List Nat) : List (Bool × List Nat) :=
  let hl := hartLevels r.levels
  (List.range (extents hl)).map (fun n => (false, digits hl n ++ v)) ++ (if r.pilot then [(true, hl.map (fun _ => 0) ++ v)] else [])

/-- Starts one agent of a launch on a Quay of this module. -/
def State.startAgent (s : State) (l : Nat) (q : Nat) (a : Bool × List Nat) : State :=
  let x := s.launch l
  let slot := if a.1 then 8 else (s.freeSlots q).headD 0
  let t : Task :=
    { kind := if a.1 then .pilot l a.2 else .hart l a.2, levels := x.record.levels, part := x.part, ctx := (s.ctxAt x.part q).getD 0
      since := x.since }
  (s.startTask (q * 16 + slot) t (x.record.start a.1 a.2)).modLaunch l (fun x => { x with running := x.running + 1 })

/-- Starts a Quay instance where it is placed; one on another module is sent to that module's Harbour Master (R378). -/
def State.startInstance (s : State) (l : Nat) (p : List Nat × Nat) (homes : List Nat) : State × List Member :=
  let x := s.launch l
  let as := x.record.agentsOf p.1
  if p.2 < 192 then
    as.foldl (fun acc a =>
      (acc.1.startAgent l p.2 a, acc.2 ++ [(⟨some acc.1.work.nextTask, a.1, a.2, p.2⟩ : Member)])) (s, [])
  else
    let y := s.part x.part
    let m := p.2 / 192 - 1
    ((s.sendTo m (.start y.group y.groupKey ⟨s.modid, l, x.addr, x.part, p.2 % 192, p.1, homes⟩)).modLaunch l
      (fun x => { x with remote := x.remote + as.length }), as.map (fun a => ⟨none, a.1, a.2, p.2⟩))

/-- The Quays that the contexts of a partition hold. -/
def State.heldQuays (s : State) (p : Nat) : List Nat := (s.openCtxs p).flatMap (fun c => c.2.quays)

/-- Some Quays of a partition, and those of the Piers of the other members of its domain group when a launch reaches beyond one module
(R378). -/
def State.candidates (s : State) (p : Nat) (qs : List Nat) (ls : List Level) : List Nat :=
  let x := s.part p
  qs
  ++ (if reachesOut ls then x.peers.flatMap (fun m =>
      ((Config.peerQuays x.group x.groupKey m.1).filter (· < 192)).map (fun q => 192 * (m.1 + 1) + q)) else [])

/-- Whether a Quay has room for a Quay instance of a launch: slots, and quads for every hart's QMIN (R304). -/
def State.roomFor (s : State) (r : LaunchRecord) (q : Nat) : Bool :=
  let h := hartCount r.levels
  decide (192 ≤ q) || (s.hasRoom q h r.pilot && decide (h * (r.levels.headD ⟨1, 0, 0, 1, 1, false⟩).qmin ≤ (s.freeQuads q).length))

/-- The Quay instances of the next unit of a wave. -/
def LaunchRecord.unit (r : LaunchRecord) (n : Nat) : List (List Nat) :=
  let ql := quayLevels r.levels
  (List.range (min (unitSize ql) (extents ql - n))).map (fun k => digits ql (n + k))

/-- The barrier groups of a launch's instances, placed on some Quays. -/
def State.groupsAt (s : State) (l : Nat) (r : LaunchRecord) (ps : List (List Nat × Nat)) : List Group :=
  groupsOf l r.levels s.modid (ps.flatMap (fun p => (r.agentsOf p.1).map (fun a => ⟨some 0, a.1, a.2, p.2⟩)))

/-- Whether a launch can be placed in a partition, or in its domain group, at all, so that the barrier counters suffice (R303). -/
def State.canPlace (s : State) (p : Nat) (r : LaunchRecord) : Bool :=
  let ql := quayLevels r.levels
  let cand := s.candidates p (s.part p).quays r.levels
  hartScopes r.levels 1 && decide (unitSize ql ≤ max 1 cand.length)
  && (place ql (fun ps => s.countersFit (s.groupsAt 0 r ps)) cand [] (r.unit 0)).isSome

/-- The upper indices of a task of a launch. -/
def Task.upper (t : Task) : List Nat :=
  let n := (hartLevels t.levels).length
  match t.kind with
  | .hart _ i | .pilot _ i => i.drop n
  | .queued _ _ r => (r.idx.take t.levels.length).drop n

/-- The launch of a task. -/
def TaskKind.launch : TaskKind → Option Nat
  | .hart l _ | .pilot l _ => some l
  | .queued _ _ _ => none

/-- The Quay instances of a launch placed so far, each with whether it still runs. -/
def State.placedOf (s : State) (l : Nat) : List ((List Nat × Nat) × Bool) :=
  (s.launch l).placed.map (fun p => (p, decide (192 ≤ p.2 ∧ 0 < (s.launch l).remote)
    || s.work.tasks.any (fun t => decide (t.2.kind.launch = some l ∧ t.2.upper = p.1))))

/-- The running tasks of strictly lower effective priority on some Quays, in a slot of some kind, of no task of a launch (R314). -/
def State.lowerOn (s : State) (qs : List Nat) (prio : Nat) (own : Option Nat) (slot : Nat → Bool) : List (Nat × Task) :=
  s.work.tasks.filter (fun t => match t.2.state with
    | .running g => decide (t.2.effPrio < prio) && qs.contains (quayOf g) && !(own.isSome && decide (t.2.kind.launch = own))
        && decide (g % 16 ≤ 8) && slot (g % 16)
    | _ => false)

/-- Soft pre-emption of one of them, the lowest (R314). -/
def State.preemptFor (s : State) (qs : List Nat) (prio : Nat) (own : Option Nat) (slot : Nat → Bool) : State :=
  let low := s.lowerOn qs prio own slot
  match low with
  | [] => s
  | t :: ts =>
    let v := ts.foldl (fun (acc : Nat × Task) x => if x.2.effPrio < acc.2.effPrio then x else acc) t
    match v.2.state with
    | .running g => s.modAg g (fun a => a.modStrip (fun st => { st with ppend := true }))
    | _ => s

/-- A read of a launch record, one line after another; a failure says whether FUTURE had been read. -/
def State.readLaunch (s : State) (by_ : Actor) (rec : Addr) : Except (RowFail × Option Addr) Nat :=
  (List.range 4).foldl (fun acc k =>
    match acc with
    | .error e => .error e
    | .ok x =>
      match s.hmRead by_ (rec + BitVec.ofNat 72 (64 * k)) 64 64 Acc.load with
      | .error e => .error (e, if 2 ≤ k then some (slotAddr x 64).1 else none)
      | .ok r => .ok (x + r.2 * 2 ^ (512 * k))) (.ok 0)

/-- The lines of a launch record that are read, up to a failure, leave their words corrected (R222). -/
def State.launchSeen (s : State) (by_ : Actor) (rec : Addr) : State :=
  ((List.range 4).foldl (fun (acc : State × Bool) k =>
    let a := rec + BitVec.ofNat 72 (64 * k)
    if acc.2 then (acc.1.hmSeen by_ a 64 64 Acc.load, (match acc.1.hmRead by_ a 64 64 Acc.load with | .ok _ => true | .error _ => false))
    else acc) (s, true)).1

/-- The key of a task queue; a QID above 1,023 names none (R306, R310). -/
def tqKey (part qid : Nat) : Nat := if qid < 1024 then part * 1024 + qid else 2 ^ 16 + qid

/-- A 320-byte descriptor: the Harbour Master reads and writes it. -/
def State.readDesc (s : State) (by_ : Actor) (desc : Addr) : Except RowFail Nat :=
  match s.hmRead by_ desc 320 64 Acc.atomic with
  | .error e => .error e
  | .ok r => .ok r.2

/-- The indices of a record at the levels of a launch. -/
def TaskRecord.index (r : TaskRecord) (ls : List Level) : List Nat := r.idx.take ls.length

/-- A hart slot with quads for a lease on a Quay. -/
def State.hartRoom (s : State) (q qmin : Nat) : Bool :=
  decide (s.freeSlots q ≠ [] ∧ qmin ≤ (s.freeQuads q).length)

/-- The Quays that a task of a queue may be placed on (R302, R303): that of its Quay instance while one of its tasks runs, else
those that agree with every other placement. -/
def State.quaysFor (s : State) (k : Nat) (ls : List Level) (upper qs : List Nat) (idle : Bool) : List Nat :=
  let t := s.tq k
  let runs (p : List Nat × Nat) : Bool := s.work.tasks.any (fun x => match x.2.kind with
    | .queued k' _ _ => decide (k' = k ∧ x.2.upper = p.1 ∧ x.2.quay = p.2)
    | _ => false)
  match t.placed.find? (fun p => decide (p.1 = upper) && runs p) with
  | some p => if qs.contains p.2 then [p.2] else []
  | none => qs.filter (fun q =>
      t.placed.all (fun p => decide (p.1 = upper) || fits 0 (quayLevels ls) (upper, q) p (runs p && !idle)))

/-- The lease of a record (R311): F5, or the launch's when it is zero, held within the bounds of R323. -/
def TaskRecord.leaseOf (r : TaskRecord) (ls : List Level) : Nat × Nat :=
  if r.lease = 0 then ((ls.headD ⟨1, 0, 0, 1, 1, false⟩).qmin, (ls.headD ⟨1, 0, 0, 1, 1, false⟩).qpref)
  else
    let m := min 8 (max 1 (r.lease % 16))
    (m, min 8 (max m (r.lease / 16 % 16)))

/-- A set of free quads that gives a saved hart its lane count (R348), of its former number of quads if there is one (R318). -/
def State.quadsFor (s : State) (q lanes needs : Nat) : Option (List Nat) :=
  let c := ((s.freeQuads q).sublists).filter (fun l => popCount (s.lanesOf q (quadSet l)).toNat 32 = lanes)
  (c.find? (fun l => l.length = needs)).orElse (fun _ => c.head?)

/-- Something that is ready and waits for a place (R314): its effective priority and when it became ready, the Quays it may take, its
launch, the slots it may take, whether there is room for it, and whether what runs below it is pre-empted for it. -/
structure Waiter where
  prio  : Nat
  since : Nat
  quays : List Nat
  own   : Option Nat
  slot  : Nat → Bool
  room  : Bool
  preempts : Bool := true

/-- Whether a task is ready to resume: its context is not saved (R371), its partition not halted. -/
def State.mayResume (s : State) (k : Nat) : Bool :=
  let t := s.task k
  decide (t.state = .ready) && t.saved.isSome && !(s.ctx t.ctx).saved && !(s.part t.part).halted

/-- Whether a ready task could take a slot of its Quay now: the slot is of its kind and empty, and its quads are free. -/
def State.mayTake (s : State) (k slot : Nat) : Bool :=
  s.mayResume k && (s.task k).kind.slotOk slot && decide ((s.ag ((s.task k).quay * 16 + slot)).status = .absent)

/-- The effective priority of a decoded record (R314). -/
def Decoded.effPrio (d : Decoded) : Nat := min 3 (d.record.prio % 4 + d.aged)

/-- The launch of a task queue, as the Harbour Master reads it. -/
def State.queueLaunch (s : State) (k : Nat) : Option LaunchRecord :=
  let by_ := s.hmActor (s.tq k).part none
  match s.readDesc by_ (s.tq k).desc with
  | .error _ => none
  | .ok x => match s.readLaunch by_ (slotAddr x 16).1 with
    | .error _ => none
    | .ok y => launchOf y

/-- The held Quays that a decoded record may be placed on now. -/
def State.recordQuays (s : State) (k : Nat) (d : Decoded) : List Nat :=
  match s.queueLaunch k with
  | none => []
  | some l =>
    let upper := (d.record.index l.levels).drop (hartLevels l.levels).length
    s.quaysFor k l.levels upper (s.heldQuays (s.tq k).part) false

/-- Where the next unit of a launch can be placed on some of the Quays that its partition holds, and on those of its domain group. -/
def State.nextUnit (s : State) (l : Nat) (may : Nat → Bool) : Option (List (List Nat × Nat)) :=
  let x := s.launch l
  let r := x.record
  place (quayLevels r.levels) (fun ps => s.countersFit (s.groupsAt l r ps))
    ((s.candidates x.part (s.heldQuays x.part) r.levels).filter (fun q => s.roomFor r q && (decide (192 ≤ q) || may q)))
    (s.placedOf l) (r.unit x.placed.length)

/-- Everything that waits for a place: tasks that are ready to resume, the waves of launches, of which only the first pre-empts, the ready
records of queues, the instances that other modules have sent. -/
def State.waiters (s : State) : List Waiter :=
  (s.work.tasks.filter (fun t => s.mayResume t.1)).map (fun t =>
    ⟨t.2.effPrio, t.2.since, [t.2.quay], t.2.kind.launch, t.2.kind.slotOk,
      (List.range 9).any (fun h => s.mayTake t.1 h)
        && (decide (t.2.needs = 0) || (s.quadsFor t.2.quay (popCount t.2.lanes.toNat 32) t.2.needs).isSome), true⟩)
  ++ (s.work.launches.filter (fun l => l.2.live && decide (l.2.placed.length < l.2.total))).map (fun l =>
    ⟨l.2.effPrio, l.2.since, s.heldQuays l.2.part, some l.1, (fun k => l.2.record.pilot || decide (k < 8)),
      (s.nextUnit l.1 (fun _ => true)).isSome, decide (l.2.placed = [])⟩)
  ++ s.fw.tqs.flatMap (fun t => if t.2.owned && t.2.resident then
      (t.2.ready.filter (fun d => decide (d.preds = 0 ∧ d.record.flags % 2 = 0))).map (fun d =>
        (⟨d.effPrio, d.since, s.recordQuays t.1 d, none, (fun k => decide (k < 8)),
          (s.recordQuays t.1 d).any (fun q => (s.queueLaunch t.1).any (fun l => s.hartRoom q (d.record.leaseOf l.levels).1)), true⟩ : Waiter))
    else [])
  ++ s.work.placing.filterMap (fun x =>
    match s.readLaunch (s.hmActor x.1.part none) x.1.record with
    | .error _ => none
    | .ok y => (launchOf y).map (fun r =>
        (⟨r.prio, x.2, [x.1.quay], none, (fun k => r.pilot || decide (k < 8)), s.roomFor r x.1.quay, true⟩ : Waiter)))

/-- Whether something that the Harbour Master chooses first waits for a place on a Quay (R314): of a higher effective priority, with a place
now or once what runs below it has been pre-empted, or of the same one, ready earlier, with a place now. -/
def State.heldBack (s : State) (q prio since : Nat) (own : Option Nat) : Bool :=
  s.waiters.any (fun w => w.quays.contains q
    && (w.room && decide (prio < w.prio ∨ (w.prio = prio ∧ w.since < since))
      || decide (prio < w.prio) && w.preempts && !(own.isSome && decide (w.own = own)) && decide (s.lowerOn w.quays w.prio w.own w.slot ≠ [])))

/-- Starts units of a launch while there is room for them and nothing comes first. For the first wave what runs below it is pre-empted; a
later one waits for quads (R304, R314). -/
def State.startUnits : Nat → State → Nat → State
  | 0, s, _ => s
  | k + 1, s, l =>
    let x := s.launch l
    let r := x.record
    if !x.live ∨ x.total ≤ x.placed.length then s else
    match s.nextUnit l (fun q => !s.heldBack q x.effPrio x.since (some l)) with
    | none => if x.placed = [] then s.preemptFor (s.heldQuays x.part) x.effPrio (some l) (fun k => r.pilot || decide (k < 8)) else s
    | some ps =>
      let homes := s.groupsAt l r ps
      let z := ps.foldl (fun (acc : State × List Member) p =>
        let y := acc.1.startInstance l p (homesOf r.levels s.modid homes p.1)
        (y.1, acc.2 ++ y.2)) (s, [])
      let s := z.1.modLaunch l (fun x => { x with placed := x.placed ++ ps, effPrio := r.prio })
      let s := { s with work := { s.work with groups := s.work.groups ++ groupsOf l r.levels s.modid z.2 } }
      State.startUnits k s l

/-- How many units one step can start: no more than there are hart slots. -/
def waveFuel : Nat := 1536

/-! ### The end of a launch (R305, R313) -/

/-- Completes a launch when every instance has ended: its future is set, its queue entry is complete. -/
def State.checkLaunch (s : State) (l : Nat) : State :=
  let x := s.launch l
  if !x.live ∨ x.placed.length < x.total ∨ 0 < x.running ∨ 0 < x.remote then s else
  if x.origin.isSome then { s with work := { s.work with
    launches := Assoc.erase l s.work.launches, groups := s.work.groups.filter (fun g => g.launch ≠ l) } } else
  let s := match x.failed with
    | some v => s.addSet x.part x.record.fut v 2
    | none => s.addSet x.part x.record.fut x.orVal 1
  let s := { s with work := { s.work with
    launches := Assoc.erase l s.work.launches, groups := s.work.groups.filter (fun g => g.launch ≠ l) } }
  s.completeEntry x.queue

/-- The end of a launch that does not start: its future, when known, is set failed. -/
def State.failEntry (s : State) (p : Nat) (fut : Addr) (c : Nat × Nat) (q : Option (Nat × Nat)) : State :=
  (s.addSet p fut (failValue c) 2).completeEntry q

/-- The number of participants of a barrier group of a level (R328). -/
def LaunchRecord.participants (r : LaunchRecord) (l : Nat) : Nat :=
  let ls := r.levels.take (l + 1)
  extents ls + (if r.pilot && decide (1 ≤ (r.levels.getD l ⟨1, 0, 0, 1, 1, false⟩).domain) then extents (quayLevels ls) else 0)

/-- Adds the participants of a Quay instance that another module placed here to its groups; the others lie elsewhere, and the message
names where each group's counter is. Arrivals that came before their group was formed here are counted now. -/
def State.joinGroups (s : State) (l : Nat) (ms : List Member) (homes : List Nat) : State :=
  let r := (s.launch l).record
  let n := s.launchName l
  (groupsOf l r.levels s.modid ms).foldl (fun s g =>
    let same (x : Group) : Bool := decide (x.launch = l ∧ x.level = g.level ∧ x.key = g.key)
    let mine (e : Early) : Bool := decide ((e.origin, e.launch) = n ∧ e.level = g.level ∧ e.key = g.key)
    let gs := s.work.groups
    let gs := if gs.any same then gs.map (fun x => if same x then { x with arrivals := x.arrivals ++ g.arrivals } else x)
      else gs ++ [(s.work.early.filter mine).foldl (fun g e => g.arriveAway e.count e.last e.timeout)
        { g with die := homeAt s.modid (homes.getD g.level 0) }]
    { s with work := { s.work with
      early := s.work.early.filter (fun e => !mine e)
      groups := gs.map (fun x => if same x then { x with remote := r.participants x.level - x.arrivals.length } else x) } }) s

/-- The place in the list of the group that a message names. -/
def State.namedGroup (s : State) (origin launch level : Nat) (key : List Nat) : Option Nat :=
  s.work.groups.findIdx? (fun g => decide (s.launchName g.launch = (origin, launch) ∧ g.level = level ∧ g.key = key))

/-- Begins a launch with a legal record that the partition admits, and starts its first wave. -/
def State.beginLaunch (s : State) (p : Nat) (r : LaunchRecord) (rec : Addr) (q : Option (Nat × Nat)) : State :=
  if !s.canPlace p r then s.failEntry p r.fut (0, 4) q
  else
    let l := s.work.nextLaunch
    let x : Launch :=
      { live := true, part := p, queue := q, record := r, addr := rec, total := extents (quayLevels r.levels), effPrio := r.prio
        since := s.work.nextReady }
    ({ s with work := { s.work with
      launches := Assoc.set l x s.work.launches, nextLaunch := l + 1, nextReady := s.work.nextReady + 1 } }).startUnits waveFuel l

/-- The start of a LAUNCH entry (R301). -/
def State.actLaunch (s : State) (j : Job) (q n : Nat) (rec : Addr) : State :=
  let by_ := s.hmActor j.part j.fail
  let s := s.launchSeen by_ rec
  match s.readLaunch by_ rec with
  | .error (e, fut) =>
    if e.replays then s.stallJob j e
    else if fut.getD 0 = 0 then (s.hmReport by_ e.code rec).completeEntry (some (q, n))
    else s.failEntry j.part (fut.getD 0) e.code (some (q, n))
  | .ok x =>
    match launchOf x with
    | none => s.failEntry j.part (slotAddr x 64).1 (0, 3) (some (q, n))
    | some r => s.beginLaunch j.part r rec (some (q, n))

/-! ### Task queues (R306-R312) -/

/-- Writes HEAD: the oldest record that has not launched (R306). -/
def State.writeHead (s : State) (k : Nat) : State :=
  let t := s.tq k
  let h := match t.ready with | d :: _ => (d.off, d.seq) | [] => (t.off, t.seq)
  s.hmPut t.part (t.desc + 48) (leBytes 4 h.1 ++ leBytes 4 h.2)

/-- Stops a queue (R309). -/
def State.stopQueue (s : State) (k : Nat) (flags : Nat) : State :=
  let s := s.modTq k (fun t => { t with stopped := true })
  s.hmPut (s.tq k).part ((s.tq k).desc + 38) (leBytes 2 (flags ||| 4))

/-- The packed sizes of the fields F0-F10 (R307). -/
def fieldSizes : List Nat := [9, 9, 4, 4, 24, 2, 9, 9, 2, 1, 1]

/-- The bytes of a packed record with a mask, before and after padding to a multiple of 8. -/
def packedSize (mask : Nat) : Nat :=
  (fieldSizes.zipIdx.foldl (fun (n : Nat) x => if mask.testBit x.2 then n + x.1 else n) 2 + 7) / 8 * 8

/-- The fields of a packed record. -/
def unpack (x mask : Nat) : List (Option Nat) :=
  (fieldSizes.zipIdx.foldl (fun (acc : Nat × List (Option Nat)) f =>
    if mask.testBit f.2 then (acc.1 + f.1, acc.2 ++ [some (byteField x acc.1 f.1)]) else (acc.1, acc.2 ++ [none])) (2, [])).2

/-- A record whose missing fields come from the one before (R308). -/
def TaskRecord.delta (r : TaskRecord) (fs : List (Option Nat)) : TaskRecord :=
  let f (k d : Nat) : Nat := (fs.getD k none).getD d
  let ad (k : Nat) (d : Addr) : Addr := match fs.getD k none with | some v => BitVec.ofNat 72 v | none => d
  let ix (k : Nat) : Nat := r.idx.getD k 0
  { entry := ad 0 r.entry, args := ad 1 r.args, fut := ad 6 r.fut, succ := ad 7 r.succ
    idx := [f 2 (ix 0), f 3 (ix 1)] ++ (match fs.getD 4 none with
      | some v => (List.range 6).map (fun k => byteField v (4 * k) 4)
      | none => (List.range 6).map (fun k => ix (k + 2)))
    lease := f 5 r.lease, preds := f 8 r.preds, prio := f 9 r.prio, flags := f 10 r.flags }

/-- The order of sequence numbers, which count mod 2^32: how far one lies past another. -/
def seqPast (a b : Nat) : Nat := (a + 2 ^ 32 - b % 2 ^ 32) % 2 ^ 32

/-- Takes a decoded record into the queue: its predecessors that have ended already are counted, and it fails at once when one
of them has failed. HEAD follows where the decoder has passed a wrap marker or the record does not wait. -/
def State.enterRecord (s : State) (k off next : Nat) (r : TaskRecord) (wraps : Bool) : State :=
  let t := s.tq k
  let d : Decoded := ⟨t.seq, off, r, r.preds - Assoc.get 0 t.seq t.credits, 0, s.work.nextReady⟩
  let s := { s with work := { s.work with nextReady := s.work.nextReady + 1 } }
  let bad := t.doomed.contains t.seq
  let s := s.modTq k (fun t => { t with
    off := next, seq := (t.seq + 1) % 2 ^ 32, last := some r
    ready := if bad then t.ready else t.ready ++ [d]
    failed := if bad then d.seq :: t.failed else t.failed
    credits := Assoc.erase t.seq t.credits, doomed := t.doomed.filter (· ≠ t.seq) })
  let s := if bad ∨ wraps then s.writeHead k else s
  if bad then s.addAct t.part (.finish k d.seq r (some (0, 5)) 0) else s

/-- Decodes the next record of a queue (R309). -/
def State.actDecode (s : State) (j : Job) (k : Nat) : State :=
  let t := s.tq k
  if !t.owned ∨ !t.resident ∨ t.stopped then s else
  let by_ := s.hmActor t.part j.fail
  let s := s.hmSeen by_ t.desc 320 64 Acc.atomic
  let giveUp (e : RowFail) (a : Addr) : State :=
    if e.replays then s.stallJob j e
    else (s.hmReport by_ e.code a).modTq k (fun t => { t with stopped := true })
  match s.readDesc by_ t.desc with
  | .error e => giveUp e t.desc
  | .ok d =>
    let base := (slotAddr d 0).1
    let size := byteField d 32 4
    let flags := byteField d 38 2
    if byteField d 44 4 = t.seq then s else
    if base.toNat % 64 ≠ 0 then giveUp (.trap Cause.align 0 base) base else
    let at_ (off : Nat) : Option (Except RowFail Nat) :=
      if size < off + 8 then none else
      match s.hmRead by_ (base + BitVec.ofNat 72 off) 8 8 Acc.load with
      | .error e => some (.error e)
      | .ok r => some (.ok (r.2 % 2 ^ 16))
    let record (off mask : Nat) (wraps : Bool) : State :=
      let n := packedSize mask
      if 2 ^ 11 ≤ mask ∨ size < off + n then s.stopQueue k flags
      else match s.hmRead by_ (base + BitVec.ofNat 72 off) n 8 Acc.load with
      | .error e => giveUp e (base + BitVec.ofNat 72 off)
      | .ok r => (s.hmSeen by_ (base + BitVec.ofNat 72 off) n 8 Acc.load).enterRecord k off (if off + n = size then 0 else off + n)
          ((t.last.getD {}).delta (unpack r.2 mask)) wraps
    match at_ t.off with
    | none => s.stopQueue k flags
    | some (.error e) => giveUp e base
    | some (.ok mask) =>
      if mask ≠ 0 then record t.off mask false
      else if t.last.isNone then s.stopQueue k flags
      else match at_ 0 with
      | none => s.stopQueue k flags
      | some (.error e) => giveUp e base
      | some (.ok m) => if m = 0 then (s.modTq k (fun t => { t with off := 0 })).writeHead k else record 0 m true

/-- Takes a record off the decoded ones. -/
def State.takeRecord (s : State) (k seq : Nat) : State :=
  (s.modTq k (fun t => { t with ready := t.ready.filter (fun d => d.seq ≠ seq) })).writeHead k

/-- Remembers where a Quay instance of a queue was placed. -/
def TaskQueue.note (t : TaskQueue) (upper : List Nat) (q : Nat) : TaskQueue :=
  { t with placed := t.placed.filter (fun p => p.1 ≠ upper) ++ [(upper, q)] }

/-- Starts a compute task of a queue on a Quay (R311). -/
def State.startQueued (s : State) (k c q : Nat) (d : Decoded) (l : LaunchRecord) : State :=
  let r := d.record
  let lease := r.leaseOf l.levels
  let t : Task := { kind := .queued k d.seq r, levels := l.levels, part := (s.tq k).part, ctx := c, since := d.since }
  let st : Start :=
    { entry := if r.entry = 0 then l.entry else r.entry, args := r.args, idx := r.index l.levels, stack := l.stack
      seed := if l.seed then l.seedv else 0, qmin := lease.1, qpref := lease.2, prio := r.prio % 4
      taskid := BitVec.ofNat 64 (k % 1024 + d.seq % 2 ^ 32 * 2 ^ 16) }
  ((s.takeRecord k d.seq).modTq k (fun t => t.note (r.index l.levels |>.drop (hartLevels l.levels).length) q)).startTask
    (q * 16 + (s.freeSlots q).headD 0) t st

/-- Starts a copy task on a Quay (R311): the descriptor is read as the task starts. -/
def State.startCopy (s : State) (j : Job) (k c q : Nat) (d : Decoded) (l : LaunchRecord) : State :=
  let r := d.record
  let by_ := s.hmActor j.part j.fail
  let s := s.hmSeen by_ r.entry 64 1 Acc.load
  match s.hmRead by_ r.entry 64 1 Acc.load with
  | .error e => if e.replays then s.stallJob j e else (s.takeRecord k d.seq).addAct j.part (.finish k d.seq r (some e.code) 0)
  | .ok x =>
    let f (o n : Nat) : Nat := byteField x.2 o n
    let rows := f 32 4
    let bytes := f 36 4
    if bytes % 8 ≠ 0 ∨ bytes = 0 then
      (s.takeRecord k d.seq).addAct j.part (.finish k d.seq r (some (Cause.berthMisuse, 3)) 0)
    else
      let code := Config.freeWord (s.freeOf c)
      if rows = 0 then ((s.takeRecord k d.seq).useFreeOf c).addAct j.part (.finish k d.seq r none code)
      else if 64 ≤ (s.qy q).copyCount then s
      else
        let n := s.work.nextTask
        let t : Task :=
          { kind := .queued k d.seq r, levels := l.levels, state := .running (bteKey q), part := (s.tq k).part, ctx := c
            quay := q, prio := r.prio % 4, effPrio := r.prio % 4, since := d.since }
        let cp : Copy :=
          { kind := .bcpy, agent := taskToken n, serial := n, base := 0, count := rows, src := (slotAddr x.2 16).1
            dst := (slotAddr x.2 0).1, sstr := sext 32 (f 40 4), dstr := sext 32 (f 44 4), bytes := bytes }
        let s := (s.takeRecord k d.seq).modTq k (fun t => t.note (r.index l.levels |>.drop (hartLevels l.levels).length) q)
        let s := { s with work := { s.work with tasks := Assoc.set n t s.work.tasks, nextTask := n + 1 } }
        s.modQy q (fun y => { y with tcopies := y.tcopies ++ [(n, cp)] })

/-- Launches a ready record (R311). -/
def State.actTask (s : State) (j : Job) (k seq : Nat) : State :=
  let t := s.tq k
  match t.ready.find? (fun d => decide (d.seq = seq ∧ d.preds = 0)) with
  | none => s
  | some d =>
    if !t.owned ∨ !t.resident then s else
    let by_ := s.hmActor t.part j.fail
    let s := s.hmSeen by_ t.desc 320 64 Acc.atomic
    let fail (c : Nat × Nat) : State := (s.takeRecord k seq).addAct t.part (.finish k seq d.record (some c) 0)
    match s.readDesc by_ t.desc with
    | .error e => if e.replays then s.stallJob j e else fail e.code
    | .ok x =>
      let s := s.launchSeen by_ (slotAddr x 16).1
      match s.readLaunch by_ (slotAddr x 16).1 with
      | .error (e, _) => if e.replays then s.stallJob j e else fail e.code
      | .ok y =>
        match launchOf y with
        | none => fail (0, 3)
        | some l =>
          let idx := d.record.index l.levels
          if (l.levels.zip idx).any (fun p => decide (p.1.extent ≤ p.2)) then fail (0, 2)
          else
            let upper := idx.drop (hartLevels l.levels).length
            let copy := d.record.flags % 2 = 1
            let room (q : Nat) : Bool := decide copy || (s.hartRoom q (d.record.leaseOf l.levels).1 && !s.heldBack q d.effPrio d.since none)
            if !hartScopes l.levels 1 ∨ s.quaysFor k l.levels upper (s.part t.part).quays true = [] then fail (0, 4)
            else match (s.quaysFor k l.levels upper (s.heldQuays t.part) false).find? room with
            | some q =>
              let c := (s.ctxAt t.part q).getD 0
              if copy then s.startCopy j k c q d l else s.startQueued k c q d l
            | none => if copy then s else s.preemptFor (s.heldQuays t.part) d.effPrio none (fun k => decide (k < 8))

/-! ### The end of a queue task (R310, R312, R313, R325) -/

/-- The successor list of a record, when it can be read. -/
def State.readSuccs (s : State) (by_ : Actor) (a : Addr) : Except RowFail (List (Nat × Nat)) :=
  if a = 0 then .ok [] else
  match s.hmRead by_ a 8 8 Acc.load with
  | .error e => .error e
  | .ok h =>
    let n := h.2 % 2 ^ 16
    match s.hmRead by_ (a + 8) (8 * n) 8 Acc.load with
    | .error e => .error e
    | .ok x => .ok ((List.range n).map (fun k => (byteField x.2 (8 * k) 2, byteField x.2 (8 * k + 2) 4)))

/-- The state after the read of a successor list (R222). -/
def State.succsSeen (s : State) (by_ : Actor) (a : Addr) : State :=
  if a = 0 then s else
  match s.hmRead by_ a 8 8 Acc.load with
  | .error _ => s
  | .ok h => (s.hmSeen by_ a 8 8 Acc.load).hmSeen by_ (a + 8) (8 * (h.2 % 2 ^ 16)) 8 Acc.load

/-- Where a named record stands: decoded, appended, failed before it launched (R312), or launched or not appended; or its queue's
descriptor must be served first (R172). -/
inductive Named where
  | decoded | appended | failed | gone
  | stalls (e : RowFail)
deriving DecidableEq, Repr

/-- Finds a record that a successor list names. -/
def State.findRecord (s : State) (by_ : Actor) (k seq : Nat) : Named :=
  let t := s.tq k
  if !t.owned then .gone
  else if t.ready.any (fun d => d.seq = seq) then .decoded
  else if t.failed.contains seq then .failed
  else match s.readDesc by_ t.desc with
  | .error e => if e.replays then .stalls e else .gone
  | .ok d => if seqPast seq t.seq < seqPast (byteField d 44 4) t.seq then .appended else .gone

/-- One successor decrement. -/
def State.decrement (s : State) (by_ : Actor) (k seq : Nat) : State :=
  match s.findRecord by_ k seq with
  | .gone | .failed | .stalls _ => s
  | .decoded =>
    let n := s.work.nextReady
    let s := s.modTq k (fun t => { t with ready := t.ready.map (fun d =>
      if d.seq = seq then { d with preds := d.preds - 1, since := if d.preds = 1 then n else d.since } else d) })
    { s with work := { s.work with nextReady := n + 1 } }
  | .appended => s.modTq k (fun t => { t with credits := Assoc.set seq (Assoc.get 0 seq t.credits + 1) t.credits })

/-- One successor of a failed task fails (R312). -/
def State.failSucc (s : State) (by_ : Actor) (k seq : Nat) : State :=
  match s.findRecord by_ k seq with
  | .gone | .failed | .stalls _ => s
  | .appended => s.modTq k (fun t => { t with doomed := seq :: t.doomed.filter (· ≠ seq) })
  | .decoded =>
    match (s.tq k).ready.find? (fun d => decide (d.seq = seq)) with
    | none => s
    | some d => ((s.takeRecord k seq).modTq k (fun t => { t with failed := seq :: t.failed })).addAct by_.part
        (.finish k seq d.record (some (0, 5)) 0)

/-- Ends a queue task: a successor that cannot be named fails it with BADSUCC, its future is set, its successors are
decremented or fail. A future whose setting waits, for a translation or for its home on another module, holds nothing else up (R400). -/
def State.actFinish (s : State) (j : Job) (r : TaskRecord) (fail : Option (Nat × Nat)) (code : Word) : State :=
  let by_ := s.hmActor j.part j.fail
  let s := s.succsSeen by_ r.succ
  match s.readSuccs by_ r.succ with
  | .error e =>
    if e.replays then s.stallJob j e
    else s.addSet j.part r.fut (failValue (fail.getD e.code)) 2
  | .ok named =>
    let ks := named.map (fun n => (tqKey j.part n.1, n.2))
    match ks.findSome? (fun n => match s.findRecord by_ n.1 n.2 with | .stalls e => some e | _ => none) with
    | some e => s.stallJob j e
    | none =>
    let f : Option (Nat × Nat) := match fail with
      | some c => some c
      | none => if ks.any (fun n => decide (s.findRecord by_ n.1 n.2 = .gone)) then some (0, 1) else none
    let v : Word × Nat := match f with | some c => (failValue c, 2) | none => (code, 1)
    let z : State × Option (Nat × Nat) :=
      if r.fut = 0 then (s, f)
      else if (match s.futurePlace by_ r.fut with | .ok p => s.away p | .error _ => false) then (s.addSet j.part r.fut v.1 v.2, f)
      else match s.futSet by_ r.fut v.1 v.2 with
      | .ok s' => (s', f)
      | .error e =>
        if e.replays then (s.addSet j.part r.fut v.1 v.2, f)
        else (s.hmReport by_ e.code r.fut, some (f.getD e.code))
    match z.2 with
    | none => ks.foldl (fun s n => s.decrement by_ n.1 n.2) z.1
    | some _ => ks.foldl (fun s n => s.failSucc by_ n.1 n.2) z.1

/-! ### Instances of another module's launch (R378) -/

/-- Takes an instance of another module off those that have no place yet. -/
def State.placed (s : State) (x : RemoteStart) : State :=
  { s with work := { s.work with placing := s.work.placing.filter (fun y => y.1 ≠ x) } }

/-- The barrier groups that an instance of another module adds here: their counters are where its message says. -/
def State.remoteGroups (s : State) (x : RemoteStart) (r : LaunchRecord) : List Group :=
  ((s.groupsAt 0 r [(x.index, x.quay)]).filter (fun g => (s.namedGroup x.module x.launch g.level g.key).isNone)).map (fun g =>
    { g with die := homeAt s.modid (x.homes.getD g.level 0) })

/-- Starts a Quay instance that another module placed here: its launch record is read under this partition's page tables. It
waits while its Quay has no room, while something comes first, and while a die has no counter for its barrier groups. -/
def State.actRemote (s : State) (j : Job) (x : RemoteStart) : State :=
  let by_ := s.hmActor j.part j.fail
  let s := s.launchSeen by_ x.record
  match s.readLaunch by_ x.record with
  | .error (e, _) => if e.replays then s.stallJob j e else (s.placed x).hmReport by_ e.code x.record
  | .ok y =>
    match launchOf y, s.ctxAt x.part x.quay with
    | some r, some _ =>
      let since := ((s.work.placing.find? (fun y => decide (y.1 = x))).map (fun y => y.2)).getD s.work.nextReady
      if !s.roomFor r x.quay ∨ s.heldBack x.quay r.prio since none then s.preemptFor [x.quay] r.prio none (fun k => r.pilot || decide (k < 8))
      else if !s.countersFit (s.remoteGroups x r) then s else
      let old := List.find? (fun (l : Nat × Launch) => decide (l.2.live = true ∧ l.2.origin = some (x.module, x.launch) ∧ l.2.part = x.part)) s.work.launches
      let l := match old with | some l => l.1 | none => s.work.nextLaunch
      let s := match old with
        | some _ => s
        | none =>
          let z : Launch :=
            { live := true, part := x.part, record := r, addr := x.record, effPrio := r.prio, since := since
              origin := some (x.module, x.launch) }
          { s with work := { s.work with launches := Assoc.set l z s.work.launches, nextLaunch := l + 1 } }
      let z := (s.placed x).startInstance l (x.index, x.quay) []
      (z.1.modLaunch l (fun x' => { x' with placed := x'.placed ++ [(x.index, x.quay)] })).joinGroups l z.2 x.homes
    | some _, none => s
    | none, _ => s.placed x

/-! ### Running the acts -/

/-- Performs an act that has been taken off the list; it may be put back to wait. -/
def State.runAct (s : State) (j : Job) : State :=
  let by_ := s.hmActor j.part j.fail
  match j.act with
  | .launch q n rec => s.actLaunch j q n rec
  | .setFuture fut v st =>
    match s.futurePlace by_ fut with
    | .error e => if e.replays then s.stallJob j e else s.hmReport by_ e.code fut
    | .ok p =>
      if s.away p then s.askFuture j p v st else
      match s.futSet by_ fut v st with
      | .ok s' => s'
      | .error e => s.hmReport by_ e.code fut
  | .signal q n a v =>
    match s.rowSide by_ a 8 8 Acc.store with
    | .error e => if e.replays then s.stallJob j e else (s.hmReport by_ e.code a).completeEntry (some (q, n))
    | .ok _ => ((s.releaseAll.hmWrite by_ a (leBytes 8 v.toNat))).completeEntry (some (q, n))
  | .write a bs =>
    match s.rowSide by_ a bs.length 1 Acc.store with
    | .error e => if e.replays then s.stallJob j e else s.hmReport by_ e.code a
    | .ok _ => s.hmWrite by_ a bs
  | .finish _ _ r f c => s.actFinish j r f c
  | .decode k => s.actDecode j k
  | .taskLaunch k seq => s.actTask j k seq
  | .remoteStart x => s.actRemote j x

/-- Whether an act can go on. -/
def Job.ready (j : Job) : Bool := j.stall.isNone && j.ats.isNone && j.asked.isNone

/-- Performs the acts that can go on, in order. -/
def State.runActs : Nat → State → State
  | 0, s => s
  | k + 1, s =>
    match s.work.jobs.find? Job.ready with
    | none => s
    | some j => ({ s with work := { s.work with jobs := s.work.jobs.filter (fun x => x.key ≠ j.key) } }.runAct j).runActs k

/-- How many acts can follow from one: each names a record, a launch or a future. -/
def State.actFuel (s : State) : Nat :=
  8 + 4 * (s.work.jobs.length + s.work.launches.length + (s.fw.tqs.map (fun t => t.2.ready.length)).sum)

/-- Performs what can go on. -/
def State.settle (s : State) : State := s.runActs s.actFuel

/-! ### The end of a task (R305, R312, R325, R341) -/

/-- The barrier timeout of a task: its bartime (R330). -/
def State.taskBartime (s : State) (k : Nat) : Nat :=
  match (s.task k).state, (s.task k).saved with
  | .running g, _ => (s.ag g).task.bartime.toNat
  | _, some a => a.task.bartime.toNat
  | _, none => 0

/-- A task counts as arrived at every barrier phase of its groups, current and later; a group that no participant is left of gives its
counter back. -/
def State.arriveAll (s : State) (k : Nat) : State :=
  let leaves (g : Group) : Bool := (Assoc.find? k g.arrivals).isSome && !g.gone.contains k
  let t := s.taskBartime k
  let s := (s.work.groups.filter leaves).foldl (fun s g => s.sendArrival g (Assoc.get 0 k g.arrivals) true t) s
  { s with work := { s.work with
      groups := (s.work.groups.map (fun g => if leaves g then g.leave k t else g)).filter (fun g => !g.over) } }

/-- The number of an agent in its launch. -/
def TaskKind.number (k : TaskKind) (ls : List Level) : Nat :=
  match k with
  | .hart _ i | .pilot _ i => ofDigits ls i
  | .queued _ n _ => n

/-- Ends a task: with an exit code, or failed. The end of another module's instance is told to its origin (R378). -/
def State.endTask (s : State) (k : Nat) (code : Word) (fail : Option (Nat × Nat)) : State :=
  if (Assoc.find? k s.work.tasks).isNone then s else
  let t := s.task k
  let s := s.arriveAll k
  let s := { s with work := { s.work with tasks := Assoc.erase k s.work.tasks } }
  match t.kind with
  | .hart l _ | .pilot l _ =>
    let s := match (s.launch l).origin with
      | some o => s.sendTo o.1 (.ended o.2 (t.kind.number t.levels) (match fail with | some c => failValue c | none => code) fail.isSome)
      | none => s
    let s := s.modLaunch l (fun x => { x with
      running := x.running - 1, orVal := x.orVal ||| code
      failed := match x.failed, fail with | some v, _ => some v | none, some c => some (failValue c) | none, none => none })
    (s.checkLaunch l).settle
  | .queued q seq r => (s.addAct t.part (.finish q seq r fail code)).settle

end Sys2Proof.Machine
end

