-- ==== Sys2Proof/Machine/Task.lean ====
section
/-! DEFINITION. The TASK major (R320-R326) and BARV and BARW (R328-R330). -/

namespace Sys2Proof.Machine

/-! ### Scopes and accesses -/

/-- The effective scope: the wider of the encoded one and module scope (R321). -/
def effScope : Scope → Scope
  | .hart | .quay | .die | .module => .module
  | .domain => .domain
  | .system => .system

/-- Ends the strip before EXIT and YIELD (R79). -/
def endStripM (is : Issue) : M Unit := modify (fun s => s.endOpen is.g)

/-- The check of a run of `k` units of `n` bytes; the first must be aligned to `al`. -/
def spanM (is : Issue) (a : Addr) (n al : Nat) (acc : Acc) : Nat → M (List Hit)
  | 0 => return []
  | k + 1 => fun s =>
    match s.check is a n al acc noElem with
    | .bad t => .error (.trap t none)
    | .ats va => .error (.wait (.ats va) s)
    | .held => .error (.again s)
    | .ok h =>
      match spanM is (a + BitVec.ofNat 72 n) n n acc k (s.keep (s.actor is.g) h) with
      | .ok r => .ok (h :: r.1, r.2)
      | .error e => .error e

/-- The value of a run of units, as the agent reads it. -/
def readSpan (is : Issue) (a : Addr) (n : Nat) : List Hit → M Nat
  | [] => return 0
  | h :: hs => do
    let x ← readHit is a h n
    let y ← readSpan is (a + BitVec.ofNat 72 n) n hs
    return x + y * 2 ^ (8 * n)

/-! ### SPAWN (R322) -/

/-- The offsets and sizes of the fields of an expanded record (R307). -/
def expandedAt : List (Nat × Nat) :=
  [(0, 16), (16, 16), (64, 4), (68, 4), (72, 24), (96, 2), (32, 16), (48, 16), (98, 2), (100, 1), (101, 1)]

/-- The fields of a packed record: those that the mask names, ascending, after the mask, padded with zeros. -/
def packRecord (x mask : Nat) : List Byte :=
  let body := ((expandedAt.zip fieldSizes).zipIdx.filter (fun f => mask.testBit f.2)).flatMap (fun f =>
    leBytes f.1.2 (byteField x f.1.1.1 f.1.2))
  let bs := leBytes 2 mask ++ body
  bs ++ List.replicate (packedSize mask - bs.length) 0

/-- The fields in which an expanded record differs from the last one, or all of them, or F2 when none does. -/
def spawnMask (x enc : Nat) (ev : Bool) : Nat :=
  if !ev then 0x7FF else
  let m := expandedAt.zipIdx.foldl (fun (m : Nat) f =>
    if byteField x f.1.1 f.1.2 ≠ byteField enc f.1.1 f.1.2 then m + 2 ^ f.2 else m) 0
  if m = 0 then 4 else m

/-- What SPAWN writes: the wrap marker, if any, the record's offset and bytes, and the next offset. -/
structure SpawnPlan where
  marker : Option Nat
  off    : Nat
  bytes  : List Byte
  next   : Nat
deriving DecidableEq, Repr

/-- Where a record goes in the ring, or that the ring is full. -/
def spawnPlan (d x : Nat) : Option SpawnPlan :=
  let size := byteField d 32 4
  let tail := byteField d 40 4
  let head := byteField d 48 4
  let some_ := decide (byteField d 44 4 ≠ byteField d 52 4)
  let mask := spawnMask x (byteField d 64 112) ((byteField d 38 2).testBit 0)
  let meets (lo n : Nat) : Bool := some_ && decide (lo ≤ head ∧ head < lo + n)
  let plan (marker : Option Nat) (off mask : Nat) : Option SpawnPlan :=
    let n := packedSize mask
    if meets off n then none
    else some ⟨marker, off, packRecord x mask, if off + n = size then 0 else off + n⟩
  if size < tail + packedSize mask then
    if size < tail + 2 ∨ (some_ && decide (tail ≤ head)) ∨ meets 0 (packedSize mask) then none
    else plan (some tail) 0 0x7FF
  else plan none tail mask

/-- Stores bytes of a descriptor or ring after their check: performed at once, after the release. -/
def spawnStore (is : Issue) (hs : List Hit) (n : Nat) (bs : List Byte) : M Unit := modify (fun s =>
  let ps := (hs.flatMap (fun h => h.place.span n)).zip bs
  (s.drainFor is.g (ps.map (·.1))).writeBytes ps)

/-- SPAWN (R322). -/
def execSpawn (d : Fin 32) (a b : Fin 16) (sc : Scope) (s : State) : Out :=
  s.run (.spawn d a b sc) .cutting (fun is => do
    let da ← getR is a
    let xa ← getR is b
    let dh ← spanM is da 64 64 Acc.load 5
    let xh ← spanM is xa 16 16 Acc.load 7
    let dv ← readSpan is da 64 dh
    let xv ← readSpan is xa 16 xh
    releaseM is (effScope sc)
    if (byteField dv 38 2).testBit 2 then setS is d (BitVec.allOnes 64)
    else match spawnPlan dv xv with
    | none => setS is d (BitVec.allOnes 64)
    | some p =>
      let base := (slotAddr dv 0).1
      let mh ← match p.marker with
        | some off => spanM is (base + BitVec.ofNat 72 off) 2 8 Acc.store 1
        | none => pure []
      let rh ← spanM is (base + BitVec.ofNat 72 p.off) 8 8 Acc.store (p.bytes.length / 8)
      let eh ← spanM is (da + 64) 8 8 Acc.store 14
      let fh ← spanM is (da + 38) 2 2 Acc.store 1
      let th ← spanM is (da + 40) 8 8 Acc.store 1
      watchM is ((mh ++ rh ++ eh ++ fh ++ th).map (·.place))
      spawnStore is mh 2 [0, 0]
      spawnStore is rh 8 p.bytes
      spawnStore is eh 8 (leBytes 112 xv)
      spawnStore is fh 2 (leBytes 2 (byteField dv 38 2 ||| 1))
      spawnStore is th 8 (leBytes 4 p.next ++ leBytes 4 ((byteField dv 44 4 + 1) % 2 ^ 32))
      setS is d (BitVec.ofNat 64 (byteField dv 44 4)))

/-! ### LEASE (R323) -/

/-- LEASE (R323). -/
def execLease (a b : Fin 32) (s : State) : Out :=
  s.run (.lease a b) .hartOnly (fun is => do
    let m := min 8 (max 1 (← getS is a).toNat)
    let p := min 8 (max m (← getS is b).toNat)
    modA is (fun x => { x with
      task := { x.task with qmin := m, qpref := p }, strip := { x.strip with lpend := true } }))

/-! ### FSET, FWAIT, FGET (R316, R317, R324) -/

/-- The access to a future: its checks, the watchpoints, what its read meets, and last whether a future may lie there (R316). -/
def futAccess (is : Issue) (a : Addr) : M Place := fun s =>
  match s.futureHit (s.actor is.g) a with
  | .error (.ats va) => .error (.wait (.ats va) s)
  | .error (.trap c sub x) => .error (.trap (memTrap c sub x) none)
  | .ok h =>
    if s.heldAt h.place then .error (.again s) else
    match s.watchHit is a 16 Acc.atomic with
    | some w => .error (.trap (s.watchTrap is a w noElem) none)
    | none =>
      match atomicRead a h.place 16 s with
      | .error e => .error e
      | .ok r =>
        if futurePage a h then .ok (h.place, r.2.keep (s.actor is.g) h)
        else .error (.trap (memTrap Cause.perm 0x0D a) none)

/-- The place of a future; of an instruction that waits for an answer of the future's home, the one that it has checked. -/
def futPlace (is : Issue) (a : Addr) : M Place := do
  match (← getA is).marks.plan with
  | p :: _ => return p.2.2
  | [] => futAccess is a

/-- The answer of the home of a future on another module (R316, R380), a code and a value: it is asked for first. -/
def homeAnswer (is : Issue) (a : Addr) (p : Place) (x : Nat → LinkMsg) : M (Nat × Nat) := do
  let done := (← getA is).marks.done
  match Assoc.find? 0 done with
  | some c => return (c, Assoc.get 0 1 done)
  | none =>
    modA is (fun y => { y with marks := { y.marks with plan := [(0, a, p)] } })
    askHome 0 p x

/-- Before the atomic of a future the agent's own stores to it are performed. -/
def futReady (is : Issue) (p : Place) : M Unit := modify (fun s => s.drainFor is.g (p.span 16))

/-- Notes the write of a future's atomic for the home comparators. -/
def State.noteFuture (s : State) (g : Nat) (p : Place) : State :=
  s.noteWrite (writerOf g).1 (writerOf g).2 s.modid (quayOf g) false p 16

/-- How the setting of a future fails: 1 when it is set, 2 when its state word is malformed; 0 when it does not (R324). -/
def setCode (w : Nat) : Nat := if futMalformed w then 2 else if w % 4 ≠ 0 then 1 else 0

/-- FSET (R324). -/
def execFset (a : Fin 16) (b : Fin 32) (sc : Scope) (s : State) : Out :=
  s.run (.fset a b sc) .cutting (fun is => do
    let ad ← getR is a
    let p ← futPlace is ad
    futReady is p
    watchM is [p]
    releaseM is (effScope sc)
    let v ← getS is b
    let s ← get
    let code ← if s.away p then (do
        let r ← homeAnswer is ad p (fun t => .fset t (writerOf is.g).1 (writerOf is.g).2 (quayOf is.g) p.addr v.toNat 1)
        return r.1)
      else pure (setCode (s.futWord p))
    if code ≠ 0 then trap { cause := Cause.futureDoubleSet, sub := code, val := offOf ad, win := winOf ad }
    modify (fun s => (((s.putFuture p v 1).noteFuture is.g p).memRecord is.g ad 2 4 1)))

/-- How many wait entries a die has (R317). -/
def waitEntries : Nat := 4096

/-- Takes a wait entry of the home die of a future here, or a mooring record of the partition; none when both are full (R317). -/
def State.takeWait (s : State) (part k pa : Nat) : Option State :=
  let d := s.homeKey pa
  if (s.die d).waits.length < waitEntries then some (s.modDie d (fun x => { x with waits := x.waits ++ [(pa, k)] }))
  else if (s.part part).moored.length < (s.part part).mooring then
    some (s.modPart part (fun x => { x with moored := x.moored ++ [(pa, k)] }))
  else none

/-- Parks the task at the cut after its instruction (R317): its context is saved, its quads return to the pool. -/
def State.park (s : State) (is : Issue) (a : Addr) (pa : Nat) (getV : Bool) (d : Fin 32) : State :=
  let k := (s.ag is.g).tkey
  let s := (s.modAg is.g (fun x => { x with task := { x.task with parkcnt := x.task.parkcnt + 1 } })).retire is true
  (s.saveAgent is.g (.parked pa) 0).modTask k (fun t => { t with fut := a, futPa := pa, get := getV, dest := d.val })

/-- FWAIT or FGET completes: the future has been found with a state and a value; a malformed one gives 3. -/
def futFound (is : Issue) (a : Addr) (getV : Bool) (d : Fin 32) (st : Nat) (v : Word) : M Unit := do
  modify (fun s => s.memRecord is.g a 2 4 1)
  setS is d (if getV && decide (st ≠ 3) then v else BitVec.ofNat 64 st)

/-- The task waits in place (R317), with the record of its supervisor. -/
def futInPlace (is : Issue) (a : Addr) : M Unit := do
  modify (fun s => (s.hmReport (s.actor is.g) (Cause.waitOverflow, 1) a).modAg is.g (fun x => { x with marks := { x.marks.clear with inPlace := true } }))
  retryLater

/-- FWAIT and FGET of a future whose home is another module, which tests it and takes the wait entry (R317): it answers with ST and VALUE,
4 when it has no entry, 5 when the task parks, 0 when the future is unset and the task is not to park. -/
def awayWait (d : Fin 32) (a : Addr) (p : Place) (getV stays : Bool) (is : Issue) : M Unit := do
  let ag ← getA is
  let x := (← get).part ag.part
  let r ← homeAnswer is a p (fun t =>
    .wait t (writerOf is.g).1 (writerOf is.g).2 (quayOf is.g) ag.tkey p.addr x.group x.groupKey (!stays))
  match r.1 with
  | 0 =>
    modA is (fun x => { x with marks := { x.marks with plan := [], done := [] } })
    retryLater
  | 4 => futInPlace is a
  | 5 => modify (fun s => (s.memRecord is.g a 2 4 1).park is a p.addr getV d)
  | st =>
    if st ≠ 3 then modify (fun s => s.putFuture p (BitVec.ofNat 64 r.2) st)
    futFound is a getV d st (BitVec.ofNat 64 r.2)

/-- FWAIT and FGET: the destination takes ST or VALUE of a set or failed future, 3 of a malformed one (log entry 45); an unset one parks the
task, or the agent waits in place when no wait entry is to be had. The save waits for the hart's own copies (R240). -/
def futWait (d : Fin 32) (a : Fin 16) (getV : Bool) (is : Issue) : M Unit := do
  let ad ← getR is a
  let p ← futPlace is ad
  futReady is p
  let s ← get
  let w := s.futWord p
  let stays : Bool := (s.ag is.g).marks.inPlace || !s.copiesDone is.g
  if s.away p then awayWait d ad p getV stays is
  else if futSt w ≠ 0 then futFound is ad getV d (futSt w) (s.futValue p)
  else if stays then retryLater
  else
    watchM is [p]
    let s ← get
    let s := (s.writeBytes (placeBytes (p.plus 8) (leBytes 8 (w ||| 4)))).noteFuture is.g p
    match s.takeWait (s.ag is.g).part (s.ag is.g).tkey p.addr with
    | some s' => set ((s'.memRecord is.g ad 2 4 1).park is ad p.addr getV d)
    | none =>
      set s
      futInPlace is ad

/-- FWAIT (R324). -/
def execFwait (d : Fin 32) (a : Fin 16) (sc : Scope) (s : State) : Out :=
  s.run (.fwait d a sc) .cutting (futWait d a false)

/-- FGET (R324). -/
def execFget (d : Fin 32) (a : Fin 16) (sc : Scope) (s : State) : Out :=
  s.run (.fget d a sc) .cutting (futWait d a true)

/-! ### EXIT and YIELD (R325, R326) -/

/-- Frees every berth of an owner. -/
def State.freeBerths (s : State) (q owner : Nat) : State :=
  s.modQy q (fun y => { y with berths := y.berths.map (fun b => if b.owner = some owner then { b with owner := none } else b) })

/-- Discards the tile state: every node without computing, every version, what is in progress (R268). -/
def TileState.discard (t : TileState) : TileState :=
  { t with cur := Vector.replicate 8 none, versions := [], feeds := [], asyncs := [] }

/-- Empties the slot of an agent whose task has ended. -/
def State.vacate (s : State) (g : Nat) : State :=
  let s := (s.performAll g).leaveLease g
  let s := s.modQy (quayOf g) (fun y => { y with tile := { y.tile with feeds := y.tile.feeds.filter (fun f => f.agent ≠ g) } })
  s.setAg g (s.ag g).residue

/-- EXIT (R325). -/
def execExit (b : Fin 32) (sc : Scope) (s : State) : Out :=
  s.run (.exit b sc) .both (fun is => do
    commitM is
    endStripM is
    if !(← get).copiesDone is.g then retryLater
    modify (fun s => s.freeBerths (quayOf is.g) is.g)
    if isPilot is.g then
      releaseTiles is
      modify (fun s => s.setTile (quayOf is.g) (s.tile (quayOf is.g)).discard)
    let code ← getS is b
    modify (fun s => s.arriveAll (s.ag is.g).tkey)
    releaseM is (effScope sc)
    modify (fun s =>
      let k := (s.ag is.g).tkey
      ((s.retire is false).vacate is.g).endTask k code none))

/-- YIELD (R326). -/
def execYield (s : State) : Out :=
  s.run .yield .both (fun is => do
    commitM is
    endStripM is
    if !(← get).copiesDone is.g then retryLater
    modify (fun s => (s.retire is false).saveAgent is.g .ready 0))

/-! ### Barriers (R328-R330) -/

/-- The barrier group of a task at a level, with its place in the list: none where the participant forms a group of one. -/
def State.groupOf (s : State) (k l : Nat) : Option (Nat × Group) :=
  let t := s.task k
  if (t.levels.getD l ⟨1, 0, 0, 1, 1, false⟩).bar then
    (s.work.groups.zipIdx.find? (fun g => decide (t.kind.launch = some g.1.launch ∧ g.1.level = l)
      && (Assoc.find? k g.1.arrivals).isSome)).map (fun g => (g.2, g.1))
  else none

/-- The scope of a level (R24). -/
def levelScope (c : Nat) : Scope :=
  match c with
  | 0 => .hart | 1 => .quay | 2 => .die | 3 => .module | 4 => .domain | _ => .system

/-- LEVEL unless the issuer takes part in the level (R329). -/
def barLevel (is : Issue) (l : Fin 8) : M Level := fun s =>
  let t := s.task (s.ag is.g).tkey
  let bad : Stop := .trap { cause := Cause.agent, sub := 3, val := BitVec.ofNat 64 l.val } none
  match t.levels[l.val]? with
  | none => .error bad
  | some x => if isPilot is.g ∧ x.domain = 0 then .error bad else .ok (x, s)

/-- Whether the phase of a participant's latest arrival has completed. -/
def Group.passed (g : Group) (k : Nat) : Bool := decide (Assoc.get 0 k g.arrivals ≤ g.phase)

/-- Changes a group. -/
def State.modGroup (s : State) (k : Nat) (f : Group → Group) : State :=
  { s with work := { s.work with groups := s.work.groups.modify k f } }

/-- BARV (R329): the arrival is its last step. -/
def execBarv (l : Fin 8) (s : State) : Out :=
  s.run (.barv l) .cutting (fun is => do
    let x ← barLevel is l
    let s ← get
    let k := (s.ag is.g).tkey
    let g := s.groupOf k l.val
    if g.any (fun g => !(g.2.passed k)) then retryLater
    releaseTiles is
    releaseM is (levelScope x.scope)
    modify (fun s =>
      let t := (s.ag is.g).task.bartime.toNat
      let s := match g with
        | some g => (s.modGroup g.1 (fun y => y.arrive k t)).sendArrival g.2 (Assoc.get 0 k g.2.arrivals + 1) false t
        | none => s
      s.modAg is.g (fun a => { a with task := { a.task with
        phases := a.task.phases.set l (a.task.phases[l] + 1) } })))

/-- BARW (R329). -/
def execBarw (l : Fin 8) (s : State) : Out :=
  s.run (.barw l) .cutting (fun is => do
    let _ ← barLevel is l
    let s ← get
    let k := (s.ag is.g).tkey
    if (s.groupOf k l.val).any (fun g => !(g.2.passed k)) then retryLater)

/-- Whether every participant of a group, here and on other modules, has arrived at the phase in progress. -/
def Group.complete (g : Group) : Bool :=
  g.arrivals.all (fun a => decide (g.phase < a.2) || g.gone.contains a.1) && decide (g.remote ≤ g.away + g.lost) && !g.fresh

/-- The next phase of a group: those that have ended have arrived at it already (R330). -/
def Group.next (g : Group) : Group :=
  { g with phase := g.phase + 1, away := 0, timeout := if g.gone = [] ∧ g.lost = 0 then 0 else g.later, posted := false }

/-- BARRIER_PHASE_COMPLETE (R328): every participant of a group has arrived, where its counter is; the other modules are told (R378). -/
def execBarrierPhaseComplete (k : Nat) (s : State) : Out :=
  .next (match s.work.groups[k]? with
    | none => s
    | some g =>
      if g.die < 8 ∧ g.complete then
        let n := s.launchName g.launch
        let ms := if g.remote = 0 then [] else (s.part (s.launch g.launch).part).peers.map (fun m => m.1)
        ms.foldl (fun s m => s.sendTo m (.phase n.1 n.2 g.level g.key (g.phase + 1))) (s.modGroup k Group.next)
      else s)

/-- Whether a task is halted (R355, R356). -/
def State.taskHalted (s : State) (k : Nat) : Bool :=
  match (s.task k).state with
  | .running g => decide ((s.ag g).status = .halted)
  | .halted => true
  | .parked _ | .ready | .ended => match (s.task k).saved with | some a => decide (a.status = .halted) | none => false

/-- Tells the module that holds a group's counter which participants here have been halted, or are no longer (R330, R331). -/
def State.tellHalts (s : State) : State :=
  s.work.groups.zipIdx.foldl (fun (s : State) (x : Group × Nat) =>
    let g := x.1
    let now := (g.arrivals.map (·.1)).filter (fun k => s.taskHalted k && !g.gone.contains k)
    if g.die < 8 ∨ now = g.told then s else
    let n := s.launchName g.launch
    let tell (on : Bool) (s : State) (_k : Nat) : State := s.sendTo ((g.die - 8) / 192) (.halt n.1 n.2 g.level g.key on)
    let s := (now.filter (fun k => !g.told.contains k)).foldl (tell true) s
    let s := (g.told.filter (fun k => !now.contains k)).foldl (tell false) s
    s.modGroup x.2 (fun g => { g with told := now })) s

/-- BARRIER_TIMEOUT (R330): the phase in progress has stayed incomplete for its timeout, and no participant, here or on another module, is
halted; its record names the phase, the first being phase 0. -/
def execBarrierTimeout (k : Nat) (s : State) : Out :=
  .next (match s.work.groups[k]? with
    | none => s
    | some g =>
      if 8 ≤ g.die ∨ g.complete ∨ g.posted ∨ g.timeout = 0 ∨ g.fresh ∨ 0 < g.stopped ∨ g.arrivals.any (fun a => s.taskHalted a.1) then s
      else
        let p := (s.launch g.launch).part
        let r : TrapRecord :=
          { s.hmRecord (s.hmActor p none) (Cause.waitOverflow, 2) fInfo 0 with
            detail := g.level + g.phase % 2 ^ 32 * 2 ^ 32 }
        (s.report p r).modGroup k (fun g => { g with posted := true }))

end Sys2Proof.Machine
end

