-- ==== Sys2Proof/Machine/Sched.lean ====
section
/-! DEFINITION. The Harbour Master's events: host launch queues (R366-R368), waves (R304), task queues (R309, R311), waking and
resuming tasks (R318, R348), priorities and pre-emption (R93, R314), quads (R71, R315), rows of copies (R226), and the events of
an agent's memory (R103, R178, R238). -/

namespace Sys2Proof.Machine

/-! ### Host launch queues (R366-R368) -/

/-- The next entry of a queue, when the queue may start it. -/
def State.nextEntry (s : State) (q : Nat) : Option Nat :=
  let x := s.lq q
  if x.owned && x.resident && !x.switching && !x.stopped && !(s.part x.part).halted && decide (x.next < x.tail) then
    some (leNat (s.hostBytes (x.ring + 64 * (x.next % x.size)) 64))
  else none

/-- Starts the next entry when it has a kind; an entry of no kind stops the queue. -/
def State.startEntry (s : State) (q kind : Nat) (f : State → Nat → Nat → State) : State :=
  match s.nextEntry q with
  | none => s
  | some e =>
    if e % 256 = kind then f (s.modLq q (fun x => { x with next := x.next + 1 })) (s.lq q).next e
    else if 3 < e % 256 then s.modLq q (fun x => { x with stopped := true })
    else s

/-- QUEUE_NOP (R366). -/
def execQueueNop (q : Nat) (s : State) : Out :=
  .next (s.startEntry q 0 (fun s n _ => s.completeEntry (some (q, n))))

/-- QUEUE_LAUNCH (R366): it completes by R305. -/
def execQueueLaunch (q : Nat) (s : State) : Out :=
  .next (s.startEntry q 1 (fun s n e => (s.addAct (s.lq q).part (.launch q n (slotAddr e 8).1)).settle))

/-- QUEUE_WAIT (R366): it completes when the named queue's progress reaches its value. -/
def execQueueWait (q : Nat) (s : State) : Out :=
  .next (s.startEntry q 2 (fun s n e =>
    let s := s.modLq q (fun x => { x with waits := x.waits ++ [(n, byteField e 32 2, byteField e 24 8)] })
    s.settleWaits s.waitCount))

/-- QUEUE_SIGNAL (R366): its write is performed at system scope. -/
def execQueueSignal (q : Nat) (s : State) : Out :=
  .next (s.startEntry q 3 (fun s n e =>
    (s.addAct (s.lq q).part (.signal q n (slotAddr e 8).1 (BitVec.ofNat 64 (byteField e 24 8)))).settle))

/-- The bytes of an expanded record (R307). -/
def TaskRecord.bytes (r : TaskRecord) : List Byte :=
  staBytes r.entry ++ staBytes r.args ++ staBytes r.fut ++ staBytes r.succ
  ++ (List.range 8).flatMap (fun k => leBytes 4 (r.idx.getD k 0))
  ++ leBytes 2 r.lease ++ leBytes 2 r.preds ++ leBytes 1 r.prio ++ leBytes 1 r.flags ++ List.replicate 10 0

/-- The expanded record at an offset of a value. -/
def recordAt (x off : Nat) : TaskRecord :=
  let f (o n : Nat) : Nat := byteField x (off + o) n
  { entry := (slotAddr x off).1, args := (slotAddr x (off + 16)).1, fut := (slotAddr x (off + 32)).1
    succ := (slotAddr x (off + 48)).1, idx := (List.range 8).map (fun k => f (64 + 4 * k) 4)
    lease := f 96 2, preds := f 98 2, prio := f 100 1, flags := f 101 1 }

/-- Switches a task queue out, which writes DEC and sets DV, or in, which reads them again (R309). -/
def State.switchTq (s : State) (k : Nat) : State :=
  let t := s.tq k
  let by_ := s.hmActor t.part none
  if !t.owned then s
  else if t.resident then
    let s := s.modTq k (fun t => { t with resident := false })
    match t.last, s.readDesc by_ t.desc with
    | some r, .ok d =>
      let s := s.hmSeen by_ t.desc 320 64 Acc.atomic
      (s.hmPut t.part (t.desc + 176) r.bytes).hmPut t.part (t.desc + 38) (leBytes 2 (byteField d 38 2 ||| 2))
    | _, _ => s
  else
    match s.readDesc by_ t.desc with
    | .ok d => (s.hmSeen by_ t.desc 320 64 Acc.atomic).modTq k (fun t => { t with
        resident := true, last := if (byteField d 38 2).testBit 1 then some (recordAt d 176) else t.last })
    | .error _ => s.modTq k (fun t => { t with resident := true })

/-- How many launch queues are resident at once. -/
def residentQueues : Nat := 512

/-- Whether a queue has work that it may start. -/
def LaunchQueue.mayWork (x : LaunchQueue) : Bool := !x.stopped && x.pending

/-- Whether a queue comes before another: by pending work, then priority, then the age of the work (R368). -/
def LaunchQueue.before (x y : LaunchQueue) : Bool :=
  x.mayWork && (!y.mayWork || decide (y.prio < x.prio ∨ (y.prio = x.prio ∧ x.since < y.since)))

/-- Whether a queue takes a place among the resident ones. -/
def LaunchQueue.holdsPlace (x : LaunchQueue) : Bool := x.owned && (x.resident || (x.switching && x.entering))

/-- Whether a queue is the next to be switched in. -/
def State.entersNext (s : State) (q : Nat) : Bool :=
  let x := s.lq q
  x.owned && !x.resident && !x.switching && x.mayWork
  && !(s.fw.lqs.any (fun y => y.2.owned && !y.2.resident && !y.2.switching && y.2.before x))

/-- Whether a queue is the next to be switched out: the places are taken, one that waits comes before it, and no other that is resident
comes after it. -/
def State.leavesNext (s : State) (q : Nat) : Bool :=
  let x := s.lq q
  x.owned && x.resident && !x.switching
  && decide (residentQueues ≤ (s.fw.lqs.filter (fun y => y.2.holdsPlace)).length)
  && s.fw.lqs.any (fun y => y.2.owned && !y.2.resident && !y.2.switching && y.2.before x)
  && !(s.fw.lqs.any (fun y => y.2.owned && y.2.resident && !y.2.switching && x.before y.2))

/-- The next part of the switch of a launch queue. A switch out gives up the queue's place before it ends; a switch in applies the tails
that were written meanwhile, in their order (R368). -/
def State.switchLq (s : State) (q : Nat) : State :=
  let x := s.lq q
  if x.switching then
    s.modLq q (fun x =>
      if x.entering then
        { x.mirror.foldl (fun x v => x.takeTail v) { x with resident := true, switching := false, entering := false } with mirror := [] }
      else if x.resident then { x with resident := false }
      else { x with switching := false })
  else if s.entersNext q ∧ (s.fw.lqs.filter (fun y => y.2.holdsPlace)).length < residentQueues then
    s.modLq q (fun x => { x with switching := true, entering := true })
  else if s.leavesNext q then s.modLq q (fun x => { x with switching := true, entering := false })
  else s

/-- QUEUE_SWITCH (R309, R368): begins or goes on with the switch of a launch queue, where priority and then the age of the pending work
call for one; a number from 4,096 on names a task queue. -/
def execQueueSwitch (q : Nat) (s : State) : Out :=
  .next (if 4096 ≤ q then (s.switchTq (q - 4096)).settle else s.switchLq q)

/-! ### Waves, records -/

/-- WAVE_START (R304). -/
def execWaveStart (l : Nat) (s : State) : Out := .next ((s.startUnits waveFuel l).settle)

/-- Adds an act that stands nowhere yet, and performs what can go on. -/
def State.request (s : State) (p : Nat) (a : Act) : State :=
  if s.work.jobs.any (fun j => decide (j.act = a)) then s else (s.addAct p a).settle

/-- TASK_DECODE (R309). -/
def execTaskDecode (tq : Nat) (s : State) : Out := .next (s.request (s.tq tq).part (.decode tq))

/-- TASK_LAUNCH (R311). -/
def execTaskLaunch (tq : Nat) (sq : Nat) (s : State) : Out := .next (s.request (s.tq tq).part (.taskLaunch tq sq))

/-- REMOTE_INSTANCE_START (R378). -/
def execRemoteInstanceStart (l : RemoteStart) (s : State) : Out := .next (s.request l.part (.remoteStart l))

/-- The end of an instance that runs on another module, with its exit code or its failure (R378). -/
def State.awayEnded (s : State) (l : Nat) (code : Word) (fail : Bool) : State :=
  if (s.launch l).remote = 0 then s else
    ((s.modLaunch l (fun x => { x with
      remote := x.remote - 1
      orVal := if fail then x.orVal else x.orVal ||| code
      failed := if fail then some (x.failed.getD code) else x.failed })).checkLaunch l).settle

/-- INSTANCE_END_REPORT (R378). -/
def execInstanceEndReport (l : Nat) (_k : Nat) (code : Word) (fail : Bool) (s : State) : Out := .next (s.awayEnded l code fail)

/-! ### Waking (R318) -/

/-- Wakes a task that waits on a future: it is ready to resume after its FWAIT or FGET, whose destination is written as if the
future had been found as it was set, with ST and VALUE. The cut after the instruction holds it too. -/
def State.wake (s : State) (k : Nat) (w : Wake) : State :=
  let t := s.task k
  if t.state ≠ .parked w.addr then s else
  let v : Word := if t.get && decide (w.st ≠ 3) then w.value else BitVec.ofNat 64 w.st
  let put (a : Agent) : Agent :=
    if h : 0 < t.dest ∧ t.dest < 32 then
      let b := a.ws ⟨t.dest, h.2⟩ v
      if b.strip.isOpen then { b with strip := { b.strip with ckpt := { b.strip.ckpt with s := b.strip.ckpt.s.set t.dest v h.2 } } } else b
    else a
  s.toTail k { t with state := .ready, saved := t.saved.map put, fut := 0, effPrio := t.prio }

/-- How a wait table names the task of another module. -/
def awayTask (m k : Nat) : Nat := 2 ^ 32 * (m + 1) + k % 2 ^ 32

/-- Whether a task still runs: its FWAIT has been answered and has not parked it yet. -/
def State.parksYet (s : State) (k : Nat) : Bool :=
  match (s.task k).state with
  | .running _ => (Assoc.find? k s.work.tasks).isSome
  | .ready | .parked _ | .halted | .ended => false

/-- FUTURE_WAKEUP (R318): the first wake-up of a future reaches its home die, whose Harbour Master makes ready every task that its
wait table and the mooring records name for it, and frees those entries; the modules of tasks that wait elsewhere are told. -/
def execFutureWakeup (pa : Nat) (s : State) : Out :=
  .next (let d := s.homeKey pa
    match (s.die d).wakes.find? (fun w => w.addr = pa) with
    | none => s
    | some w =>
    let names := ((s.die d).waits.filter (fun w => w.1 = pa)).map (·.2)
      ++ s.fw.parts.flatMap (fun p => (p.2.moored.filter (fun w => w.1 = pa)).map (·.2))
    if (names.filter (· < awayTask 0 0)).any s.parksYet then s else
    let s := s.modDie d (fun x => { x with wakes := x.wakes.erase w, waits := x.waits.filter (fun w => w.1 ≠ pa) })
    let s := { s with fw := { s.fw with parts := s.fw.parts.map (fun p =>
      (p.1, { p.2 with moored := p.2.moored.filter (fun w => w.1 ≠ pa) })) } }
    let s := (names.filter (· < awayTask 0 0)).foldl (fun s k => s.wake k w) s
    (((names.filter (awayTask 0 0 ≤ ·)).map (fun k => k / 2 ^ 32 - 1)).dedup).foldl (fun s m => s.sendTo m (.wake pa w.st w.value.toNat)) s)

/-! ### Resuming (R314, R318, R348, R349) -/

/-- Whether no Quay of a partition has as many live lanes as a saved hart needs (R348). -/
def State.lanesGone (s : State) (p lanes : Nat) : Bool :=
  (s.part p).quays.all (fun q => decide (popCount (s.lanesOf q 255).toNat 32 < lanes))

/-- Whether every slot of a task's kind on its Quay is taken. -/
def State.noSlot (s : State) (k : Nat) : Bool :=
  (List.range 9).all (fun h => !((s.task k).kind.slotOk h) || decide ((s.ag ((s.task k).quay * 16 + h)).status ≠ .absent))

/-- Seats a task's agent in a slot with some quads. -/
def State.seat (s : State) (k slot quads : Nat) (a : Agent) : State :=
  let t := s.task k
  let g := t.quay * 16 + slot
  let s := s.modTask k (fun t => { t with state := .running g, saved := none, needs := 0, effPrio := t.prio })
  let s := s.setAg g { a with
    tkey := k, ctx := t.ctx, part := t.part, task := { a.task with effPrio := t.prio }, marks := { a.marks with inPlace := false } }
  let s := (s.rekey t.quay (taskToken k) g).setQuads g quads
  match (s.ctx t.ctx).doomed with
  | none => s
  | some pc =>
    (s.modCtx t.ctx (fun c => { c with doomed := none })).takeFatal (s.boundary g)
      { cause := Cause.codeGone, val := pc } fPrecise

/-- TASK_RESUME (R314, R318, R348): a ready task resumes in a free slot of its Quay, the first in the order of R314, with its quads when it
parked or was saved with live vector state; one whose lanes are no more is stopped by LANELOST, with the lanes and registers of its image,
which its dump holds. For want of a slot or of quads a running
task of lower effective priority is soft-pre-empted. -/
def execTaskResume (k : Nat) (slot : Nat) (s : State) : Out :=
  .next (let t := s.task k
    if s.mayResume k ∧ s.heldBack t.quay t.effPrio t.since t.kind.launch then s
    else if s.mayResume k ∧ s.noSlot k then s.preemptFor [t.quay] t.effPrio t.kind.launch t.kind.slotOk
    else if !s.mayTake k slot then s else
    match t.saved with
    | none => s
    | some a =>
      if t.needs = 0 then s.seat k slot 0 a
      else
        let lanes := popCount a.strip.live.toNat 32
        match s.quadsFor t.quay lanes t.needs with
        | some l => s.seat k slot (quadSet l) a
        | none =>
          if s.lanesGone t.part lanes then
            let g := t.quay * 16 + slot
            let s := (s.seat k slot 0 a).modAg g (fun x => x.modStrip (fun st => { st with live := a.strip.live }))
            s.takeFatal (s.boundary g) { cause := Cause.mchkUe, sub := 5, val := BitVec.ofNat 64 slot } fPrecise
          else s.preemptFor [t.quay] t.effPrio t.kind.launch (fun k => decide (k < 8)))

/-! ### Priorities and pre-emption (R93, R314) -/

/-- PRIORITY_AGING (R314): a ready task has waited another 4 ms. Numbers below 2^32 name tasks, from 2^32 on the waiting
instances of launches, from 2^40 on decoded records: queue times 2^32 plus sequence number. -/
def execPriorityAging (k : Nat) (s : State) : Out :=
  .next (if k < 2 ^ 32 then
      (if (s.task k).state = .ready then s.modTask k (fun t => { t with effPrio := min 3 (t.effPrio + 1) }) else s)
    else if k < 2 ^ 40 then
      let l := k - 2 ^ 32
      if (s.launch l).live ∧ (s.launch l).placed.length < (s.launch l).total then
        s.modLaunch l (fun x => { x with effPrio := min 3 (x.effPrio + 1) })
      else s
    else
      let q := (k - 2 ^ 40) / 2 ^ 32
      if (s.tq q).owned then
        s.modTq q (fun t => { t with ready := t.ready.map (fun d =>
          if d.seq = k % 2 ^ 32 ∧ d.preds = 0 then { d with aged := d.aged + 1 } else d) })
      else s)

/-- Whether something of a priority waits for a Quay, not of one launch. -/
def State.waitsFor (s : State) (q prio : Nat) (own : Option Nat) : Bool :=
  s.work.tasks.any (fun t => decide (t.2.state = .ready ∧ t.2.quay = q ∧ t.2.effPrio = prio)
    && !(own.isSome && decide (t.2.kind.launch = own)))
  || s.work.launches.any (fun l => l.2.live && decide (l.2.placed = [] ∧ 0 < l.2.total ∧ l.2.effPrio = prio)
    && (s.heldQuays l.2.part).contains q && decide (own ≠ some l.1))
  || s.fw.tqs.any (fun t => t.2.owned && t.2.resident && (s.heldQuays t.2.part).contains q
    && t.2.ready.any (fun d => decide (d.preds = 0 ∧ d.effPrio = prio)))

/-- TIME_SLICE (R314): a task that has run 2 ms is soft-pre-empted while one of equal effective priority waits for its Quay. -/
def execTimeSlice (k : Nat) (s : State) : Out :=
  .next (match (s.task k).state with
    | .running g =>
      if g % 16 ≤ 8 ∧ s.waitsFor (quayOf g) (s.task k).effPrio (s.task k).kind.launch then
        s.modAg g (fun a => a.modStrip (fun st => { st with ppend := true }))
      else s
    | _ => s)

/-- HARD_PREEMPTION_TIMEOUT (R93, R94): no point of R92 was reached in time, so the strip is aborted and the context saved. It
waits while NOABORT is set, while the agent is halted or stands within a PFX group (R29), and for the hart's copies (R240). -/
def execHardPreemptionTimeout (g : Nat) (s : State) : Out :=
  .next (let a := s.ag g
    let held : Bool := match a.status with
      | .absent | .halted | .fatal _ | .atomic _ | .proxy _ | .remote _ _ _ => true
      | .run | .ats _ | .pri _ _ | .replay _ | .unposted _ => false
    if !a.strip.ppend ∨ !a.inStrip ∨ a.strip.noabort ∨ held ∨ a.regs.pfx ≠ [] ∨ !s.copiesDone g then s
    else ((s.abortStrip g).modAg g (fun a => { a with marks := a.marks.clear })).saveAgent g .ready Cause.preemptHard)

/-! ### Quads (R71, R315) -/

/-- QUAD_GRANT (R315): a hart that waits in its lease step, first in the order, receives its QMIN; its VSETL completes with that. -/
def execQuadGrant (g : Nat) (s : State) : Out :=
  .next (let q := quayOf g
    let free := s.freeQuads q
    let c := s.ctxOf g
    if (s.leaseWaits q).contains g ∧ !s.leaseAhead g ∧ (s.ag g).task.qmin ≤ free.length then
      ((s.useFreeOf c).setQuads g (quadSet (chooseOf (s.freeOf c) (s.ag g).task.qmin free))).modAg g
        (fun a => a.modStrip (fun st => { st with lpend := false }))
    else s)

/-- LANE_RETIRE (R71): the lane leaves its hart's lanemap at that hart's next VSETL. -/
def execLaneRetire (q : Nat) (lane : Nat) (s : State) : Out :=
  .next (if 32 ≤ lane then s else
    let s := s.modQy q (fun y => { y with retired := y.retired ||| BitVec.ofNat 32 (2 ^ lane) })
    (List.range 8).foldl (fun s h =>
      let g := q * 16 + h
      if (s.ag g).strip.live.toNat.testBit lane then s.modAg g (fun a => a.modStrip (fun st => { st with lpend := true })) else s) s)

/-! ### Rows of copies (R226, R311) -/

/-- Ends a copy task; the exit code of one that has not failed the spec leaves open (log entry 42). -/
def State.endCopyTask (s : State) (q k : Nat) (fail : Option (Nat × Nat)) : State :=
  let c := (s.task k).ctx
  let code := Config.freeWord (s.freeOf c)
  (((s.useFreeOf c).modQy q (fun y => { y with tcopies := Assoc.erase k y.tcopies })).endTask k code fail)

/-- Changes the copy of a copy task. -/
def State.putCopy (s : State) (q k : Nat) (c : Copy) : State := s.modQy q (fun y => { y with tcopies := Assoc.set k c y.tcopies })

/-- What a failing row does to a copy task (R312). -/
def State.failTaskRow (s : State) (q k : Nat) (c : Copy) (e : RowFail) : State :=
  match e with
  | .ats va => s.putCopy q k { c with ats := some va }
  | .trap cause sub a =>
    if cause = Cause.xlateMiss ∨ cause = Cause.priPending then
      match s.postRow q 0 c cause sub a with
      | (s, none) => s
      | (s, some w) => s.putCopy q k { c with stall := some w.1, group := w.2 }
    else s.endCopyTask q k (some (cause, sub))

/-- A copy task moves one row (R311), once the reads that its watch forces need no host translation first (R256). -/
def State.taskRow (s : State) (q k row : Nat) : State :=
  match Assoc.find? k (s.qy q).tcopies with
  | none => s
  | some c =>
    if c.count ≤ row ∨ c.landed.contains row ∨ c.stall.isSome ∨ c.ats.isSome ∨ (s.qy q).freeze ∨ (s.qy q).salvage then s
    else match s.firstFail q c row with
    | some (_, e) => s.failTaskRow q k c e
    | none =>
      if s.mustFollow q c row then s else
      match s.rowCheck q c row with
      | .error _ => s
      | .ok x =>
        if s.rowHeld q x then s else
        let w := s.watchQuiet q (spread x.2) c.fail
        match w.2 with
        | some (.ats va) => s.putCopy q k { c with ats := some va }
        | some .held => s
        | none =>
          let s := w.1.landRow q 0 c row x.1 x.2
          if c.count ≤ c.landed.length + 1 then s.endCopyTask q k none
          else s.putCopy q k { c with landed := c.landed ++ [row] }

/-- BTE_ROW (R226): an ordinal of a berth lands; a berth number from 16 on names a copy task, with its row. -/
def execBteRow (q : Nat) (n : Nat) (k : Nat) (s : State) : Out :=
  .next (if n < 16 then s.bteStep q n k else s.taskRow q (n - 16) k)

/-! ### The memory of an agent -/

/-- STORE_PERFORMED (R83, R205, R238): a committed store is performed at its location scope, where the order of its queue allows. -/
def execStorePerformed (g : Nat) (i : Nat) (s : State) : Out :=
  .next (let q := (s.ag g).mem.queue
    match q[i]? with
    | none => s
    | some p =>
      if mayPerform q i then
        (s.modAg g (fun a => { a with mem := { a.mem with queue := q.eraseIdx i } })).performPiece g p (q.eraseIdx i)
      else s)

/-- LOAD_RETURNED (R238): the elements of a vector load or a remote load have returned. -/
def execLoadReturned (g : Nat) (s : State) : Out :=
  .next (s.modAg g (fun a => { a with mem := { a.mem with loadsOut := a.mem.loadsOut - 1 } }))

/-- WC_DRAIN_TIMEOUT (R178): the line of the write-combining buffer with the oldest first store drains. -/
def execWcDrainTimeout (g : Nat) (s : State) : Out :=
  .next (match (s.ag g).mem.wc.getLast? with
    | none => s
    | some l => s.drainLine g l)

/-- EPHEMERAL_HOLD_EXPIRY (R103): the hold of a slice of a physical register, written ephemeral, has run out. -/
def execEphemeralHoldExpiry (g : Nat) (r : Nat) (sl : Nat) (s : State) : Out :=
  .next (s.modAg g (fun a => a.modVec (fun f =>
    if f.eph.contains (32 * r + sl) ∧ ¬ f.expired.contains (r, sl) then { f with expired := (r, sl) :: f.expired } else f)))

/-- TIMER_PENDING (R339): TIMER is pending while `tmcmp` is not zero and `cycle` is at or above it, which `ipend` computes; the
moment at which that begins changes nothing else. -/
def execTimerPending (_g : Nat) (s : State) : Out := .next s

/-- INTR (R339): a pending, enabled interrupt is taken at a point where R92 or R344 allows it. -/
def execIntr (g : Nat) (s : State) : Out :=
  .next (if (s.ag g).running && (s.ag g).atBoundary && s.intDue g && !s.preDue g then s.takeDue g else s)

end Sys2Proof.Machine
end

