-- ==== Sys2Proof/Machine/Image.lean ====
section
/-! DEFINITION. Context images as bytes (R345-R348), Salvage and dumps (R341, R358). A context over several Quays has one image for each, and
the task section holds one block of 128 bytes for each agent record, in their order (log entries 48 and 88). -/

namespace Sys2Proof.Machine

/-! ### Agent records (R346) -/

/-- STATE of an agent record. -/
def Imaged.code (x : Imaged) : Nat :=
  if x.state = .halted ∨ x.agent.status = .halted then 4
  else match x.state with
  | .parked _ => 2
  | .ready | .running _ | .halted | .ended =>
    if x.agent.marks.inPlace then 3 else if x.agent.trap.inh then 5 else 1

/-- The numbers of the assigned control registers that an agent's kind reaches, ascending. -/
def csrNumbers (pilot : Bool) : List Nat :=
  (List.range 0x721).filter (fun n => csrAssigned n && !(if pilot then csrHartOnly n else csrPilotOnly n))

/-- The bytes of an element, or 0xE5 bytes where its register holds an uncorrectable error (R346). -/
def orLost (lost : Bool) (bs : List Byte) : List Byte := if lost then bs.map (fun _ => 0xE5) else bs

/-- The registers, s0 stored as 0; those in error are named. -/
def regBytes (s : Vector Word 32) (a : Vector Addr 16) (es : List (Fin 32)) (ea : List (Fin 16)) : List Byte :=
  (s.toList.zipIdx.flatMap (fun x => orLost (es.any (fun r => r.val = x.2)) (leBytes 8 (if x.2 = 0 then 0 else x.1.toNat))))
  ++ a.toList.zipIdx.flatMap (fun x => orLost (ea.any (fun r => r.val = x.2)) (staBytes x.1))

/-- The trace rings (R353) with their heads. -/
def Trace.bytes (t : Trace) : List Byte :=
  (List.range 64).flatMap (fun k => let r := Assoc.get {} k t.branch; leBytes 8 r.source.toNat ++ leBytes 8 r.target.toNat)
  ++ (List.range 64).flatMap (fun k => let r := Assoc.get {} k t.memory; leBytes 8 r.addr.toNat ++ leBytes 8 r.info.toNat)
  ++ leBytes 1 t.bhead ++ leBytes 1 t.mhead ++ leBytes 6 0

/-- The checkpoint part. -/
def Agent.ckptBytes (a : Agent) : List Byte :=
  let c := a.strip.ckpt
  regBytes c.s c.a a.errs.cs a.errs.ca ++ leBytes 8 (c.vl.toNat + c.pad.toNat * 2 ^ 32) ++ leBytes 8 (c.vtype.toNat + (if c.shut then 256 else 0))
  ++ leBytes 8 c.srbase.toNat ++ leBytes 8 c.srstep.toNat ++ leBytes 8 c.segm.toNat ++ leBytes 8 a.strip.spc.toNat
  ++ leBytes 8 c.bhead ++ leBytes 8 0

/-- The strip-buffer part: one entry for each granule held. -/
def Agent.bufferBytes (a : Agent) : List Byte :=
  let gs := granules a.strip.buf
  leBytes 8 gs.length ++ gs.flatMap (fun g =>
    let b (k : Nat) : Option BufByte := a.strip.buf.find? (fun x => decide (x.va = 8 * g + k))
    orLost (a.errs.sbuf.contains g) ((List.range 8).map (fun k => match b k with | some x => x.byte | none => 0))
    ++ leBytes 8 (8 * g % 2 ^ 64) ++ leBytes 1 (8 * g / 2 ^ 64)
    ++ leBytes 1 ((List.range 8).foldl (fun m k => if (b k).isSome then m + 2 ^ k else m) 0) ++ leBytes 6 0)

/-- The registers of a map, `v` bytes each, slice by slice. -/
def VecFile.bytes (f : VecFile) (es : RegErrors) (m : VMap) (v : Nat) : List Byte :=
  m.v.toList.flatMap (fun p => (List.range (v / 32)).flatMap (fun k =>
    orLost (es.v.contains (p.val, k)) (leBytes 32 (f.phys[p].toNat / 2 ^ (256 * k)))))
  ++ m.m.toList.flatMap (fun p => orLost (es.m.contains p.val) (leBytes v f.masks[p].toNat))

/-- The vector part for some lanes: the current map's registers, then the snapshot's when the restart point is a cut. -/
def Agent.vectorBytes (a : Agent) (lanes : BitVec 32) : List Byte :=
  let v := 32 * popCount lanes.toNat 32
  leBytes 4 v ++ leBytes 4 lanes.toNat ++ leBytes 1 (if a.strip.ckpt.map.isSome then 1 else 0) ++ leBytes 7 0
  ++ a.vec.bytes a.errs a.vec.map v ++ (match a.strip.ckpt.map with | some m => a.vec.bytes a.errs m v | none => [])

/-- The record of an agent, read as though it stood in its slot of a Quay. -/
def State.agentBytes (s : State) (q : Nat) (x : Imaged) : List Byte :=
  let g := q * 16 + x.slot
  let pilot := decide (x.slot = 8)
  let s' := s.setAg g x.agent
  let ns := csrNumbers pilot
  let a := x.agent
  let body := regBytes a.regs.s a.regs.a a.errs.s a.errs.a
    ++ leBytes 8 ns.length ++ ns.flatMap (fun n => leBytes 2 n ++ leBytes 6 0 ++ leBytes 8 (s'.csr g n).toNat)
    ++ a.trace.bytes ++ (if pilot then [] else a.ckptBytes ++ a.bufferBytes ++ a.vectorBytes x.lanes)
  leBytes 1 (if pilot then 0 else 1) ++ leBytes 1 x.code ++ leBytes 1 a.marks.reason ++ leBytes 1 0
  ++ leBytes 4 (16 + body.length) ++ leBytes 8 a.regs.pc.toNat ++ body

/-! ### The other sections (R347) -/

/-- The code, the immediate bits and the captured scalar of a node. -/
def Node.codes (n : Node) : Nat × Nat × Word :=
  match n.op with
  | .tld => (0, 0, BitVec.ofInt 64 n.stride)
  | .tzero => (1, 0, n.scalar)
  | .tmma => (2, 0, n.scalar)
  | .tqmma g => (3, (if g = 32 then 1 else if g = 64 then 2 else 0), n.scalar)
  | .tew o => (4, o, n.scalar)
  | .tact o => (5, o, n.scalar)
  | .tred o c => (6, o + (if c then 4 else 0), n.scalar)
  | .tview => (7, 0, n.scalar)
  | .tmmas => (8, 0, n.scalar)

/-- The code of a rounding mode (R130). -/
def modeCode : RMode → Nat
  | .rne => 0 | .rtz => 1 | .rup => 2 | .rdn => 3 | .rmm => 4 | .sr => 5

/-- The plain bytes of a version, row by row, padded to its segments. -/
def Version.bytes (v : Version) : List Byte :=
  let b := tileBits v.ty
  padTo (8192 * v.shape.segs) ((List.range v.rows).flatMap (fun r =>
    leBytes ((v.cols * b + 7) / 8) ((List.range v.cols).foldl (fun acc c => acc + v.get r c % 2 ^ b * 2 ^ (b * c)) 0)))

/-- The nodes by ascending number, each with its version: a node entry stands at its node's rank (R347). -/
def TileState.nodeList (t : TileState) : List (Nat × Node) :=
  (List.range 192).filterMap (fun k => t.nodes.find? (fun p => decide (p.2.num = k)))

/-- The tile section; versions are named by their place in it. -/
def TileState.bytes (t : TileState) : List Byte :=
  let vs := t.versions
  let ix (id : Nat) : Nat := vs.findIdx (fun p => decide (p.1 = id))
  let first (k : Nat) : Nat := ((vs.take k).map (fun p => p.2.shape.segs)).sum
  let reg (id : Nat) : Nat := ((List.range 8).find? (fun r => decide (t.cur.toList.getD r none = some id))).getD 0xFF
  leBytes 8 (if t.tpol then 1 else 0) ++ leBytes 8 t.tflags.toNat ++ t.tshp.toList.flatMap (fun w => leBytes 4 w.toNat)
  ++ leBytes 2 t.nodes.length ++ leBytes 2 vs.length ++ leBytes 2 t.watched.length ++ leBytes 10 0
  ++ leBytes 8 t.appended.toNat ++ leBytes 8 t.ovforce.toNat ++ leBytes 8 t.blocks.toNat ++ leBytes 8 t.wforce.toNat
  ++ vs.zipIdx.flatMap (fun p =>
      let v := p.1.2
      leBytes 1 p.2 ++ leBytes 1 v.ty ++ leBytes 1 v.rows ++ leBytes 1 v.cols
      ++ leBytes 1 (match v.node with | some n => n.num | none => 0xFF) ++ leBytes 1 (reg p.1.1)
      ++ leBytes 1 v.shape.segs ++ leBytes 1 0 ++ padTo 8 ((List.range v.shape.segs).flatMap (fun k => leBytes 1 (first p.2 + k))))
  ++ t.nodeList.flatMap (fun p =>
      let n := p.2
      let c := n.codes
      leBytes 1 c.1 ++ leBytes 1 c.2.1 ++ leBytes 1 (modeCode n.mode) ++ leBytes 1 0 ++ leBytes 4 n.order ++ leBytes 8 n.pc.toNat
      ++ (List.range 6).flatMap (fun k => leBytes 1 (match n.srcs[k]? with | some id => ix id | none => 0xFF)) ++ leBytes 2 0
      ++ leBytes 8 c.2.2.toNat ++ leBytes 8 (offOf n.addr).toNat ++ leBytes 1 (winOf n.addr) ++ leBytes 23 0
      ++ leBytes 128 (t.ver p.1).computed ++ leBytes 64 0)
  ++ t.watched.flatMap (fun p => leBytes 1 p.2.num ++ leBytes 7 0 ++ leBytes 8 ((offOf p.2.addr).toNat / 64))
  ++ padTo (192 * 8192) (vs.flatMap (fun p => p.2.bytes))

/-- The berth section: an owner is named by its slot. -/
def Quay.berthBytes (y : Quay) (slot : Nat → Nat) : List Byte :=
  y.berths.toList.flatMap (fun b =>
    let f := b.fault.getD ⟨0, 0, 0, 0⟩
    leBytes 1 (match b.owner with | some o => slot o | none => 0xFF) ++ leBytes 1 (if b.fault.isSome then 1 else 0)
    ++ leBytes 1 f.cause ++ leBytes 1 f.sub ++ leBytes 4 b.expect ++ leBytes 4 b.avail ++ leBytes 4 f.ordinal
    ++ leBytes 8 (offOf f.addr).toNat ++ leBytes 1 (winOf f.addr) ++ leBytes 7 0 ++ leBytes 8 b.bcfg.toNat ++ leBytes 8 b.bstr.toNat
    ++ leBytes 16 0)

/-- The walker section. -/
def Walkers.bytes (w : Walkers) : List Byte :=
  leBytes 8 w.gtrap.toNat
  ++ leBytes 8 ((List.range 16).foldl (fun m k => if (w.slots.toList.getD k none).isSome then m + 2 ^ k else m) 0)
  ++ w.gspill.toList.flatMap (fun x => leBytes 8 x.toNat)
  ++ w.slots.toList.flatMap (fun x => match x with | some k => k.record 0 | none => List.replicate 6464 0)

/-- The Wharf section. It has no place for an uncorrectable word, which is saved as the bytes that stand there (DESIGN CHOICE, log entry
103). -/
def State.wharfBytes (s : State) (q : Nat) : List Byte :=
  let y := s.qy q
  y.whash.toList.flatMap (fun x => leBytes 8 x.toNat) ++ leBytes 8 y.wbconf.toNat ++ leBytes 8 y.wecc.toNat ++ leBytes 24 0
  ++ (List.range 8192).map (fun k => BitVec.ofNat 8 ((List.range 8).foldl (fun m j => if y.poison.contains (8 * k + j) then m + 2 ^ j else m) 0))
  ++ s.bytes ⟨.wharf q, 0⟩ (2 ^ 22)

/-- The task block of an agent. -/
def State.taskBytes (s : State) (x : Imaged) : List Byte :=
  let r := x.agent.task
  leBytes 8 r.taskid.toNat ++ leBytes 8 (r.prio + r.effPrio * 4) ++ leBytes 8 (r.qmin + r.qpref * 16) ++ leBytes 8 r.parkcnt.toNat
  ++ leBytes 8 r.bartime.toNat ++ staBytes (s.task x.key).fut ++ r.phases.toList.flatMap (leBytes 4) ++ leBytes 40 0

/-! ### The image (R345, R348) -/

/-- Bytes padded to a multiple of 64. -/
def pad64 (bs : List Byte) : List Byte := padTo ((bs.length + 63) / 64 * 64) bs

/-- The features of this part. -/
def featPresent : Nat := 0x3F

/-- The features that an image's Quay has live (R348). -/
def State.featLive (s : State) (q : Nat) (xs : List Imaged) : Nat :=
  let y := s.qy q
  let bit (b : Bool) (k : Nat) : Nat := if b then 2 ^ k else 0
  bit (xs.any (fun x => decide (x.slot < 8))) 0 + bit (y.tile.versions ≠ []) 1
  + bit (y.tile.nodes.any (fun p => decide (p.2.op = .tmmas))) 2 + bit (y.walk.slots.toList.any (·.isSome)) 3
  + bit (y.berths.toList.any (fun b => b.owner.isSome)) 4 + bit true 5

/-- A context image of a Quay. -/
def State.image (s : State) (p q flags : Nat) (xs : List Imaged) : List Byte :=
  let slot (o : Nat) : Nat := match xs.find? (fun x => decide (o = taskToken x.key ∨ o = q * 16 + x.slot)) with
    | some x => x.slot
    | none => 0xFE
  let agent (k : Nat) : List Byte := match xs.find? (fun x => decide (x.slot = k)) with | some x => s.agentBytes q x | none => []
  let secs : List (List Byte) :=
    [agent 8] ++ (List.range 8).map agent
    ++ [(s.tile q).bytes, (s.qy q).berthBytes slot, (s.qy q).walk.bytes, s.wharfBytes q,
        ((8 :: List.range 8).filterMap (fun k => xs.find? (fun x => decide (x.slot = k)))).flatMap s.taskBytes]
  let offs := secs.foldl (fun (acc : List (Nat × Nat) × Nat) b =>
    (acc.1 ++ [if b = [] then (0, 0) else (acc.2, b.length)], acc.2 + (pad64 b).length)) ([], 320)
  leBytes 4 0x31585443 ++ leBytes 2 1 ++ leBytes 2 flags ++ leBytes 2 Config.stepping ++ leBytes 2 q ++ leBytes 2 p ++ leBytes 2 0
  ++ leBytes 8 featPresent ++ leBytes 8 (s.featLive q xs) ++ leBytes 8 offs.2 ++ leBytes 24 0
  ++ padTo 256 (offs.1.flatMap (fun x => leBytes 8 x.1 ++ leBytes 8 x.2)) ++ secs.flatMap pad64

/-- The agents that an image of a context's Quay holds, in slot order. -/
def State.imaged (s : State) (c q : Nat) : List Imaged := s.standing c q ++ s.savedOn c q

/-- FLAGS of an image (R345): DOOMED, and HALTED when it holds a halted agent. -/
def State.imageFlags (s : State) (c : Nat) (xs : List Imaged) : Nat :=
  (if (s.ctx c).doomed.isSome then 1 else 0) + (if xs.any (fun x => decide (x.code = 4)) then 4 else 0)

/-! ### Restoring (R348) -/

/-- Puts the value of a control register back into an agent: the bits that the register has (R10); spc is the address of a word (R19,
log entry 78). -/
def Agent.putCsr (a : Agent) (n v : Nat) : Agent :=
  let w : Word := BitVec.ofNat 64 v &&& BitVec.ofNat 64 (csrMask n)
  let tr (f : TrapRegs → TrapRegs) : Agent := a.modTrap f
  let st (f : Strip → Strip) : Agent := a.modStrip f
  let fp (f : FpRegs → FpRegs) : Agent := { a with fp := f a.fp }
  let tk (f : TaskRegs → TaskRegs) : Agent := { a with task := f a.task }
  if n = 0x011 then { a with regs := { a.regs with instret := w } }
  else if n = 0x020 then tr (fun t => { t with tvec := w })
  else if n = 0x021 then tr (fun t => { t with tepc := w })
  else if n = 0x022 then tr (fun t => { t with tcause := w })
  else if n = 0x023 then tr (fun t => { t with tval := w })
  else if n = 0x024 then tr (fun t => { t with trec := w })
  else if n = 0x025 then st (fun t => { t with spc := BitVec.ofNat 64 (v / 4 * 4) })
  else if n = 0x026 then tr (fun t => { t with ien := w.setWidth 2 })
  else if n = 0x027 then tr (fun t => { t with irq := w.getLsbD 1 })
  else if n = 0x028 then tr (fun t => { t with tmcmp := w })
  else if n = 0x100 then st (fun t => { t with vl := w.setWidth 32, pad := BitVec.ofNat 7 (v / 2 ^ 32) })
  else if n = 0x101 then st (fun t => { t with vtype := w.setWidth 8, shut := w.getLsbD 8 })
  else if n = 0x102 then st (fun t => { t with cap := w.setWidth 32 })
  else if n = 0x104 then st (fun t => { t with vlcap := w.setWidth 32 })
  else if n = 0x106 then st (fun t => { t with segm := w.setWidth 5 })
  else if n = 0x107 then st (fun t => { t with ephm := w.setWidth 48 })
  else if n = 0x108 then st (fun t => { t with
    isOpen := w.getLsbD 0, susp := w.getLsbD 1, lpend := w.getLsbD 2, noabort := w.getLsbD 4 })
  else if n = 0x109 then st (fun t => { t with cutcnt := w })
  else if n = 0x10A then st (fun t => { t with abortcnt := w })
  else if n = 0x200 then fp (fun f => { f with frm := w.setWidth 3 })
  else if n = 0x201 then fp (fun f => { f with fflags := w.setWidth 5 })
  else if n = 0x202 then fp (fun f => { f with srseed := w })
  else if n = 0x203 then fp (fun f => { f with srbase := w })
  else if n = 0x204 then fp (fun f => { f with srstep := w })
  else if n = 0x205 then fp (fun f => { f with qparm := w })
  else if n = 0x600 then tk (fun t => { t with qmin := v % 16, qpref := v / 16 % 16 })
  else if n = 0x601 then tk (fun t => { t with taskid := w })
  else if n = 0x602 then tk (fun t => { t with prio := v % 4, effPrio := v / 4 % 4 })
  else if n = 0x603 then tk (fun t => { t with bartime := w })
  else if n = 0x604 then tk (fun t => { t with parkcnt := w })
  else if 0x700 ≤ n ∧ n ≤ 0x703 then tr (fun t => { t with wpa := setIx t.wpa (n - 0x700) w })
  else if 0x704 ≤ n ∧ n ≤ 0x707 then tr (fun t => { t with wpm := setIx t.wpm (n - 0x704) w })
  else if n = 0x708 then tr (fun t => { t with inh := w.getLsbD 0, wsup := w.getLsbD 1 })
  else if n = 0x709 then tr (fun t => { t with wsupc := w })
  else a

/-- The rings of a record at an offset. -/
def traceAt (x o : Nat) : Trace :=
  let w (k : Nat) : Word := BitVec.ofNat 64 (byteField x (o + k) 8)
  { branch := (List.range 64).map (fun k => (k, ⟨w (16 * k), w (16 * k + 8)⟩))
    memory := (List.range 64).map (fun k => (k, ⟨w (1024 + 16 * k), w (1024 + 16 * k + 8)⟩))
    bhead := byteField x (o + 2048) 1 % 64, mhead := byteField x (o + 2049) 1 % 64 }

/-- Scalar and address registers at an offset. -/
def scalarsAt (x o : Nat) : Vector Word 32 := Vector.ofFn (fun i => BitVec.ofNat 64 (byteField x (o + 8 * i.val) 8))
/-- Address registers at an offset. -/
def addrsAt (x o : Nat) : Vector Addr 16 := Vector.ofFn (fun i => (slotAddr x (o + 16 * i.val)).1)

/-- The entries of a strip-buffer part: address, data, byte mask. -/
def bufferAt (x o : Nat) : List (Addr × Nat × Nat) :=
  (List.range (byteField x o 8)).map (fun k =>
    let e := o + 8 + 24 * k
    (mkAddr (byteField x (e + 16) 1) (byteField x (e + 8) 8), byteField x e 8, byteField x (e + 17) 1))

/-- The buffered bytes, translated again; none when one of them cannot be. -/
def State.rebuffer (s : State) (by_ : Actor) (es : List (Addr × Nat × Nat)) : Option (List BufByte) :=
  es.foldl (fun acc e =>
    match acc, s.xlate by_ e.1 Acc.store with
    | some l, .ok h => some (l ++ ((List.range 8).filter (fun k => e.2.2.testBit k)).map (fun k =>
        ⟨e.1.toNat + k, h.place.plus k, BitVec.ofNat 8 (e.2.1 / 2 ^ (8 * k)), none, false, false⟩))
    | _, _ => none) (some [])

/-- A second set of physical registers, for a snapshot. -/
def snapMap : VMap :=
  { v := Vector.ofFn (fun i => ⟨48 + i.val, by omega⟩), m := Vector.ofFn (fun i => ⟨12 + i.val, by omega⟩) }

/-- The slices of the registers of a map that are written ephemeral, `v` bytes to a register: a restore rewrites each ephemeral register,
whose hold starts again (R104, log entry 89). -/
def ephSlices (ephm : BitVec 48) (m : VMap) (v : Nat) : List Nat :=
  ((List.range 48).filter (fun k => ephm.toNat.testBit k)).flatMap (fun k =>
    (List.range (v / 32)).map (fun sl => 32 * (match m.v[k]? with | some p => p.val | none => 0) + sl))

/-- An agent as its record of an image gives it. A buffer that can no longer be translated aborts its strip (R84). The record has no
place for what a stopped, faulted or poisoned landing left on a vector register, so a restore leaves none of it (DESIGN CHOICE, log
entry 103). -/
def State.unimage (s : State) (by_ : Actor) (p c x : Nat) : Agent :=
  let n := byteField x 528 8
  let o := 536 + 16 * n
  let hart := byteField x 0 1 = 1
  let a0 : Agent :=
    { status := .run
      regs := { s := scalarsAt x 16, a := addrsAt x 272, pc := BitVec.ofNat 64 (byteField x 8 8 / 4 * 4) }
      trace := traceAt x o, part := p, ctx := c, marks := { reason := byteField x 2 1 } }
  let a1 := (List.range n).foldl (fun a k => a.putCsr (byteField x (536 + 16 * k) 2) (byteField x (536 + 16 * k + 8) 8)) a0
  if !hart then a1 else
  let k := o + 2056
  let b := k + 576
  let g := byteField x b 8
  let v := b + 8 + 24 * g
  let vb := byteField x v 4
  let cut := byteField x (v + 8) 1 = 1
  let w (o : Nat) : Word := BitVec.ofNat 64 (byteField x (k + 512 + o) 8)
  let reg (set j : Nat) : VReg := BitVec.ofNat 8192 (byteField x (v + 16 + set * 60 * vb + j * vb) vb)
  let ck : Checkpoint :=
    { s := scalarsAt x k, a := addrsAt x (k + 256), vl := (w 0).setWidth 32, pad := BitVec.ofNat 7 ((w 0).toNat / 2 ^ 32)
      vtype := (w 8).setWidth 8, shut := (w 8).getLsbD 8, srbase := w 16, srstep := w 24, segm := (w 32).setWidth 5, spc := BitVec.ofNat 64 (byteField x (k + 552) 8 / 4 * 4)
      bhead := (w 48).toNat % 64, map := if cut then some snapMap else none }
  let a2 : Agent := { a1 with
    strip := { a1.strip with live := BitVec.ofNat 32 (byteField x (v + 4) 4), ckpt := ck }
    vec := { phys := Vector.ofFn (fun i => if i.val < 48 then reg 0 i.val else if cut then reg 1 (i.val - 48) else 0)
             masks := Vector.ofFn (fun i => if i.val < 12 then reg 0 (48 + i.val) else if cut then reg 1 (36 + i.val) else 0)
             eph := ephSlices a1.strip.ephm {} vb ++ (if cut then ephSlices a1.strip.ephm snapMap vb else []) } }
  match s.rebuffer by_ (bufferAt x b) with
  | some l => a2.modStrip (fun st => { st with buf := l })
  | none => { a2.restart with strip := { a2.restart.strip with abortcnt := a2.strip.abortcnt + 1, noabort := true } }

/-- The operation of a node by its codes. -/
def opOf (c imm : Nat) : TileOp :=
  match c with
  | 0 => .tld | 1 => .tzero | 2 => .tmma
  | 3 => .tqmma (if imm = 1 then 32 else if imm = 2 then 64 else 128)
  | 4 => .tew imm | 5 => .tact imm | 6 => .tred (imm % 4) (decide (4 ≤ imm)) | 7 => .tview
  | _ => .tmmas

/-- The tile state that a tile section gives. Of a node's version only the elements of its computed units are taken: a TLD reads the
others from memory after the restore (R214, R268). A TFORCE.A that was pending at the save is not in the section, nor are the elements
that a watch force had read in a unit it did not complete (DESIGN CHOICE, log entry 106). -/
def tileAt (x : Nat) : TileState :=
  let nn := byteField x 48 2
  let nv := byteField x 50 2
  let nw := byteField x 52 2
  let w (o : Nat) : Word := BitVec.ofNat 64 (byteField x o 8)
  let vo (k : Nat) : Nat := 96 + 16 * k
  let no (k : Nat) : Nat := 96 + 16 * nv + 256 * k
  let so := 96 + 16 * nv + 256 * nn + 16 * nw
  let node (num : Nat) : Option (Node × Nat) :=
    if num = 0xFF ∨ nn = 0 then none else
    let k := ((List.range nv).filter (fun j => decide (byteField x (vo j + 4) 1 < num))).length
    let o := no k
    let op := opOf (byteField x o 1) (byteField x (o + 1) 1)
    some ({ num := num, order := byteField x (o + 4) 4, op := op, pc := w (o + 8), mode := RMode.ofCode (byteField x (o + 2) 1)
            srcs := ((List.range 6).map (fun j => byteField x (o + 16 + j) 1)).filter (· ≠ 0xFF)
            scalar := if op = .tld then 0 else w (o + 24), addr := mkAddr (byteField x (o + 40) 1) (byteField x (o + 32) 8)
            stride := if op = .tld then (w (o + 24)).toInt else 0 }, byteField x (o + 64) 128)
  { tpol := byteField x 0 1 % 2 = 1, tflags := BitVec.ofNat 5 (byteField x 8 8)
    tshp := Vector.ofFn (fun i => BitVec.ofNat 24 (byteField x (16 + 4 * i.val) 4))
    cur := Vector.ofFn (fun i => (List.range nv).find? (fun k => decide (byteField x (vo k + 5) 1 = i.val)))
    versions := (List.range nv).map (fun k =>
      let ty := byteField x (vo k + 1) 1
      let rows := byteField x (vo k + 2) 1
      let cols := byteField x (vo k + 3) 1
      let d := so + 8192 * byteField x (vo k + 8) 1
      let b := tileBits ty
      let rb := (cols * b + 7) / 8
      let nd := node (byteField x (vo k + 4) 1)
      (k, ⟨ty, rows, cols, nd.map (·.1), (match nd with | some p => p.2 | none => 0),
        (List.range rows).map (fun r => (r, ((List.range cols).filter (fun c => match nd with
          | some p => p.2.testBit (8 * r + c / 16)
          | none => true)).map (fun c => (c, byteField x (d + r * rb) rb / 2 ^ (b * c) % 2 ^ b))))⟩))
    nextId := (List.range nn).foldl (fun m k => max m (byteField x (no k + 4) 4 + 1)) nv, appended := w 64, ovforce := w 72, blocks := w 80, wforce := w 88 }

/-- The walkers that a walker section gives; the header of each image is read when it is first needed (log entry 87). -/
def walkersAt (x : Nat) : Walkers :=
  { gtrap := BitVec.ofNat 16 (byteField x 0 8)
    gspill := Vector.ofFn (fun i => BitVec.ofNat 64 (byteField x (16 + 8 * i.val) 8))
    slots := Vector.ofFn (fun i =>
      let r := byteField x (144 + 6464 * i.val) 6464
      let f (o n : Nat) : Nat := byteField r o n
      if f 0 4 ≠ 0x53524C47 then none
      else some {
        image := mkAddr (f 16 1) (f 8 8), hdr := ⟨0, 0, 0, 0, 0, 0, 0, 0, 0, 0, 0, 0, 0⟩
        spill := byteField x (16 + 8 * i.val) 8 / 2 ^ 13 * 2 ^ 13, st := f 24 4
        stack := ((List.range (f 28 2)).map (fun k => f (64 + 2 * k) 2)).reverse
        log := (List.range (f 32 2)).map (fun k => f (2368 + 2 * k) 2), ckpts := recordCkpts r, tokens := f 36 4
        err := f 6 2 % 4, done := decide (4 ≤ f 6 2) }) }

/-- A Quay with the sections of an image: `own` names the agents of the slots. -/
def State.putSections (s : State) (q tile berths walk wharf : Nat) (own : Nat → Option Nat) : State :=
  let u (o n : Nat) : Nat := byteField berths o n
  let data := byteField wharf (64 + 8192) (2 ^ 22)
  s.modQy q (fun y => { y with
    tile := tileAt tile
    walk := walkersAt walk
    berths := Vector.ofFn (fun i =>
      let o := 64 * i.val
      { owner := own (u o 1)
        expect := u (o + 4) 4, avail := u (o + 8) 4
        fault := if u (o + 1) 1 = 1 then some ⟨u (o + 2) 1, u (o + 3) 1, mkAddr (u (o + 24) 1) (u (o + 16) 8), u (o + 12) 4⟩ else none
        bcfg := BitVec.ofNat 64 (u (o + 32) 8), bstr := BitVec.ofNat 64 (u (o + 40) 8) })
    whash := Vector.ofFn (fun i => BitVec.ofNat 64 (byteField wharf (8 * i.val) 8))
    wbconf := BitVec.ofNat 64 (byteField wharf 24 8), wecc := BitVec.ofNat 64 (byteField wharf 32 8)
    epoch := none
    poison := (List.range 65536).filter (fun k => (byteField wharf (64 + k / 8) 1).testBit (k % 8))
    wharf := (List.range (2 ^ 22)).filterMap (fun k =>
      let b : Byte := BitVec.ofNat 8 (byteField data k 1)
      if b = 0 then none else some (k, b)) })

/-! ### Salvage (R341, R358) -/

/-- The first free slot of a partition's dump area. -/
def Part.freeDump (p : Part) : Option Nat := (List.range p.dumps.length).find? (fun k => (p.dumps.getD k none).isNone)

/-- The synchronisation block of a dump: the barrier groups, with the phase in progress and its arrivals, those of participants that have
ended and of other modules among them (R325, R328), and the wait entries of a context's tasks. -/
def State.syncBytes (s : State) (c : Nat) : List Byte :=
  let mine (k : Nat) : Bool := decide ((s.task k).ctx = c) && (Assoc.find? k s.work.tasks).isSome
  let gs := s.work.groups.filter (fun g => g.arrivals.any (fun a => mine a.1))
  let table : List ((Nat × Nat) × Nat) := s.dies.flatMap (fun (d : Nat × Die) => d.2.waits.map (fun w => (w, 0)))
  let moored : List ((Nat × Nat) × Nat) := s.fw.parts.flatMap (fun (p : Nat × Part) => p.2.moored.map (fun w => (w, 1)))
  let ws := (table ++ moored).filter (fun w => mine w.1.2)
  pad64 (leBytes 8 gs.length ++ leBytes 8 ws.length
    ++ gs.flatMap (fun g => leBytes 1 g.level ++ leBytes 3 0 ++ leBytes 4 g.phase
        ++ leBytes 4 ((g.arrivals.filter (fun a => decide (g.phase < a.2) || g.gone.contains a.1)).length + g.away + g.lost)
        ++ leBytes 4 (g.arrivals.length + g.remote))
    ++ ws.flatMap (fun w => staBytes (s.task w.1.2).fut
        ++ leBytes 8 (match (s.task w.1.2).saved with | some a => a.task.taskid.toNat | none => 0) ++ leBytes 8 w.2))

/-- A dump: its header and ciphertext. -/
def State.dumpBytes (s : State) (p q c : Nat) (r : TrapRecord) (seq : Nat) : List Byte :=
  let xs := s.imaged c q
  let plain := padTo 128 r.bytes ++ s.syncBytes c ++ s.image p q (2 + s.imageFlags c xs) xs
  let nonce := leBytes 8 seq ++ leBytes 2 p ++ leBytes 2 q
  let head := leBytes 4 0x31504D44 ++ leBytes 2 1 ++ leBytes 2 0 ++ leBytes 8 seq ++ leBytes 2 p ++ leBytes 2 q ++ leBytes 4 0
    ++ leBytes 8 plain.length
  let sealed := Config.aead (leBytes 8 (s.part p).dumpKey) nonce head plain
  let tag := padTo 16 (sealed.drop plain.length)
  let cipher := sealed.take plain.length
  let top := head ++ nonce ++ leBytes 4 0 ++ tag.take 16
  let sig := (Config.sigMake 0 (Config.shake256 (top ++ cipher ++ tag.take 16) 64)).take 1536
  padTo 2048 (padTo 128 (top ++ leBytes 2 sig.length) ++ sig) ++ cipher

/-- Settles the expired slices of the agents that stand in a Quay's slots: a dump stores each as it reads (R104, R346). -/
def State.settleQuay (s : State) (q : Nat) : State :=
  (List.range 8).foldl (fun s k => s.settleSlices (16 * q + k) (s.ag (16 * q + k)).vec.expired) s

/-- The free dump slot that a dump of an agent's context fits in. -/
def State.dumpSlot (s : State) (g : Nat) (r : TrapRecord) : Option Nat :=
  let x := s.part (s.ag g).part
  x.freeDump.bind (fun k =>
    if x.dumpSize < (s.dumpBytes (s.ag g).part (quayOf g) (s.ag g).ctx r x.dumpSeq).length then none else some k)

/-- Posts the fatal record of an agent, or leaves it to wait for room (R341 step 3); with no slot for the dump it carries DUMPLOST. The
Quay's other agents and its engines stand still until the dump is written (R341 step 2). -/
def State.salvagePost (s : State) (g : Nat) (r : TrapRecord) : State :=
  let s := s.settleQuay (quayOf g)
  let r := if (s.dumpSlot g r).isNone then { r with flags := r.flags ||| fDumplost } else r
  ((s.postFatal (s.ag g).part r).modQy (quayOf g) (fun y => { y with salvage := true })).modAg g (fun a => { a with
    status := .fatal r, marks := { a.marks with phase := 1 } })

/-- The record of an agent as it was posted, the last of its kind, or as Salvage holds it for want of a free slot (R343). -/
def Part.postedAs (p : Part) (r : TrapRecord) : TrapRecord :=
  if p.held.contains r then r
  else ((p.ring.reverse.find? (fun x => decide ({ x.record with seq := r.seq } = r))).map (fun x => x.record)).getD r

/-- Writes the dump with the record as posted (R341 step 4), unless no slot had room for it; the Quay goes on (step 6). -/
def State.salvageDump (s : State) (g : Nat) (r : TrapRecord) : State :=
  let p := (s.ag g).part
  let x := s.part p
  let rec_ := x.postedAs r
  let s := match (if r.flags.testBit 8 then none else s.dumpSlot g rec_) with
    | none => s
    | some k =>
      let bs := s.dumpBytes p (quayOf g) (s.ag g).ctx rec_ x.dumpSeq
      (s.setBytes (bs.zipIdx.map (fun (b : Byte × Nat) => (⟨.fabric, x.dumpBase + k * x.dumpSize + b.2⟩, b.1)))).modPart p (fun x =>
        { x with dumps := x.dumps.set k (some ⟨x.dumpSeq, false⟩), dumpSeq := x.dumpSeq + 1 })
  (s.modQy (quayOf g) (fun y => { y with salvage := false })).modAg g (fun a => { a with marks := { a.marks with phase := 2 } })

/-- Ends a faulting task: what it has not performed is discarded, its berths, quads and tile state are reclaimed, and it counts as
arrived at every barrier phase (R341 step 5). -/
def State.salvageEnd (s : State) (g : Nat) (r : TrapRecord) : State :=
  let k := (s.ag g).tkey
  let q := quayOf g
  let s := (s.freeBerths q g).leaveLease g
  let s := if isPilot g then s.setTile q (s.tile q).discard
    else s.modQy q (fun y => { y with tile := { y.tile with feeds := y.tile.feeds.filter (fun f => f.agent ≠ g) } })
  (s.setAg g (s.ag g).residue).endTask k 0 (some (r.cause, r.sub))

/-- The record of a fatal agent. -/
def State.fatalRecord (s : State) (g : Nat) : Option TrapRecord :=
  match (s.ag g).status with
  | .fatal r => some r
  | _ => none

/-- SALVAGE (R341): a fatal record is posted or held, then the dump is written, then the task ends failed, which waits for the berths'
copies, as EXIT does. -/
def execSalvage (g : Nat) (s : State) : Out :=
  .next (match s.fatalRecord g with
    | none => s
    | some r =>
      let s := if (s.ag g).marks.phase = 0 then s.salvagePost g r else s
      let r := (s.fatalRecord g).getD r
      let s := if (s.ag g).marks.phase = 1 then s.salvageDump g r else s
      if (s.ag g).marks.phase = 2 ∧ s.copiesDone g then s.salvageEnd g r else s)

end Sys2Proof.Machine
end

