-- ==== Sys2Proof/Machine/Fw.lean ====
section
/-! DEFINITION. The host command set (R369-R376): the command ring, the journal, and every command of R371. -/

namespace Sys2Proof.Machine

/-! ### Commands and outcomes (R369) -/

/-- OK. -/
abbrev oOk : Nat := 0
/-- BADARG. -/
abbrev oBadArg : Nat := 1
/-- DENIED. -/
abbrev oDenied : Nat := 2
/-- BUSY. -/
abbrev oBusy : Nat := 3
/-- NOSPACE. -/
abbrev oNoSpace : Nat := 4
/-- NOTFOUND. -/
abbrev oNotFound : Nat := 5
/-- CTX_FEATURE. -/
abbrev oFeature : Nat := 6
/-- STEPPING. -/
abbrev oStepping : Nat := 7
/-- REPLAYED. -/
abbrev oReplayed : Nat := 8
/-- PENDING. -/
abbrev oPending : Nat := 0xFF

/-- What a command comes to: an outcome and a result with a state, or it goes on running. -/
inductive CmdEnd where
  | done (outcome result : Nat) (s : State)
  | runs (s : State)

/-- A physical function. -/
def isPf (f : Nat) : Bool := decide (f = 0 ∨ f = 385)

/-- Whether a function may act for a partition: one of its own, or a physical function. -/
def State.own (s : State) (f p : Nat) : Bool := isPf f || decide ((s.func f).part = some p)

/-- A field of a command's arguments, which are its bytes 8-55. -/
def argField (x o n : Nat) : Nat := byteField x (8 + o) n

/-- Whether every argument byte outside some ranges is zero (R372). -/
def argsClear (x : Nat) (used : List (Nat × Nat)) : Bool :=
  (List.range 48).all (fun k => used.any (fun r => decide (r.1 ≤ k ∧ k < r.1 + r.2)) || decide (argField x k 1 = 0))

/-! ### The ring and the journal (R370, R373) -/

/-- The bus address of the record at CRHEAD. -/
def Func.headAt (d : Func) : Nat := d.crbase + 64 * (d.crhead % 2 ^ d.crsize)

/-- The record of the command that runs, as it was accepted, else the next one of an enabled ring, if there is one (R370). -/
def State.command (s : State) (f : Nat) : Option Nat :=
  let d := s.func f
  match d.running with
  | some r => some (leNat r.bytes)
  | none => if d.cren ∧ d.crhead ≠ d.crtail ∧ !d.crerr then some (leNat (s.hostBytes d.headAt 64)) else none

/-- A journal. -/
def State.journal (s : State) (k : Nat) : List JournalRec := Assoc.get [] k s.fw.journals

/-- Changes a journal. -/
def State.modJournal (s : State) (k : Nat) (f : List JournalRec → List JournalRec) : State :=
  { s with fw := { s.fw with journals := Assoc.set k (f (s.journal k)) s.fw.journals } }

/-- How many records a journal keeps. -/
def journalSize : Nat := 16384

/-- The 64 bytes of a journal record. -/
def JournalRec.bytes (r : JournalRec) : List Byte :=
  leBytes 8 r.seq ++ leBytes 8 r.time ++ leBytes 2 r.func ++ leBytes 2 r.opcode ++ leBytes 4 r.cmdSeq ++ padTo 16 (r.digest.take 16)
  ++ leBytes 4 r.outcome ++ leBytes 4 r.result ++ leBytes 16 0

/-- The digest of a command (R373). -/
def State.digest (s : State) (x : Nat) : List Byte :=
  let block := if byteField x 4 2 = 1 then s.hostBytes (argField x 0 8) 256 else []
  (Config.shake256 (leBytes 48 (argField x 0 48) ++ block) 16).take 16

/-- Accepts the record at CRHEAD: its journal record is written with outcome PENDING, and CRHEAD names the next. -/
def State.accept (s : State) (f x : Nat) : State :=
  let k := s.journalKey f
  let n := (s.journal k).length
  let r : JournalRec := ⟨n, s.time, f, byteField x 4 2, byteField x 0 4, s.digest x, oPending, 0⟩
  (s.modJournal k (fun l => l ++ [r])).modFunc f (fun d =>
    { d with running := some ⟨leBytes 64 x, d.headAt, n, []⟩, crhead := (d.crhead + 1) % 2 ^ 32 })

/-- Completes the command that runs: the journal that accepted it first, unless it is gone with its partition, then the outcome by a
system-scope release, then the interrupt. -/
def State.complete (s : State) (f key outcome result : Nat) : State :=
  match (s.func f).running with
  | none => s
  | some c =>
    let s := if (Assoc.find? key s.fw.journals).isNone then s else
      s.modJournal key (fun l => l.modify c.journal (fun r => { r with outcome := outcome, result := result }))
    let s := s.releaseAll.hostWrite (c.addr + 56) (leBytes 4 outcome ++ leBytes 4 result)
    (s.modFunc f (fun d => { d with running := none })).raise (f, 0)

/-- The journal record, older than the command's own, that shows a command to be a repetition. -/
def State.replayed (s : State) (f x : Nat) : Option JournalRec :=
  let l := s.journal (s.journalKey f)
  (l.drop (l.length - journalSize)).find? (fun r =>
    decide (r.func = f ∧ r.cmdSeq = byteField x 0 4 ∧ r.opcode = byteField x 4 2 ∧ r.digest = s.digest x))

/-- Executes the command of a function when it has an opcode: its record accepted, then run until it completes. A record of no
opcode completes with BADARG, whichever command is looked for. -/
def State.runCmd (s : State) (f op : Nat) (body : State → Nat → CmdEnd) : State :=
  match s.command f with
  | none => s
  | some x =>
    let code := byteField x 4 2
    let known := decide (1 ≤ code ∧ code ≤ 0x10)
    if known && decide (code ≠ op) then s
    else
      let fresh := (s.func f).running.isNone
      let old := if fresh then s.replayed f x else none
      let s := if fresh then s.accept f x else s
      let key := s.journalKey f
      match old with
      | some r => s.complete f key oReplayed r.result
      | none =>
        if !known ∨ byteField x 6 2 ≠ 0 then s.complete f key oBadArg 0
        else match body s x with
        | .done o r s' => s'.complete f key o r
        | .runs s' => s'

/-- A command that completes at once. -/
def quick (c : Nat × Nat × State) : CmdEnd := .done c.1 c.2.1 c.2.2

/-! ### Partitions (R371, R376, R377) -/

/-- The first partition number that is free. -/
def State.freePart (s : State) : Option Nat := (List.range 48).find? (fun p => !(s.part p).exists_)

/-- Whether a key handle names a provisioned key. -/
def State.hasKey (s : State) (k : Nat) : Bool := s.fw.keys.contains k

/-- Legality of a PART_CREATE block (R372). -/
def State.blockLegal (s : State) (x : Nat) : Bool :=
  let u (o n : Nat) : Nat := byteField x o n
  decide (u 0 8 ≠ 0 ∧ u 0 8 < 2 ^ 48 ∧ u 8 8 % 2 ^ 17 = 0 ∧ u 60 4 < 2 ∧ u 64 8 % 2 ^ 36 = 0 ∧ u 76 4 = 0 ∧ u 104 24 = 0 ∧ u 240 16 = 0)
  && s.hasKey (u 80 8) && s.hasKey (u 88 8) && (if u 72 4 = 0 then decide (u 96 8 = 0) else s.hasKey (u 96 8))
  && (List.range 4).all (fun k => decide (u (176 + 16 * k) 8 % 2 ^ 16 = 0 ∧ u (184 + 16 * k) 8 % 2 ^ 16 = 0))

/-- PART_CREATE's effect; a second member of a domain group on this module is refused (R377, log entry 90). -/
def State.createPart (s : State) (f x : Nat) : Nat × Nat × State :=
  let u (o n : Nat) : Nat := byteField x o n
  if !s.blockLegal x then (oBadArg, 0, s)
  else if s.fw.parts.any (fun p => p.2.exists_ && decide (p.2.piers &&& u 0 8 ≠ 0 ∨ p.2.vfs &&& u 128 48 ≠ 0)) then (oNoSpace, 0, s)
  else if u 72 4 ≠ 0 ∧ s.fw.parts.any (fun p => p.2.exists_ && decide (p.2.group = u 72 4 ∧ p.2.groupKey = u 96 8)) then (oBadArg, 0, s)
  else match s.freePart with
  | none => (oNoSpace, 0, s)
  | some p =>
    let part : Part :=
      { exists_ := true, owner := f, piers := u 0 8, vfs := u 128 48, root := u 8 8
        ranges := (List.range 4).filterMap (fun k => if u (184 + 16 * k) 8 = 0 then none else some (u (176 + 16 * k) 8, u (184 + 16 * k) 8))
        peers := if u 72 4 = 0 then [] else Config.groupPeers (u 72 4) (u 96 8)
        resBase := u 16 8, resSize := u 24 8, dumpBase := u 32 8, dumpSize := u 40 8, dumps := List.replicate (u 48 4) none
        dumpKey := u 80 8, ideKey := u 88 8, groupKey := u 96 8, group := u 72 4, mooring := u 52 4
        hardUs := if u 56 4 = 0 then 200 else u 56 4, haproxy := decide (u 60 4 = 1), bar2 := u 64 8 }
    let s := s.modPart p (fun _ => part)
    let s := s.modJournal p (fun _ => [])
    (oOk, p, (List.range 384).foldl (fun s v => if part.vfs.testBit v then s.modFunc (v + 1) (fun d => { d with part := some p }) else s) s)

/-- PART_CREATE (R371, R372). -/
def execPartCreate (f : Nat) (s : State) : Out :=
  .next (s.runCmd f 0x01 (fun s x => quick (
    if !isPf f then (oDenied, 0, s)
    else if !argsClear x [(0, 12)] ∨ argField x 0 8 % 64 ≠ 0 ∨ argField x 8 4 ≠ 256 then (oBadArg, 0, s)
    else s.createPart f (leNat (s.hostBytes (argField x 0 8) 256)))))

/-- Takes a task away where it stands: what it has not performed, its copies, its transfers, its wait entries are discarded, its slot is
empty. -/
def State.dropTask (s : State) (k : Nat) : State :=
  let t := s.task k
  let s : State := match t.state with
    | .running g =>
      if g % 16 = 9 then s.modQy (quayOf g) (fun (y : Quay) => { y with tcopies := Assoc.erase k y.tcopies })
      else
        let s := (s.leaveLease g).modQy (quayOf g) (fun (y : Quay) => { y with
          berths := y.berths.map (fun b => { b with
            owner := if b.owner = some g then none else b.owner, copies := b.copies.filter (fun c => c.agent ≠ g) })
          tile := if isPilot g then y.tile.discard else { y.tile with feeds := y.tile.feeds.filter (fun f => f.agent ≠ g) } })
        s.setAg g (s.ag g).residue
    | .ready | .parked _ | .halted | .ended => s.modQy t.quay (fun y => { y with
        berths := y.berths.map (fun b => { b with owner := if b.owner = some (taskToken k) then none else b.owner }) })
  { s with
    dies := s.dies.map (fun d => (d.1, { d.2 with waits := d.2.waits.filter (fun w => w.2 ≠ k) }))
    fw := { s.fw with parts := s.fw.parts.map (fun p => (p.1, { p.2 with moored := p.2.moored.filter (fun w => w.2 ≠ k) })) }
    work := { s.work with tasks := Assoc.erase k s.work.tasks } }

/-- The modules that hold instances of a launch of this one. -/
def Launch.modules (x : Launch) : List Nat := ((x.placed.filter (fun p => decide (192 ≤ p.2))).map (fun p => p.2 / 192 - 1)).dedup

/-- The end of a launch that is lost (R377): its future is set failed with GROUPLOST where it was issued, and the modules that hold
instances of it are told. -/
def State.endLost (s : State) (l : Nat) : State :=
  let x := s.launch l
  if !x.live then s else
  let s := { s with work := { s.work with
    launches := Assoc.erase l s.work.launches, groups := s.work.groups.filter (fun g => g.launch ≠ l) } }
  if x.origin.isSome then s
  else ((x.modules.foldl (fun s m => s.sendTo m (.lost l)) s).addSet x.part x.record.fut (failValue (0, 6)) 2).completeEntry x.queue

/-- Ends a launch as lost: its tasks are gone here. -/
def State.loseLaunch (s : State) (l : Nat) : State :=
  if !(s.launch l).live then s else
  let ks := (s.work.tasks.filter (fun t => t.2.kind.launch = some l)).map (·.1)
  (ks.foldl (fun s k => s.dropTask k) s).endLost l

/-- Ends every launch that meets a test as lost. -/
def State.loseLaunches (s : State) (test : Launch → Bool) : State :=
  ((s.work.launches.filter (fun l => test l.2)).foldl (fun s l => s.loseLaunch l.1) s).settle

/-- A Quay that its partition has given up: its Wharf zeroed, its engines empty. -/
def Quay.cleared (y : Quay) : Quay :=
  { y with wharf := [], poison := [], ue := [], ce := [], epoch := none, whold := false, hashPend := none, freeze := false, salvage := false
           berths := Vector.replicate 16 {}, tcopies := [], tile := {}, walk := {}, leaseq := [] }

/-- The partition that a running command of a function is about, when it is not that which the function belongs to. -/
def State.cmdPart (s : State) (f x : Nat) : Option Nat :=
  match byteField x 4 2 with
  | 0x02 | 0x03 => some (argField x 0 2)
  | 0x05 => (Assoc.find? (argField x 0 4) s.fw.codes).map (·.part)
  | 0x07 => some (s.ctx (argField x 0 4)).part
  | 0x0A => if argField x 0 1 = 0 then some (s.lq (argField x 4 4)).part else s.pagePart f
  | _ => none

/-- Ends the running commands of a partition with BUSY (R376), but the issuer's own. -/
def State.endCommands (s : State) (p issuer : Nat) : State :=
  (s.fw.funcs.filter (fun d => decide (d.1 ≠ issuer) && (match d.2.running with
    | some r => decide (d.2.part = some p ∨ s.cmdPart d.1 (leNat r.bytes) = some p)
    | none => false))).foldl (fun s d => s.complete d.1 (s.journalKey d.1) oBusy 0) s

/-- Whether a copy that can still land is at the head of a berth of a partition or belongs to a copy task of it (R232). -/
def State.copiesFly (s : State) (p : Nat) : Bool :=
  let moves (c : Copy) : Bool := c.stall.isNone && c.ats.isNone
  (s.part p).quays.any (fun q =>
    (s.qy q).berths.toList.any (fun b => (b.copies.take 1).any moves) || (s.qy q).tcopies.any (fun c => moves c.2))

/-- Whether an act sets a completion future. -/
def Act.setsFuture : Act → Bool
  | .setFuture _ _ _ => true
  | .launch _ _ _ | .signal _ _ _ _ | .write _ _ | .finish _ _ _ _ _ | .decode _ | .taskLaunch _ _ | .remoteStart _ => false

/-- Halts everything of a partition: its launches are lost, its commands end, its agents stop where they are, its queues are gone (R371,
R376, R377). The futures that are to be set failed still are, when their setting has to wait (R313). -/
def State.quietPart (s : State) (p issuer : Nat) : State :=
  let s := (((s.work.launches.filter (fun l => l.2.part = p)).foldl (fun s l => s.endLost l.1) s).settle).endCommands p issuer
  { s with
    agents := s.agents.map (fun a => if a.2.part = p ∧ a.2.status ≠ .absent then (a.1, { a.2 with status := .halted }) else a)
    fw := { s.fw with
      lqs := s.fw.lqs.filter (fun q => q.2.part ≠ p), tqs := s.fw.tqs.filter (fun q => q.2.part ≠ p)
      parts := Assoc.set p { s.part p with halted := true } s.fw.parts }
    work := { s.work with jobs := s.work.jobs.filter (fun j => decide (j.part ≠ p) || j.act.setsFuture), placing := s.work.placing.filter (fun x => x.1.part ≠ p) } }

/-- Discards everything of a partition that has been halted (R371). -/
def State.discardPart (s : State) (p : Nat) : State :=
  let gone (k : Nat) : Bool := (Assoc.find? k s.work.tasks).any (fun t => t.part = p)
  let x := s.part p
  { s with
    agents := s.agents.filter (fun a => a.2.part ≠ p)
    dies := s.dies.map (fun d => (d.1, { d.2 with waits := d.2.waits.filter (fun w => !gone w.2) }))
    quays := s.quays.map (fun y => (y.1, if x.piers.testBit (y.1 / 4) then y.2.cleared else y.2))
    tlb := s.tlb.filter (fun t => t.part ≠ p)
    fw := { s.fw with
      ctxs := s.fw.ctxs.filter (fun c => c.2.part ≠ p), seals := s.fw.seals.filter (fun z => z.part ≠ p)
      parts := Assoc.set p { x with mail := Vector.replicate 64 {}, moored := [], halted := false } s.fw.parts }
    work := { s.work with tasks := s.work.tasks.filter (fun t => t.2.part ≠ p) } }

/-- Tells the other members of a partition's domain group that their launches with instances on it are lost (R377). -/
def State.tellPeers (s : State) (p : Nat) : State :=
  let x := s.part p
  x.peers.foldl (fun s m => s.sendTo m.1 (.reset x.group x.groupKey)) s

/-- The end of PART_DESTROY and PART_RESET: everything is halted, the copies in flight land, as context destruction lets them (R232), then
everything is discarded. A copy that waits for the host is discarded with it (log entry 90). -/
def State.endPart (s : State) (p issuer : Nat) (done : State → State) : CmdEnd :=
  let s := s.quietPart p issuer
  if s.copiesFly p then .runs s else .done oOk 0 (done ((s.tellPeers p).discardPart p))

/-- Removes a partition: its code, journal, VFs and comparators are free. -/
def State.destroyPart (s : State) (p : Nat) : State :=
  { s with
    work := { s.work with jobs := s.work.jobs.filter (fun j => j.part ≠ p) }
    dies := s.dies.map (fun d => (d.1, { d.2 with comp := d.2.comp.map (fun c => if c.part = some p then {} else c) }))
    fw := { s.fw with
      parts := Assoc.erase p s.fw.parts, codes := s.fw.codes.filter (fun c => c.2.part ≠ p), journals := Assoc.erase p s.fw.journals
      funcs := s.fw.funcs.map (fun d => (d.1, if d.2.part = some p then { d.2 with part := none } else d.2)) } }

/-- PART_DESTROY (R371, R376): journaled before it takes effect, in the issuer's journal. -/
def execPartDestroy (f : Nat) (s : State) : Out :=
  .next (s.runCmd f 0x02 (fun s x =>
    let p := argField x 0 2
    if !isPf f then .done oDenied 0 s
    else if !argsClear x [(0, 2)] ∨ !(s.part p).exists_ then .done oBadArg 0 s
    else s.endPart p f (fun s => s.destroyPart p)))

/-- PART_RESET (R371): the partition, its VFs, its journal and its dump area stay. -/
def execPartReset (f : Nat) (s : State) : Out :=
  .next (s.runCmd f 0x03 (fun s x =>
    let p := argField x 0 2
    if !argsClear x [(0, 2)] ∨ !(s.part p).exists_ then .done oBadArg 0 s
    else if !s.own f p then .done oDenied 0 s
    else s.endPart p f id))

/-! ### Code objects (R374, R375, R349) -/

/-- A segment of a file: its entry, when it is well formed. -/
def rcoSegment (x size table k : Nat) : Option (Segment × Nat × Nat) :=
  let u (o n : Nat) : Nat := byteField x (table + 40 * k + o) n
  if u 32 8 < 16 ∧ u 24 8 ≤ u 8 8 ∧ u 16 8 + u 24 8 ≤ size ∧ u 0 8 + u 8 8 ≤ 2 ^ 64 then
    some (⟨u 0 8, u 8 8, u 32 8⟩, u 16 8, u 24 8) else none

/-- The header and tables of a file of `size` bytes (R375 item 1): its segments with their file ranges. -/
def rcoSegments (x size : Nat) : Option (List (Segment × Nat × Nat)) :=
  let u (o n : Nat) : Nat := byteField x o n
  let segs := (List.range (u 6 2)).map (rcoSegment x size (u 12 4))
  if 128 ≤ size ∧ u 0 4 = 0x314F4352 ∧ u 4 2 = 1 ∧ 1 ≤ u 6 2 ∧ u 6 2 ≤ 64 ∧ u 8 2 ≤ 1024 ∧ (u 10 2 = 0 ∨ u 10 2 = 0x00B0)
      ∧ u 12 4 + 40 * u 6 2 ≤ size ∧ u 16 4 + 8 * u 8 2 ≤ size ∧ u 24 2 ≤ 1536 ∧ u 20 4 + u 24 2 ≤ size ∧ u 26 102 = 0
      ∧ (List.range (u 8 2)).all (fun k => decide (1 ≤ u (u 16 4 + 8 * k + 3) 1 ∧ u (u 16 4 + 8 * k + 3) 1 ≤ 2 ∧ u (u 16 4 + 8 * k + 7) 1 = 0))
      ∧ segs.all (·.isSome) then
    some (segs.filterMap id)
  else none

/-- Whether the signature of a file verifies under the system key (R374). -/
def rcoSigned (x : Nat) : Bool :=
  let so := byteField x 20 4
  decide (so ≠ 0) && Config.sigVerify Config.systemKey (Config.shake256 (leBytes so x) 64) (leBytes (byteField x 24 2) (byteField x so (byteField x 24 2)))

/-- Whether a lifetime entry of class 2 names another stepping. -/
def rcoStepping (x : Nat) : Bool :=
  (List.range (byteField x 8 2)).any (fun k =>
    let e := byteField x 16 4 + 8 * k
    decide (byteField x (e + 3) 1 = 2 ∧ byteField x (e + 4) 2 ≠ Config.stepping))

/-- Writes a table entry. -/
def State.setPte (s : State) (a e : Nat) : State := s.setBytes (placeBytes ⟨.fabric, a⟩ (leBytes 8 e))

/-- Zeroes a table. -/
def State.zeroTable (s : State) (a : Nat) : State := { s with mem := s.mem.filter (fun c => !decide (a ≤ c.1 ∧ c.1 < a + 2 ^ 17)) }

/-- The memory that a table uses and gives: its own range, those of its leaves and of the tables below it. `k` counts the levels left. -/
def State.tableUses : Nat → State → Nat → Nat → List (Nat × Nat)
  | 0, _, _, _ => []
  | k + 1, s, lvl, table =>
    let es := (((s.mem.filter (fun c => decide (table ≤ c.1 ∧ c.1 < table + 2 ^ 17))).map (fun c => s.u64 (c.1 / 8 * 8))).dedup).filter (pteBit · 0)
    (table, 2 ^ 17) :: es.flatMap (fun e => if pteBit e 4 then [(ptePa e, 2 ^ levelShift lvl)] else s.tableUses k (lvl + 1) (ptePa e))

/-- The memory of a partition that is in use: its reserved memory, its dump area, what its tables use. -/
def State.inUse (s : State) (p : Nat) : List (Nat × Nat) :=
  let x := s.part p
  (x.resBase, x.resSize) :: (x.dumpBase, x.dumpSize * x.dumps.length) :: s.tableUses 4 0 x.root

/-- Whether 128 KiB of memory lie in a partition's ranges and are not in use. -/
def blockFree (ranges used : List (Nat × Nat)) (a : Nat) : Bool :=
  ranges.any (fun r => decide (r.1 ≤ a ∧ a + 2 ^ 17 ≤ r.1 + r.2)) && used.all (fun u => decide (a + 2 ^ 17 ≤ u.1 ∨ u.1 + u.2 ≤ a))

/-- 128 KiB of a partition's memory that firmware takes for a page or a table, aligned to that: which of those not in use the spec leaves
open; none when there is none (R375, R376). When a free one exists, one begins a range or follows something in use. -/
def State.takePage (s : State) (p : Nat) : Option (Nat × State) :=
  let used := s.inUse p
  let ok := blockFree (s.part p).ranges used
  let want := Config.freePage (s.freeOf (partFree p)) * 2 ^ 17
  let up (a : Nat) : Nat := (a + 2 ^ 17 - 1) / 2 ^ 17 * 2 ^ 17
  (if ok want then some want
    else (((s.part p).ranges.map (fun r => up r.1)) ++ used.map (fun u => up (u.1 + u.2))).find? ok).map (fun a => (a, s.useFreeOf (partFree p)))

/-- Puts a table of 64 KiB leaves in the place of a 1 GiB leaf, whose memory they map as it did. -/
def State.splitLeaf (s : State) (p e : Nat) : Option (Nat × State) :=
  let old := s.u64 e
  (s.takePage p).map (fun t =>
    (t.1, ((List.range (2 ^ 14)).foldl (fun s k => s.setPte (t.1 + 8 * k) (old + k * 2 ^ 16)) t.2).setPte e (t.1 + 1)))

/-- The table entry of a page, made where tables are missing; a 1 GiB leaf that covers it is split (DESIGN CHOICE, log entry 90); `k`
counts the levels left. -/
def State.pteAt : Nat → State → Nat → Nat → Nat → Nat → Option (Nat × State)
  | 0, s, _, _, table, _ => some (table, s)
  | k + 1, s, p, lvl, table, va =>
    let e := table + 8 * (va / 2 ^ levelShift lvl % 2 ^ 14)
    if k = 0 then some (e, s)
    else if pteBit (s.u64 e) 0 && !pteBit (s.u64 e) 4 then s.pteAt k p (lvl + 1) (ptePa (s.u64 e)) va
    else if pteBit (s.u64 e) 0 && decide (lvl = 2) then (s.splitLeaf p e).bind (fun t => t.2.pteAt k p (lvl + 1) t.1 va)
    else (s.takePage p).bind (fun t => ((t.2.zeroTable t.1).setPte e (t.1 + 1)).pteAt k p (lvl + 1) t.1 va)

/-- Drops a partition's cached translations of an address. -/
def State.dropCached (s : State) (p va : Nat) : State :=
  { s with tlb := s.tlb.filter (fun t => !decide (t.part = p ∧ t.base ≤ va ∧ va < t.base + t.size)) }

/-- Maps one 64 KiB page of a partition with permissions. -/
def State.mapPage (s : State) (p va flags : Nat) : Option (Nat × State) :=
  ((s.dropCached p va).pteAt 4 p 0 (s.part p).root va).bind (fun r => (r.2.takePage p).map (fun t =>
    (t.1, t.2.setPte r.1 (1 + (if flags.testBit 0 then 2 else 0) + (if flags.testBit 1 then 4 else 0)
      + (if flags.testBit 2 then 8 else 0) + 16 + t.1))))

/-- The entry of a page when its tables are there; `k` counts the levels left. -/
def State.pteFind : Nat → State → Nat → Nat → Nat → Option Nat
  | 0, _, _, table, _ => some table
  | k + 1, s, lvl, table, va =>
    let e := table + 8 * (va / 2 ^ levelShift lvl % 2 ^ 14)
    if k = 0 then some e
    else if pteBit (s.u64 e) 0 && !pteBit (s.u64 e) 4 then s.pteFind k (lvl + 1) (ptePa (s.u64 e)) va
    else none

/-- Removes the page of an address from a partition's tables, and its cached translations. -/
def State.unmapPage (s : State) (p va : Nat) : State :=
  (match s.pteFind 4 0 (s.part p).root va with | some e => s.setPte e 0 | none => s).dropCached p va

/-- The pages of a segment. -/
def Segment.pages (g : Segment) : List Nat :=
  if g.size = 0 then [] else (List.range ((g.va + g.size - 1) / 2 ^ 16 - g.va / 2 ^ 16 + 1)).map (fun k => (g.va / 2 ^ 16 + k) * 2 ^ 16)

/-- The pages of some segments. -/
def segmentPages (gs : List Segment) : List Nat := (gs.flatMap Segment.pages).dedup

/-- Loads a page: it is mapped with the permissions of every segment on it, and holds the file's bytes of each, zeros beyond them. -/
def State.loadPage (s : State) (p x : Nat) (gs : List (Segment × Nat × Nat)) (va : Nat) : Option State :=
  let flags := gs.foldl (fun m g => if g.1.pages.contains va then m ||| g.1.flags else m) 0
  (s.mapPage p va flags).map (fun m =>
    m.2.setBytes (placeBytes ⟨.fabric, m.1⟩ ((List.range (2 ^ 16)).map (fun k =>
      match gs.find? (fun g => decide (g.1.va ≤ va + k ∧ va + k < g.1.va + g.1.size)) with
      | some g => let o := va + k - g.1.va; if o < g.2.2 then BitVec.ofNat 8 (byteField x (g.2.1 + o) 1) else 0
      | none => 0))))

/-- CODE_LOAD's effect (R375); without memory for a page or a table it is refused (log entry 90). -/
def State.loadCode (s : State) (p x size : Nat) : Nat × Nat × State :=
  match rcoSegments x size with
  | none => (oBadArg, 0, s)
  | some gs =>
    let sys := gs.any (fun g => g.1.flags.testBit 3)
    if sys ∧ !rcoSigned x then (oDenied, 0, s)
    else if rcoStepping x then (oStepping, 0, s)
    else
      let h := s.fw.nextCode
      match (segmentPages (gs.map (·.1))).foldl (fun (acc : Option State) va => acc.bind (fun s => s.loadPage p x gs va)) (some s) with
      | none => (oNoSpace, 0, s)
      | some s => (oOk, h, { s with fw := { s.fw with
          codes := Assoc.set h { part := p, segs := gs.map (·.1), system := sys } s.fw.codes, nextCode := h + 1 } })

/-- CODE_LOAD (R374, R375). -/
def execCodeLoad (f : Nat) (s : State) : Out :=
  .next (s.runCmd f 0x04 (fun s x => quick (
    let p := argField x 16 2
    let size := argField x 8 8
    if !argsClear x [(0, 18)] ∨ argField x 0 8 % 64 ≠ 0 ∨ !(s.part p).exists_ then (oBadArg, 0, s)
    else if !s.own f p then (oDenied, 0, s)
    else s.loadCode p (leNat (s.hostBytes (argField x 0 8) size)) size)))

/-- The PC that an agent holds in some segments: its PC, tepc, spc or tvec (R349). -/
def Agent.pcIn (a : Agent) (gs : List Segment) : Option Word :=
  [a.regs.pc, a.trap.tepc, a.strip.spc, a.trap.tvec].find? (fun w => gs.any (fun g => decide (g.va ≤ w.toNat ∧ w.toNat < g.va + g.size)))

/-- The PC that a context holds in some segments, in an agent that runs or is saved. -/
def State.ctxPcIn (s : State) (c : Nat) (gs : List Segment) : Option Word :=
  ((s.agents.filter (fun a => decide (a.2.ctx = c ∧ a.2.status ≠ .absent))).map (·.2)
    ++ (s.work.tasks.filter (fun t => t.2.ctx = c)).filterMap (fun t => t.2.saved)).findSome? (fun a => a.pcIn gs)

/-- Soft-pre-empts every running agent of a context. -/
def State.preemptCtx (s : State) (c : Nat) : State :=
  { s with agents := s.agents.map (fun a =>
      if a.2.ctx = c ∧ a.2.status ≠ .absent then (a.1, a.2.modStrip (fun t => { t with ppend := true })) else a) }

/-- Whether an agent of a context stands in a slot. -/
def State.ctxRuns (s : State) (c : Nat) : Bool := s.agents.any (fun a => decide (a.2.ctx = c ∧ a.2.status ≠ .absent))

/-- Unloads a code object: a page that another object of its partition lies on stays. -/
def State.dropCode (s : State) (h : Nat) (x : Code) : State :=
  let s := { s with fw := { s.fw with codes := Assoc.erase h s.fw.codes } }
  let kept := (s.fw.codes.filter (fun c => c.2.part = x.part)).flatMap (fun c => segmentPages c.2.segs)
  ((segmentPages x.segs).filter (fun va => !kept.contains va)).foldl (fun s va => s.unmapPage x.part va) s

/-- CODE_UNLOAD (R349): with FORCE the contexts that hold a PC in it are soft-pre-empted, then doomed, each with the PC found when the
command first met it. -/
def execCodeUnload (f : Nat) (s : State) : Out :=
  .next (s.runCmd f 0x05 (fun s x =>
    let h := argField x 0 4
    match Assoc.find? h s.fw.codes with
    | none => if argsClear x [(0, 5)] then .done oNotFound 0 s else .done oBadArg 0 s
    | some c =>
      if !argsClear x [(0, 5)] ∨ 2 ≤ argField x 4 1 then .done oBadArg 0 s
      else if !s.own f c.part then .done oDenied 0 s
      else
        let met := match (s.func f).running with | some r => r.held | none => []
        let held := met ++ ((s.ctxsOf c.part).filter (fun y => !met.any (fun m => m.1 = y.1))).filterMap (fun y =>
          (s.ctxPcIn y.1 c.segs).map (fun pc => (y.1, pc)))
        if held = [] then .done oOk 0 (s.dropCode h c)
        else if argField x 4 1 = 0 then .done oBusy 0 s
        else if held.any (fun y => s.ctxRuns y.1) then
          .runs ((held.foldl (fun s y => s.preemptCtx y.1) s).modFunc f (fun d => { d with running := d.running.map (fun r => { r with held := held }) }))
        else .done oOk 0 ((held.foldl (fun s y => s.modCtx y.1 (fun z => { z with doomed := some y.2 })) s).dropCode h c)))

/-! ### Contexts (R371, R345-R348) -/

/-- The Quays of a bitmap. -/
def quayBits (x : Nat) : List Nat := (List.range 192).filter (fun q => x.testBit q)

/-- The partition that holds every Quay of a list. -/
def State.partOfQuays (s : State) (qs : List Nat) : Option Nat :=
  (List.find? (fun (p : Nat × Part) => decide (p.2.exists_ = true ∧ qs ≠ []) && qs.all (fun q => p.2.piers.testBit (q / 4))) s.fw.parts).map (fun (p : Nat × Part) => p.1)

/-- Whether a running command of a function but one saves a context. -/
def State.saving (s : State) (c : Nat) (but : Option Nat) : Bool :=
  s.fw.funcs.any (fun d => decide (some d.1 ≠ but) && (match d.2.running with
    | some r => decide (byteField (leNat r.bytes) 4 2 = 0x07 ∧ argField (leNat r.bytes) 0 4 = c)
    | none => false))

/-- Whether a context holds one of some Quays; one that has been saved has left them (log entry 90). -/
def State.quaysTaken (s : State) (qs : List Nat) : Bool :=
  s.fw.ctxs.any (fun c => c.2.exists_ && (!c.2.saved || s.saving c.1 none) && c.2.quays.any (fun q => qs.contains q))

/-- A new context on some Quays, of the function whose command creates it: its agents and engines hold zeroed state. -/
def State.newCtx (s : State) (f p : Nat) (qs : List Nat) (pasid trap : Nat) : Nat × State :=
  let c := s.fw.nextCtx
  let x : Ctx := { exists_ := true, part := p, func := f, quays := qs, pasid := pasid, trapPage := BitVec.ofNat 64 trap }
  (c, { s with
    agents := s.agents.filter (fun a => !qs.contains (quayOf a.1))
    quays := qs.foldl (fun m q => Assoc.set q ((Assoc.get {} q m).cleared) m) s.quays
    fw := { s.fw with ctxs := Assoc.set c x s.fw.ctxs, nextCtx := c + 1 } })

/-- CTX_CREATE (R371). -/
def execCtxCreate (f : Nat) (s : State) : Out :=
  .next (s.runCmd f 0x06 (fun s x => quick (
    let qs := quayBits (argField x 0 24)
    match s.partOfQuays qs with
    | none => (oBadArg, 0, s)
    | some p =>
      if !argsClear x [(0, 28), (32, 8)] ∨ 2 ^ 20 ≤ argField x 24 4 ∨ argField x 32 8 % 4096 ≠ 0 ∨ s.quaysTaken qs then (oBadArg, 0, s)
      else if !s.own f p then (oDenied, 0, s)
      else
        let r := s.newCtx f p qs (argField x 24 4) (argField x 32 8)
        (oOk, r.1, r.2))))

/-- Whether a context's Quay still has copies to land (R240). -/
def State.copiesOut (s : State) (q : Nat) : Bool :=
  (s.qy q).berths.toList.any (fun b => b.copies ≠ []) || decide ((s.qy q).tcopies ≠ [])

/-- The image of a saved context (R345): that of each of its Quays in rising order, each padded to 64 bytes (log entry 88). -/
def State.ctxImage (s : State) (c : Nat) : List Byte :=
  let z := s.ctx c
  z.quays.flatMap (fun q => pad64 (s.image z.part q (s.imageFlags c (s.savedOn c q)) (s.savedOn c q)))

/-- CTX_SAVE (R345, R371): soft-pre-empts the context, waits for its copies (R240) and its transfers (R334), then writes its image. A saved
context runs again where it is restored. BUSY while another command saves it. -/
def execCtxSave (f : Nat) (s : State) : Out :=
  .next (s.runCmd f 0x07 (fun s x =>
    let c := argField x 0 4
    let z := s.ctx c
    let a := (slotAddr x (8 + 8)).1
    if !argsClear x [(0, 4), (8, 16)] ∨ !z.exists_ ∨ !(slotAddr x (8 + 8)).2 ∨ a.toNat % 64 ≠ 0 then .done oBadArg 0 s
    else if !s.own f z.part then .done oDenied 0 s
    else if s.saving c (some f) then .done oBusy 0 s
    else if s.ctxRuns c ∨ z.quays.any (fun q => s.copiesOut q || decide ((s.tile q).feeds ≠ [])) then
      .runs ((s.preemptCtx c).modCtx c (fun y => { y with saved := true }))
    else
      let bs := s.ctxImage c
      match s.rowSide (s.hmActor z.part none) a bs.length 1 Acc.store with
      | .error _ => .done oBadArg 0 (s.modCtx c (fun y => { y with saved := false }))
      | .ok ps => .done oOk 0 ((s.writeBytes ((spread ps).zip bs)).modCtx c (fun y => { y with saved := true }))))

/-- A task as a restored agent record names it: that of a saved context with its identity, or a new one of no launch. -/
def State.restoredTask (s : State) (p c : Nat) (pilot : Bool) (taskid : Word) : Nat × Task × State :=
  match List.find? (fun (t : Nat × Task) => decide (t.2.part = p) && (s.ctx t.2.ctx).saved && t.2.kind.slotOk (if pilot then 8 else 0)
      && (match t.2.saved with | some a => decide (a.task.taskid = taskid) | none => false)) s.work.tasks with
  | some t => (t.1, t.2, s)
  | none =>
    let k := s.work.nextTask
    let l := s.work.nextLaunch
    (k, { kind := if pilot then .pilot l [] else .hart l [], part := p, ctx := c },
      { s with work := { s.work with nextTask := k + 1, nextLaunch := l + 1 } })

/-- The destination of the FWAIT or FGET that a saved waiter stands behind, and whether it takes the value; none where it cannot be read. -/
def State.waitOf (s : State) (by_ : Actor) (pc : Word) : Option (Bool × Nat) :=
  match s.xlate by_ (mkAddr 0 (pc - 4).toNat) Acc.fetch with
  | .error _ => none
  | .ok h => match decodeNat (leNat (s.bytes h.place 4)) with
    | .ok (.fwait d _ _) => some (false, d.val)
    | .ok (.fget d _ _) => some (true, d.val)
    | _ => none

/-- A waiter that has to find its future anew stands before its FWAIT or FGET again, as though that had not completed. -/
def Agent.unwait (a : Agent) : Agent :=
  let p := a.regs.pc - 4
  { a with
    regs := { a.regs with pc := p, instret := a.regs.instret - 1 }
    task := { a.task with parkcnt := a.task.parkcnt - 1 }
    strip := if a.strip.isOpen then { a.strip with spc := p, ckpt := { a.strip.ckpt with spc := p } } else a.strip }

/-- A restored waiter (R331): its wait entry moves with it; a task without one waits again, unless its future has been set, which wakes it
now. One whose future cannot be reached or asked for at once, or for which there is no entry, waits in its FWAIT or FGET, which it executes
again when it resumes (log entry 109). -/
def State.rewait (s : State) (by_ : Actor) (k : Nat) (was : TaskState) (known : Bool) : State :=
  let t := s.task k
  let again := s.modTask k (fun t => { t with saved := t.saved.map Agent.unwait })
  match was, s.futurePlace by_ t.fut with
  | .parked pa, _ => s.modTask k (fun t => { t with state := .parked pa, futPa := pa })
  | _, .error _ => again
  | _, .ok pl =>
    let w := s.futWord pl
    if !known ∨ s.away pl then again
    else
      let s := s.modTask k (fun t => { t with state := .parked pl.addr, futPa := pl.addr })
      if futSt w ≠ 0 then s.wake k ⟨pl.addr, futSt w, s.futValue pl⟩
      else ((s.writeBytes (placeBytes (pl.plus 8) (leBytes 8 (w ||| 4)))).takeWait t.part k pl.addr).getD again

/-- Puts the agents of an image into tasks of a new context (R331, R348): the state, the agents of the slots, the contexts they come
from. -/
def State.restoreAgents (s : State) (p c q x : Nat) : State × (Nat → Option Nat) × List Nat :=
  let by_ : Actor := ⟨p, (s.ctx c).func, (s.ctx c).pasid, dieOf q, q, none⟩
  let sec (k : Nat) : Nat × Nat := (byteField x (64 + 16 * k) 8, byteField x (72 + 16 * k) 8)
  let order := (List.range 9).filter (fun k => (sec k).2 ≠ 0)
  let r := order.zipIdx.foldl (fun (acc : State × List (Nat × Nat) × List Nat) e =>
    let rec_ := byteField x (sec e.1).1 (sec e.1).2
    let a := acc.1.unimage by_ p c rec_
    let pilot := decide (e.1 = 0)
    let code := byteField rec_ 1 1
    let t := acc.1.restoredTask p c pilot a.task.taskid
    let tb := byteField x ((sec 13).1 + 128 * e.2) 128
    let live := decide (byteField rec_ 0 1 = 1 ∧ a.strip.live ≠ 0) && (a.strip.ckpt.map.isSome || a.strip.susp)
    let phases : Vector Nat 8 := Vector.ofFn (fun i => byteField tb (56 + 4 * i.val) 4)
    let wait := if t.1 = acc.1.work.nextTask then acc.1.waitOf by_ a.regs.pc else some (t.2.1.get, t.2.1.dest)
    let w := wait.getD (false, 0)
    let b : Agent := { a with
      task := { a.task with phases := phases }
      strip := { a.strip with live := if live then a.strip.live else 0 }
      status := if code = 4 then .halted else .run }
    let task : Task := { t.2.1 with
      state := if code = 4 ∧ t.2.1.state = .halted then .halted else .ready
      ctx := c, quay := q, saved := some b, needs := if live then max 1 (popCount a.strip.live.toNat 32 / 4) else 0
      lanes := a.strip.live, fut := (slotAddr tb 40).1, get := w.1, dest := w.2, prio := a.task.prio, effPrio := a.task.effPrio }
    let s := t.2.2.toTail t.1 task
    (if code = 2 then s.rewait by_ t.1 t.2.1.state wait.isSome else s,
      acc.2.1 ++ [(if pilot then 8 else e.1 - 1, taskToken t.1)], acc.2.2 ++ [t.2.1.ctx])) (s, [], [])
  (r.1, fun slot => Assoc.find? slot r.2.1, r.2.2)

/-- Restores the image of one Quay into a context; whether a context that one of its agents comes from is doomed. -/
def State.restoreQuay (s : State) (p c : Nat) (i : Nat × Nat) : State × Bool :=
  let u (o n : Nat) : Nat := byteField i.2 o n
  let sec (k : Nat) : Nat := byteField i.2 (u (64 + 16 * k) 8) (u (72 + 16 * k) 8)
  let r := s.restoreAgents p c i.1 i.2
  let s' := if u (72 + 16 * 9) 8 = 0 then r.1 else r.1.putSections i.1 (sec 9) (sec 10) (sec 11) (sec 12) r.2.1
  (s', (u 6 2).testBit 0 || r.2.2.any (fun k => (s.ctx k).doomed.isSome))

/-- The PC of a saved agent of a context that lies in no code object loaded in its partition. -/
def State.strayPc (s : State) (c : Nat) : Option Word :=
  let gs := (s.fw.codes.filter (fun y => y.2.part = (s.ctx c).part)).flatMap (fun y => y.2.segs)
  ((s.work.tasks.filter (fun t => t.2.ctx = c)).filterMap (fun t => t.2.saved)).findSome? (fun a =>
    [a.regs.pc, a.trap.tepc, a.strip.spc, a.trap.tvec].find? (fun w =>
      decide (w ≠ 0) && !(gs.any (fun g => decide (g.va ≤ w.toNat ∧ w.toNat < g.va + g.size)))))

/-- CTX_RESTORE's effect (R348): the images of the Quays, each with its Quay. A doomed context stays so (R349); its image does not name the
PC that was found: it is one that no loaded object holds, else that of its first agent (log entry 88). -/
def State.restoreCtx (s : State) (f p : Nat) (is : List (Nat × Nat)) (trap : Nat) : Nat × Nat × State :=
  let bad (x : Nat) : Bool := let u (o n : Nat) : Nat := byteField x o n
    decide (u 0 4 ≠ 0x31585443 ∨ u 4 2 ≠ 1 ∨ (u 8 2 ≠ 0x00A0 ∧ u 8 2 ≠ 0x00B0) ∨ u 12 2 ≠ p)
  if is.any (fun i => bad i.2) then (oBadArg, 0, s)
  else if is.any (fun i => byteField i.2 24 8 &&& (2 ^ 64 - 1 - featPresent) ≠ 0) then (oFeature, 0, s)
  else if s.quaysTaken (is.map (·.1)) then (oNoSpace, 0, s)
  else
    let pasid := match s.ctxsOf p with | c :: _ => c.2.pasid | [] => 0
    let n := s.newCtx f p (is.map (·.1)) pasid trap
    let r := is.foldl (fun (acc : State × Bool) i => let y := acc.1.restoreQuay p n.1 i; (y.1, acc.2 || y.2)) (n.2, false)
    let first := (List.find? (fun (t : Nat × Task) => decide (t.2.ctx = n.1)) r.1.work.tasks).bind (fun (t : Nat × Task) => t.2.saved.map (fun a => a.regs.pc))
    let pc := (r.1.strayPc n.1).getD (first.getD 0)
    (oOk, n.1, if r.2 then r.1.modCtx n.1 (fun c => { c with doomed := some pc }) else r.1)

/-- The images of some Quays, one after another from an address; none when a read fails. -/
def State.readImages (s : State) (by_ : Actor) : List Nat → Addr → Option (List (Nat × Nat))
  | [], _ => some []
  | q :: qs, a =>
    match s.hmRead by_ a 320 1 Acc.load with
    | .error _ => none
    | .ok h => match s.hmRead by_ a (byteField h.2 32 8) 1 Acc.load with
      | .error _ => none
      | .ok y => (s.readImages by_ qs (a + BitVec.ofNat 72 ((byteField h.2 32 8 + 63) / 64 * 64))).map (fun l => (q, y.2) :: l)

/-- The state after such reads (R222). -/
def State.imagesSeen (s : State) (by_ : Actor) : List Nat → Addr → State
  | [], _ => s
  | _ :: qs, a =>
    match s.hmRead by_ a 320 1 Acc.load with
    | .error _ => s
    | .ok h =>
      let n := byteField h.2 32 8
      (s.hmSeen by_ a n 1 Acc.load).imagesSeen by_ qs (a + BitVec.ofNat 72 ((n + 63) / 64 * 64))

/-- CTX_RESTORE (R348). -/
def execCtxRestore (f : Nat) (s : State) : Out :=
  .next (s.runCmd f 0x08 (fun s x => quick (
    let a := slotAddr x 8
    let qs := quayBits (argField x 16 24)
    match s.partOfQuays qs with
    | none => (oBadArg, 0, s)
    | some p =>
      if !argsClear x [(0, 48)] ∨ !a.2 ∨ argField x 40 8 % 4096 ≠ 0 then (oBadArg, 0, s)
      else if !s.own f p then (oDenied, 0, s)
      else
        let by_ := s.hmActor p none
        match s.readImages by_ qs a.1 with
        | none => (oBadArg, 0, s)
        | some is => (s.imagesSeen by_ qs a.1).restoreCtx f p is (argField x 40 8))))

/-! ### Queues (R306, R366) -/

/-- Forgets the entries of a launch queue's ring: what they have started completes no entry of the new ring (R366). -/
def State.forgetEntries (s : State) (q : Nat) : State :=
  { s with work := { s.work with
    launches := s.work.launches.map (fun l => match l.2.queue with
      | some (k, _) => if k = q then (l.1, { l.2 with queue := none }) else l
      | none => l)
    jobs := s.work.jobs.map (fun j => match j.act with
      | .launch k n r => if k = q then { j with act := .launch 65536 n r } else j
      | .signal k n a v => if k = q then { j with act := .signal 65536 n a v } else j
      | .setFuture _ _ _ | .write _ _ | .finish _ _ _ _ _ | .decode _ | .taskLaunch _ _ | .remoteStart _ => j) } }

/-- Creates or resets a launch queue; a reset by any function of its partition leaves it to its owner. -/
def State.createLq (s : State) (f p x : Nat) : Nat × Nat × State :=
  let reset := argField x 2 1 = 1
  let want := argField x 4 4
  if argField x 16 8 ≠ 0 ∨ argField x 8 8 % 64 ≠ 0 ∨ argField x 24 1 < 6 ∨ 16 < argField x 24 1 ∨ argField x 32 8 % 4 ≠ 0 then (oBadArg, 0, s)
  else
    let n := if want = 0xFFFFFFFF then (List.range 4096).find? (fun q => !(s.lq q).owned) else some want
    match n with
    | none => (oNoSpace, 0, s)
    | some q =>
      if 4096 ≤ q ∨ (s.lq q).owned ≠ reset then (oBadArg, 0, s)
      else if (s.lq q).owned ∧ (s.lq q).part ≠ p then (oDenied, 0, s)
      else
        let room := decide ((s.fw.lqs.filter (fun y => y.2.holdsPlace && decide (y.1 ≠ q))).length < residentQueues)
        (oOk, q, (s.forgetEntries q).modLq q (fun y =>
          { owned := true, func := if reset then y.func else f, part := p, ring := argField x 8 8, size := 2 ^ argField x 24 1
            progAddr := argField x 32 8, prio := argField x 1 1, resident := room }))

/-- Creates or resets a task queue: TAIL, HEAD and QFLAGS become zero. -/
def State.createTq (s : State) (p x : Nat) : Nat × Nat × State :=
  let reset := argField x 2 1 = 1
  let a := slotAddr x 16
  let want := argField x 4 4
  let by_ := s.hmActor p none
  if !a.2 ∨ argField x 24 16 ≠ 0 then (oBadArg, 0, s)
  else match s.readDesc by_ a.1 with
  | .error _ => (oBadArg, 0, s)
  | .ok d =>
    let s := s.hmSeen by_ a.1 320 64 Acc.atomic
    let qid := byteField d 36 2
    let k := tqKey p qid
    if 1024 ≤ qid ∨ (want ≠ 0xFFFFFFFF ∧ want ≠ qid) then (oBadArg, 0, s)
    else if (s.tq k).owned ∧ !reset then (if want = 0xFFFFFFFF then (oNoSpace, 0, s) else (oBadArg, 0, s))
    else if !(s.tq k).owned ∧ reset then (oBadArg, 0, s)
    else
      let old (j : Job) : Bool := j.act.writesAt (a.1 + 48) || j.act.writesAt (a.1 + 176)
      let s := { s with work := { s.work with jobs := s.work.jobs.filter (fun j => !old j) } }
      let s := (s.hmPut p (a.1 + 38) (leBytes 2 0)).hmPut p (a.1 + 40) (leBytes 16 0)
      (oOk, qid, s.modTq k (fun _ => { owned := true, part := p, desc := a.1, prio := argField x 1 1, resident := true }))

/-- The partition that a QUEUE_CREATE is about: that of the launch queue which a physical function names, else the issuer's (R371). -/
def State.queuePart (s : State) (f x : Nat) : Option Nat :=
  let named := s.lq (argField x 4 4)
  if isPf f ∧ argField x 0 1 = 0 ∧ named.owned then some named.part else s.pagePart f

/-- QUEUE_CREATE (R306, R366, R371). -/
def execQueueCreate (f : Nat) (s : State) : Out :=
  .next (s.runCmd f 0x09 (fun s x => quick (
    match s.queuePart f x with
    | none => (oBadArg, 0, s)
    | some p =>
      if !argsClear x [(0, 3), (4, 21), (32, 8)] ∨ 2 ≤ argField x 0 1 ∨ 4 ≤ argField x 1 1 ∨ 2 ≤ argField x 2 1 then (oBadArg, 0, s)
      else if argField x 0 1 = 0 then s.createLq f p x
      else s.createTq p x)))

/-- Whether a task queue still has tasks or acts under way. -/
def State.tqRuns (s : State) (k : Nat) : Bool :=
  s.work.tasks.any (fun t => match t.2.kind with | .queued q _ _ => decide (q = k) | _ => false)
  || s.work.jobs.any (fun j => match j.act with
      | .finish q _ _ _ _ | .decode q | .taskLaunch q _ => decide (q = k)
      | .launch _ _ _ | .setFuture _ _ _ | .signal _ _ _ _ | .write _ _ | .remoteStart _ => false)

/-- QUEUE_DESTROY (R371): waits for started entries, then frees the queue. -/
def execQueueDestroy (f : Nat) (s : State) : Out :=
  .next (s.runCmd f 0x0A (fun s x =>
    let n := argField x 4 4
    if !argsClear x [(0, 1), (4, 4)] ∨ 2 ≤ argField x 0 1 then .done oBadArg 0 s
    else if argField x 0 1 = 0 then
      let q := s.lq n
      if !q.owned then .done oBadArg 0 s
      else if !s.own f q.part then .done oDenied 0 s
      else if q.progress < q.next then .runs (s.modLq n (fun q => { q with stopped := true }))
      else .done oOk 0 { s with fw := { s.fw with lqs := Assoc.erase n s.fw.lqs } }
    else match s.pagePart f with
    | none => .done oBadArg 0 s
    | some p =>
      let k := tqKey p n
      if 1024 ≤ n ∨ !(s.tq k).owned then .done oBadArg 0 s
      else if s.tqRuns k then .runs (s.modTq k (fun t => { t with resident := false }))
      else .done oOk 0 { s with fw := { s.fw with tqs := Assoc.erase k s.fw.tqs } }))

/-! ### Dumps, journal, attestation -/

/-- DUMP_GRANT (R358, R371). -/
def execDumpGrant (f : Nat) (s : State) : Out :=
  .next (s.runCmd f 0x0B (fun s x => quick (
    let p := argField x 0 2
    let rel := argField x 2 1 = 1
    if !argsClear x [(0, 3), (8, 8)] ∨ 2 ≤ argField x 2 1 ∨ !(s.part p).exists_ then (oBadArg, 0, s)
    else if !(isPf f || (rel && decide ((s.func f).part = some p))) then (oDenied, 0, s)
    else
      let hit (d : Option DumpSlot) : Bool := match d with | some d => decide (d.seq = argField x 8 8) | none => false
      if !(s.part p).dumps.any hit then (oNotFound, 0, s)
      else (oOk, 0, s.modPart p (fun y => { y with dumps := y.dumps.map (fun d =>
        if hit d then (if rel then none else d.map (fun d => { d with granted := true })) else d) })))))

/-- JOURNAL_READ (R373): the records that the journal still keeps, copied to a host buffer. -/
def execJournalRead (f : Nat) (s : State) : Out :=
  .next (s.runCmd f 0x0C (fun s x => quick (
    let p := argField x 12 2
    let buf := argField x 16 8
    if !argsClear x [(0, 14), (16, 8)] ∨ buf % 64 ≠ 0 ∨ (p ≠ 0xFFFF ∧ !(s.part p).exists_) then (oBadArg, 0, s)
    else if (if p = 0xFFFF then !isPf f else !s.own f p) then (oDenied, 0, s)
    else
      let l := s.journal (if p = 0xFFFF then 48 else p)
      let out := ((l.drop (l.length - journalSize)).filter (fun r => decide (argField x 0 8 ≤ r.seq))).take (argField x 8 4)
      (oOk, out.length, s.hostWrite buf (out.flatMap JournalRec.bytes)))))

/-- The ATTEST report (R372). -/
def State.attestation (s : State) (nonce : Nat) : List Byte :=
  let body := leBytes 4 0x31545441 ++ leBytes 2 1 ++ leBytes 2 Config.stepping ++ leBytes 2 s.modid ++ leBytes 6 0
    ++ padTo 32 (Config.romDigest.take 32) ++ leBytes 32 nonce
    ++ (List.range 48).flatMap (fun p => leBytes 8 (if (s.part p).exists_ then (s.part p).piers + 2 ^ 63 else 0))
  let sign (len : Nat) : List Byte := padTo 512 (body ++ leBytes 2 len)
  let n := (Config.sigMake 0 (Config.shake256 (sign 0) 64)).length
  let sig := (Config.sigMake 0 (Config.shake256 (sign (min n 1536)) 64)).take 1536
  padTo 2048 (sign (min n 1536) ++ sig)

/-- ATTEST (R371, R372). -/
def execAttest (f : Nat) (s : State) : Out :=
  .next (s.runCmd f 0x0D (fun s x => quick (
    if !argsClear x [(0, 40)] ∨ argField x 32 8 % 64 ≠ 0 then (oBadArg, 0, s)
    else (oOk, 0, s.hostWrite (argField x 32 8) (s.attestation (argField x 0 32))))))

/-! ### RESOLVE and PROXY_DONE (R172, R342, R365, R384) -/

/-- Whether a status waits for a record. -/
def Status.waitsOn (st : Status) (seq : Nat) : Bool :=
  match st with
  | .pri _ n | .replay n => decide (n = seq)
  | .absent | .run | .ats _ | .unposted _ | .atomic _ | .proxy _ | .remote _ _ _ | .halted | .fatal _ => false

/-- Lets an agent of a partition go on when its status meets a test. -/
def State.release (s : State) (p : Nat) (test : Status → Bool) (put : Agent → Agent) : State :=
  let go (a : Agent) : Agent := if a.part = p ∧ test a.status then put { a with status := .run } else a
  { s with
    agents := s.agents.map (fun a => (a.1, go a.2))
    work := { s.work with tasks := s.work.tasks.map (fun t => (t.1, { t.2 with saved := t.2.saved.map go })) } }

/-- Changes the copies of the Quays of a partition. -/
def State.mapCopies (s : State) (p : Nat) (h : Copy → Copy) : State :=
  { s with quays := s.quays.map (fun y =>
      if (s.part p).piers.testBit (y.1 / 4) then
        (y.1, { y.2 with
          berths := y.2.berths.map (fun b => { b with copies := b.copies.map h })
          tcopies := y.2.tcopies.map (fun c => (c.1, h c.2)) })
      else y) }

/-- Changes the acts of a partition. -/
def State.mapJobs (s : State) (p : Nat) (h : Job → Job) : State :=
  { s with work := { s.work with jobs := s.work.jobs.map (fun j => if j.part = p then h j else j) } }

/-- Marks a record RESOLVED and lets what waits for it go on. -/
def State.resolveRecord (s : State) (p seq : Nat) : State :=
  let s := s.modPart p (fun x => { x with ring := x.ring.map (fun r => if r.record.seq = seq then { r with resolved := true } else r) })
  let s := s.release p (fun st => st.waitsOn seq) id
  let s := s.mapCopies p (fun c => if c.stall = some seq then { c with stall := none, group := none } else c)
  (s.mapJobs p (fun j => if j.stall = some seq then { j with stall := none, group := none } else j)).settle

/-- Whether the record of a number is one that RESOLVE may name: a replayable one that has been posted. -/
def State.resolvable (s : State) (p seq : Nat) : Bool :=
  (s.part p).ring.any (fun r => decide (r.record.seq = seq) && r.record.flags.testBit 1 && !r.resolved)

/-- RESOLVE (R342). -/
def execResolve (f : Nat) (s : State) : Out :=
  .next (s.runCmd f 0x0E (fun s x => quick (
    match s.pagePart f with
    | none => (oBadArg, 0, s)
    | some p =>
      if !argsClear x [(0, 4)] ∨ !s.resolvable p (argField x 0 4) then (oBadArg, 0, s)
      else (oOk, 0, s.resolveRecord p (argField x 0 4)))))

/-- The new value that a host operation gives (R60). -/
def hostNew (op : HostOp) (w old x y : Nat) : Option Nat :=
  match op with
  | .fetchAdd => some ((old + x) % 2 ^ w)
  | .swap => some x
  | .cas => if old = x then some y else none

/-- Performs a host atomic at its bus address: the old value and the state. -/
def State.hostAtomic (s : State) (h : HostAtomic) : Nat × State :=
  let old := leNat (s.hostBytes h.bus h.width)
  (old, match hostNew h.op (8 * h.width) old h.x h.y with | some v => s.hostWrite h.bus (leBytes h.width v) | none => s)

/-- PROXY_DONE (R365, R371, R384): the driver has performed the entry's elements and written their old values into its element list;
STATE becomes 2, the record is RESOLVED, and the agent goes on and takes the values that stand there. -/
def execProxyDone (f : Nat) (s : State) : Out :=
  .next (s.runCmd f 0x0F (fun s x => quick (
    let k := argField x 0 1
    match s.pagePart f with
    | none => (oBadArg, 0, s)
    | some p =>
      let e := (s.part p).mail.toList.getD k {}
      if !argsClear x [(0, 1)] ∨ 64 ≤ k ∨ e.state ≠ 1 then (oBadArg, 0, s)
      else
        let s := (s.putEntry p k { e with state := 2 }).modPart p (fun y => { y with
          ring := y.ring.map (fun q => if q.record.seq = e.seq then { q with resolved := true } else q) })
        (oOk, 0, s.release p (fun st => decide (st = .proxy k)) id))))

/-! ### HWC_ALLOT (R351, R371) -/

/-- Tells the other members of a partition's domain group which comparators of a die are allotted to it (R351). -/
def State.tellAllot (s : State) (d p : Nat) : State :=
  let x := s.part p
  let m := (s.die d).comp.toList.zipIdx.foldl (fun m c => if c.1.part = some p then m + 2 ^ c.2 else m) 0
  x.peers.foldl (fun s y => s.sendTo y.1 (.allot x.group x.groupKey d m)) s

/-- HWC_ALLOT (R351, R371). -/
def execHwcAllot (f : Nat) (s : State) : Out :=
  .next (s.runCmd f 0x10 (fun s x => quick (
    let d := argField x 0 1
    let m := argField x 1 1
    let p := argField x 2 2
    if !isPf f then (oDenied, 0, s)
    else if !argsClear x [(0, 4)] ∨ 8 ≤ d ∨ (p ≠ 0xFFFF ∧ !(s.part p).exists_) then (oBadArg, 0, s)
    else
      let cs := (s.die d).comp.toList.zipIdx.filter (fun c => m.testBit c.2)
      if p ≠ 0xFFFF ∧ cs.any (fun c => match c.1.part with | some q => decide (q ≠ p) | none => false) then (oBusy, 0, s)
      else
        let told := ((if p = 0xFFFF then [] else [p]) ++ cs.filterMap (fun c => c.1.part)).dedup
        let s := cs.foldl (fun s c => s.modDie d (fun y => { y with
          comp := setIx y.comp c.2 (if p = 0xFFFF then {} else { c.1 with part := some p }) })) s
        (oOk, 0, told.foldl (fun s p => s.tellAllot d p) s))))

/-- KEY_PROVISION (R372): the management controller provisions a key that a handle names. -/
def execKeyProvision (k : Nat) (s : State) : Out :=
  .next (if s.hasKey k then s else { s with fw := { s.fw with keys := k :: s.fw.keys } })

end Sys2Proof.Machine
end

