-- ==== Sys2Proof/Machine/Device.lean ====
section
/-! DEFINITION. The function pages (R361-R363, R370), the host's accesses through BAR2 (R360), what the host and the links answer
(R166-R168, R364, R379, R380), trap records that wait (R343), home comparators (R351, R388), resets. -/

namespace Sys2Proof.Machine

/-! ### The steps that write a register of a function page (R362) -/

/-- CRCTL_WRITE (R370). -/
def execCrctlWrite (f : Nat) (v : Word) (s : State) : Out := .next (s.wrCrctl f v)
/-- CRBASE_WRITE (R370). -/
def execCrbaseWrite (f : Nat) (v : Word) (s : State) : Out := .next (s.wrCrbase f v)
/-- CRTAIL_WRITE (R370). -/
def execCrtailWrite (f : Nat) (v : Word) (s : State) : Out := .next (s.wrCrtail f v)
/-- TQCONS_WRITE (R342). -/
def execTqconsWrite (f : Nat) (v : Word) (s : State) : Out := .next (s.wrTqcons f v)
/-- INVGO (R363). -/
def execInvgo (f : Nat) (v : Word) (s : State) : Out := .next (s.wrInvgo f v)
/-- ATOMLACK_WRITE (R364). -/
def execAtomlackWrite (v : Word) (s : State) : Out := .next (s.clearLack v)
/-- CTXIRQ (R339, R362). -/
def execCtxirq (f : Nat) (v : Word) (s : State) : Out := .next (s.wrCtxirq f v)
/-- QTAIL (R367, R368). -/
def execQtail (f : Nat) (q : Nat) (v : Word) (s : State) : Out := .next (s.wrQtail f q v)
/-- REGISTER_WRITE (R362): a write of 8 bytes at an offset of a function page. -/
def execRegisterWrite (f : Nat) (off : Nat) (v : Word) (s : State) : Out := .next (s.devWrite f off v)

/-- WHASH_WRITE (R220, R221): a legal write takes effect once the Wharf is idle; while it waits, the accesses that arrive are held. -/
def execWhashWrite (q : Nat) (ix : Nat) (v : Word) (s : State) : Out :=
  .next (let x : Word := v &&& BitVec.ofNat 64 (csrMask (0x320 + ix))
    if 3 ≤ ix ∨ !whashLegal (whashMasks ((s.qy q).whash.toList.set ix x)) then s
    else if s.wharfBusy q then (s.holdWharf q).modQy q (fun y => { y with hashPend := some (ix, x) })
    else s.whashSet q ix x)

/-! ### Invalidation (R84, R165, R363) -/

/-- Whether an offset of window 0x00 lies in an invalidation. -/
def Inval.covers (v : Inval) (off : Nat) : Bool := v.all || decide (v.base ≤ off ∧ off < v.base + v.size)
/-- Whether a range meets an invalidation. -/
def Inval.meets (v : Inval) (base size : Nat) : Bool := v.all || decide (base < v.base + v.size ∧ v.base < base + size)

/-- A strip aborted outside a slot (R84, R93). -/
def Agent.abort (a : Agent) : Agent := a.restart.aborted

/-- Whether an invalidation aborts a strip: it buffers a byte of a kind, and NOABORT is clear. An agent that has stopped at a fatal
trap keeps its buffer until its task ends. -/
def Agent.abortable (a : Agent) (held : BufByte → Bool) : Bool :=
  a.strip.buf.any held && !a.strip.noabort && (match a.status with | .fatal _ => false | _ => true)

/-- Aborts the strips of some agents that buffer a byte of a kind. -/
def State.abortWhere (s : State) (who : Agent → Bool) (held : BufByte → Bool) : State :=
  let s := s.agents.foldl (fun s a => if who a.2 && a.2.abortable held then s.abortStrip a.1 else s) s
  { s with work := { s.work with tasks := s.work.tasks.map (fun t =>
      (t.1, { t.2 with saved := t.2.saved.map (fun a => if who a && a.abortable held then a.abort else a) })) } }

/-- Performs every store of some agents. -/
def State.performWhere (s : State) (who : Agent → Bool) : State :=
  s.agents.foldl (fun s a => if who a.2 then s.performAll a.1 else s) s

/-- Whether some agent still buffers a byte of a kind or stands within an instruction that has translated an address of a kind. -/
def State.usesWhere (s : State) (who : Agent → Bool) (held : BufByte → Bool) (at_ : Addr → Bool) : Bool :=
  let uses (a : Agent) : Bool := who a && (a.strip.buf.any held || a.marks.plan.any (fun e => at_ e.2.1))
  s.agents.any (fun a => uses a.2) || s.work.tasks.any (fun t => match t.2.saved with | some a => uses a | none => false)

/-- INVALIDATION_DONE (R165): no translation is cached, the strips are aborted, what used the translations is performed; a strip with
NOABORT set, or an instruction under way, is waited for. -/
def execInvalidationDone (f : Nat) (s : State) : Out :=
  .next (match (s.func f).inval with
    | none => s
    | some v =>
      let p := s.pagePart f
      let who (a : Agent) : Bool := decide (p = some a.part)
      let held (b : BufByte) : Bool := decide (b.va / 2 ^ 64 = 0) && v.covers (b.va % 2 ^ 64)
      let s := { s with tlb := s.tlb.filter (fun t => !(decide (p = some t.part) && v.meets t.base t.size)) }
      let s := s.abortWhere who held
      if s.usesWhere who held (fun a => decide (winOf a = 0) && v.covers (offOf a).toNat) then s
      else (s.performWhere who).modFunc f (fun d => { d with inval := none, invdone := true }))

/-! ### Host translations (R166-R168) -/

/-- The copies of a Quay, those of its berths first. -/
def Quay.allCopies (y : Quay) : List Copy := y.berths.toList.flatMap (fun b => b.copies) ++ y.tcopies.map (fun c => c.2)

/-- Changes every copy of a Quay. -/
def Quay.eachCopy (y : Quay) (h : Copy → Copy) : Quay :=
  { y with berths := y.berths.map (fun b => { b with copies := b.copies.map h }), tcopies := y.tcopies.map (fun c => (c.1, h c.2)) }

/-- The keys under which a host translation is waited for: an agent, the engine of a Quay (16q + 9), an act of the
Harbour Master (from 4,096 on), a DFORCE of a function (3,584 + f), an asynchronous force of a Quay (16q + 10). -/
def dbgKey (f : Nat) : Nat := 3584 + f

/-- Who waits under a key for a host translation, and for which address. -/
def State.atsWait (s : State) (k : Nat) : Option (Actor × Nat) :=
  if 4096 ≤ k then
    (s.work.jobs.find? (fun j => decide (j.key = k - 4096))).bind (fun j => j.ats.map (fun va => (s.hmActor j.part j.fail, va)))
  else if dbgKey 0 ≤ k then
    let d := s.func (k - dbgKey 0)
    d.dbgAts.map (fun va => (s.tileActor (byteField (leNat (d.dbgCmd.toList)) 2 2) d.dbgFail, va))
  else if k % 16 = 10 then
    ((s.tile (quayOf k)).asyncs.find? (fun f => f.ats.isSome)).bind (fun f => f.ats.map (fun va => (s.tileActor (quayOf k) f.fail, va)))
  else if k % 16 = 9 then
    ((s.qy (quayOf k)).allCopies.find? (fun c => c.ats.isSome)).bind (fun c => c.ats.map (fun va => (s.copier (quayOf k) c, va)))
  else match (s.ag k).status with
  | .ats va => some (s.actor k, va)
  | _ => none

/-- Lets go on what waited under a key, with the page that it has seen fail. -/
def State.atsGo (s : State) (k va : Nat) (fail : Option (Nat × Nat)) : State :=
  if 4096 ≤ k then
    let put (j : Job) : Job := if j.key = k - 4096 then { j with ats := none, fail := fail.orElse (fun _ => j.fail) } else j
    ({ s with work := { s.work with jobs := s.work.jobs.map put } } : State).settle
  else if dbgKey 0 ≤ k then
    s.modFunc (k - dbgKey 0) (fun d => { d with dbgAts := none, dbgFail := fail.orElse (fun _ => d.dbgFail) })
  else if k % 16 = 10 then
    let put (f : AsyncForce) : AsyncForce := if f.ats = some va then { f with ats := none, fail := fail.orElse (fun _ => f.fail) } else f
    s.setTile (quayOf k) { s.tile (quayOf k) with asyncs := (s.tile (quayOf k)).asyncs.map put }
  else if k % 16 = 9 then
    s.modQy (quayOf k) (fun y => y.eachCopy (fun c => if c.ats = some va then { c with ats := none, fail := fail.orElse (fun _ => c.fail) } else c))
  else s.modAg k (fun a => { a with
    status := .run, marks := { a.marks with atsFail := fail.orElse (fun _ => a.marks.atsFail) } })

/-- ATS_TRANSLATION_COMPLETION (R166): the answer is cached at its size and what waited goes on, or the page has failed. An answer
for another address than the one waited for is none. -/
def execAtsTranslationCompletion (g : Nat) (c : AtsAnswer) (s : State) : Out :=
  .next (match s.atsWait g with
    | none => s
    | some (by_, va) =>
      match c with
      | .failed => s.atsGo g va (some (va / 2 ^ 12, 0x02))
      | .mapped base size bus r w =>
        if size % 2 ^ 12 ≠ 0 ∨ base % 2 ^ 12 ≠ 0 ∨ va < base ∨ base + size ≤ va then s
        else
          let e : AtsEntry := ⟨by_.part, by_.func, by_.die, by_.pasid, base, size, bus, r, w⟩
          let s := s.modLink (fun l => { l with ats := e :: l.ats.filter (fun x =>
            !decide (x.part = e.part ∧ x.func = e.func ∧ x.die = e.die ∧ x.pasid = e.pasid ∧ x.base < base + size ∧ base < x.base + x.size)) })
          s.atsGo g va none)

/-- PAGE_REQUEST_RESPONSE (R167, R172): with Success the replay requests new translations; otherwise the page has failed. The requests that
waited for the allocation are sent. -/
def execPageRequestResponse (k : Nat) (ok : Bool) (s : State) : Out :=
  .next (match Assoc.find? k s.link.groups with
    | none => s
    | some grp =>
      if !grp.sent then s else
      let fail : Option (Nat × Nat) := if ok then none else some (grp.pages.headD 0, 0x03)
      let hit (e : AtsEntry) : Bool :=
        decide (e.func = grp.func ∧ e.die = grp.die ∧ e.pasid = grp.pasid) && grp.pages.any (fun n => decide (e.base ≤ n * 2 ^ 12 ∧ n * 2 ^ 12 < e.base + e.size))
      let s := s.modLink (fun l => { l with groups := Assoc.erase k l.groups, ats := if ok then l.ats.filter (fun e => !hit e) else l.ats })
      let s := s.sendGroups
      let go (a : Agent) : Agent := match a.status with
        | .pri n _ => if n = k then
            { a with status := .run, marks := { a.marks with atsFail := fail.orElse (fun _ => a.marks.atsFail) } } else a
        | _ => a
      let copy (c : Copy) : Copy := if c.group = some k then { c with stall := none, group := none, fail := fail.orElse (fun _ => c.fail) } else c
      let job (j : Job) : Job := if j.group = some k then { j with stall := none, group := none, fail := fail.orElse (fun _ => j.fail) } else j
      ({ s with
        agents := s.agents.map (fun a => (a.1, go a.2))
        quays := s.quays.map (fun y => (y.1, y.2.eachCopy copy))
        work := { s.work with
          tasks := s.work.tasks.map (fun t => (t.1, { t.2 with saved := t.2.saved.map go }))
          jobs := s.work.jobs.map job } } : State).settle)

/-- Whether an agent's host accesses go through a port under a PASID. -/
def State.hostsOn (s : State) (p pasid : Nat) (a : Agent) : Bool :=
  decide (portOf (s.ctx a.ctx).func = p ∧ (s.ctx a.ctx).pasid = pasid)

/-- ATS_INVALIDATE_REQUEST (R84, R168): the translations covered are dropped and the strips are aborted; the completion follows. -/
def execAtsInvalidateRequest (p : Nat) (pasid : Nat) (va : Nat) (size : Nat) (s : State) : Out :=
  .next (let hit (e : AtsEntry) : Bool :=
      decide (portOf e.func = p ∧ e.pasid = pasid ∧ e.base < va + size ∧ va < e.base + e.size)
    let held (b : BufByte) : Bool := decide (b.va / 2 ^ 64 = 1 ∧ va ≤ b.va % 2 ^ 64 ∧ b.va % 2 ^ 64 < va + size)
    let s1 := s.modLink (fun l => { l with
      ats := l.ats.filter (fun e => !hit e), invalidating := l.invalidating ++ [(p, pasid, va, size)] })
    s1.abortWhere (s.hostsOn p pasid) held)

/-- INVALIDATE_COMPLETION (R168): returned once no strip buffers a byte and no instruction under way uses an address of the range,
and every write has been sent. -/
def execInvalidateCompletion (p : Nat) (s : State) : Out :=
  .next (match s.link.invalidating.find? (fun i => decide (i.1 = p)) with
    | none => s
    | some i =>
      let lo := i.2.2.1
      let hi := i.2.2.1 + i.2.2.2
      let who := s.hostsOn p i.2.1
      let held (b : BufByte) : Bool := decide (b.va / 2 ^ 64 = 1 ∧ lo ≤ b.va % 2 ^ 64 ∧ b.va % 2 ^ 64 < hi)
      if s.usesWhere who held (fun a => decide (winOf a = 1 ∧ lo ≤ (offOf a).toNat ∧ (offOf a).toNat < hi)) then s
      else (s.performWhere who).modLink (fun l => { l with invalidating := l.invalidating.erase i }))

/-! ### Host atomics (R60, R364) -/

/-- ATOMICOP_COMPLETION (R60, R186, R364): with Unsupported Request the port's bit is set and the instruction traps when it goes on;
else the operation has been performed and gives its old value. -/
def execAtomicopCompletion (g : Nat) (ur : Bool) (s : State) : Out :=
  .next (match (s.ag g).status with
    | .atomic h =>
      if ur then
        let s := s.modLink (fun l => { l with atomlack := l.atomlack ||| BitVec.ofNat 2 (2 ^ s.portOfAgent g) })
        s.modAg g (fun a => { a with status := .run, marks := { a.marks with ur := true } })
      else
        let r := s.hostAtomic h
        r.2.modAg g (fun a => { a with status := .run, marks := { a.marks with done := a.marks.done ++ [(h.elem, r.1)] } })
    | _ => s)

/-! ### BAR2 (R360) -/

/-- The address of a byte of the aperture, or none outside it. -/
def State.bar2Addr (s : State) (p off n : Nat) : Option Addr :=
  if off + n ≤ 2 ^ 36 then some (mkAddr 0 ((s.part p).bar2 + off)) else none

/-- What a host read or AtomicOp returns; the empty list stands for Completer Abort. -/
def State.answerHost (s : State) (bs : List Byte) : State := s.modLink (fun l => { l with barData := bs })

/-- The places of a host access through the aperture, checked as an agent's access (R360). The mailbox and its proxy area lie at PXBASE in
reserved memory, which no page table maps (R376, log entry 51). -/
def State.bar2Places (s : State) (p : Nat) (a : Addr) (n al : Nat) (k : Acc) : Except RowFail (List (Place × Nat)) :=
  let o := (offOf a).toNat
  let b := (Config.proxyBase p).toNat
  if b ≤ o ∧ o + n ≤ b + mailSize then (if o % al = 0 then .ok [(⟨.fabric, s.mailAt p + (o - b)⟩, n)] else .error (.trap Cause.align 0 a))
  else s.rowSide (s.hmActor p none) a n al k

/-- The value of such an access with its places; bad data fails as a load's does. -/
def State.bar2Value (s : State) (p : Nat) (a : Addr) (n al : Nat) (k : Acc) : Option (List Place × Nat) :=
  match s.bar2Places p a n al k with
  | .error _ => none
  | .ok ps =>
    let l := spread ps
    if l.any (fun x => s.uncorrectable x || s.poisoned x) then none else some (l, leNat (l.map s.rawByte))

/-- BAR2_READ (R360). -/
def execBar2Read (f : Nat) (off : Nat) (n : Nat) (s : State) : Out :=
  .next (s.answerHost (((s.pagePart f).bind (fun p => (s.bar2Addr p off n).bind (fun a =>
    (s.bar2Value p a n 1 Acc.load).map (fun r => leBytes n r.2)))).getD []))

/-- Writes bytes line by line; a whole register of a function page is written as a register. -/
def State.hostLand (s : State) (ps : List (Place × Byte)) : State :=
  let lines := (ps.map (fun x => (⟨x.1.space, x.1.addr / 8⟩ : Place))).dedup
  let isDev (l : Place) : Bool := decide (l.space = .fabric) && (devAt (8 * l.addr)).isSome
  let whole := ((ps.filter (fun x => !isDev ⟨x.1.space, x.1.addr / 8⟩)).map (fun x => (⟨x.1.space, x.1.addr / 64⟩ : Place))).dedup
  let s := whole.foldl (fun s l => s.writeBytes (ps.filter (fun x => decide (x.1.space = l.space ∧ x.1.addr / 64 = l.addr)))) s
  (lines.filter isDev).foldl (fun s l =>
    let fo := (devAt (8 * l.addr)).getD (0, 0)
    let bs := ps.filter (fun x => decide (x.1.space = l.space ∧ x.1.addr / 8 = l.addr))
    s.devStore fo.1 (fo.2 + (match bs with | b :: _ => b.1.addr % 8 | [] => 0)) (bs.map (fun x => x.2))) s

/-- The report of a host write that fails (R360). -/
def State.barReport (s : State) (p : Nat) (c : Nat × Nat) (a : Addr) : State :=
  let r := s.hmRecord (s.hmActor p none) c fInfo a
  s.report p { r with detail := if c.1 = Cause.xlateMiss then 1 else 0 }

/-- BAR2_WRITE (R360): a write that fails is dropped and reported. -/
def execBar2Write (f : Nat) (off : Nat) (data : List Byte) (s : State) : Out :=
  .next (match s.pagePart f with
    | none => s
    | some p =>
      match s.bar2Addr p off data.length with
      | none => s
      | some a =>
        match s.bar2Places p a data.length 1 Acc.store with
        | .error (.trap c sub x) => s.barReport p (c, sub) x
        | .error (.ats _) => s
        | .ok ps => (s.hostLand ((spread ps).zip data)).tellHomes 3 0 0xFFFF ((spread ps).zip data))

/-- Sends a host's AtomicOp to its home on another module, whose response is returned to the host (R360, R380). -/
def State.askHost (s : State) (op : HostOp) (w : Nat) (p : Place) (x y : Nat) : State :=
  let fn : Nat := match op with | .fetchAdd => 0 | .swap => 1 | .cas => 2
  let m : LinkMsg := .amo s.link.nextTag fn 3 0 0xFFFF p.addr w x y
  ((s.answerHost []).modLink (fun l => { l with nextTag := (l.nextTag + 1) % 2 ^ 28, barAsk := some m })).sendTo (p.addr / 2 ^ 44) m

/-- BAR2_ATOMIC (R360): an AMO at its location; the old value is returned. An AtomicOp of another width than its operation has, or one
that fails, completes with Completer Abort. -/
def execBar2Atomic (f : Nat) (off : Nat) (op : HostOp) (w : Nat) (x y : BitVec 128) (s : State) : Out :=
  .next (let wOk : Bool := decide (w = 4 ∨ w = 8 ∨ (w = 16 ∧ op = .cas))
    match s.pagePart f with
    | none => s.answerHost []
    | some p =>
      match s.bar2Addr p off w with
      | none => s.answerHost []
      | some a =>
        if !wOk then s.answerHost [] else
        match s.bar2Value p a w w Acc.atomic with
        | none => s.answerHost []
        | some (ps, old) =>
          let m := 2 ^ (8 * w)
          if s.away (ps.headD ⟨.host, 0⟩) then s.askHost op w (ps.headD ⟨.host, 0⟩) (x.toNat % m) (y.toNat % m) else
          let s := match hostNew op (8 * w) old (x.toNat % m) (y.toNat % m) with
            | none => s
            | some v => (s.hostLand (ps.zip (leBytes w v))).noteWrite 3 0 0xFFFF 0xFFFF false (ps.headD ⟨.host, 0⟩) w
          s.answerHost (leBytes w old))

/-! ### Records that wait (R343), home comparators (R351, R388) -/

/-- The position of the record that is posted next: a fatal one whose source has none before it, then the first. -/
def Part.nextHeld (p : Part) : Option Nat :=
  let fatal := p.held.zipIdx.find? (fun r => r.1.flags.testBit 2 && !((p.held.take r.2).any (fun q => q.sameSource r.1)))
  match fatal with
  | some r => if 1 ≤ p.slotsFree then some r.2 else none
  | none => if p.held ≠ [] ∧ 3 ≤ p.slotsFree then some 0 else none

/-- A record as it is posted: one of a home comparator holds the cycle of its die at that time (R340). -/
def State.stamp (s : State) (r : TrapRecord) : TrapRecord :=
  if r.cause = Cause.watchEngine then { r with detail := r.detail % 2 ^ 64 + (s.die (r.quay - 0x8000)).cycle.toNat * 2 ^ 64 } else r

/-- TRAP_RECORD_POST (R343): a record that waits is posted when there is room: one that is held, else that of a stalled source. -/
def execTrapRecordPost (p : Nat) (s : State) : Out :=
  .next (let x := s.part p
    match x.nextHeld with
    | some k => s.modPart p (fun y => ({ y with held := y.held.eraseIdx k }).post (s.stamp (y.held.getD k (s.hmRecord (s.hmActor p none) (0, 0) 0 0))))
    | none =>
      if x.slotsFree < 3 then s else
      match s.agents.findSome? (fun a => match a.2.status with
        | .unposted r => if a.2.part = p then some (a.1, r) else none
        | _ => none) with
      | some (g, r) => s.postReplay g r
      | none => (s.mapJobs p (fun j => if j.stall = some 0 then { j with stall := none } else j)).settle)

/-- The record of a hit (R340, R388), before it is stamped. -/
def State.hitRecord (s : State) (d : Nat) (h : CompHit) : TrapRecord :=
  { cause := Cause.watchEngine, sub := 0, flags := fInfo, src := 6, srcix := h.index, quay := 0x8000 + d, seq := 0, module := s.modid
    inner := 0, win := 0, pc := 0, pc2 := 0, value := h.value
    detail := h.kind + h.slot * 2 ^ 8 + h.bytes * 2 ^ 16 + h.mod * 2 ^ 32 + h.quay * 2 ^ 48, cycle := h.cycle }

/-- WATCH_ENGINE (R335, R351, R388): the oldest hit of a die's comparators is reported to the partition that had the comparator at the
match, and sent to the debuggers attached to its contexts. -/
def execWatchEngine (d : Nat) (s : State) : Out :=
  .next (match (s.die d).hits with
    | [] => s
    | h :: t =>
      let r := s.stamp (s.hitRecord d h)
      ((s.ctxsOf h.part).filter (fun c => c.2.debugger)).foldl (fun s c => s.sendDebugger c.1 r)
        ((s.modDie d (fun y => { y with hits := t })).report h.part r))

/-! ### Links, management, resets (R12, R68, R362, R364, R373, R379, R380) -/

/-- The number of no partition. -/
def noPart : Nat := 2 ^ 16

/-- The member of a domain group on this module. -/
def State.memberOf (s : State) (group key : Nat) : Option Nat :=
  (List.find? (fun (p : Nat × Part) => p.2.exists_ && decide (group ≠ 0 ∧ p.2.group = group ∧ p.2.groupKey = key)) s.fw.parts).map (fun (p : Nat × Part) => p.1)

/-- A place of this module's memory, as a message of another module may name it. -/
def State.homePlace (s : State) (pa : Nat) : Option Place :=
  if pa / 2 ^ 44 = s.modid ∧ (devAt pa).isNone then some ⟨.fabric, pa⟩ else none

/-- A store of another module performed at its home here (R203, R351). -/
def State.takeStore (s : State) (src kind slot quay pa : Nat) (data : List Byte) : State :=
  match s.homePlace pa with
  | none => s
  | some p =>
    let s := s.writeBytes (placeBytes p data)
    if kind = 2 then s.noteWrite 2 slot src quay true p data.length else s

/-- An atomic of another module performed at its home here; its old value is sent back. A host that writes through another module has no
module of its own (R388). -/
def State.takeAmo (s : State) (src tag fn kind slot quay pa width x y : Nat) : State :=
  match s.homePlace pa with
  | none => s
  | some p =>
    let o := msgOp fn
    let old := leNat (s.bytes p width)
    let s := match o.1.new (8 * width) o.2 old x y with
      | some v => (s.writeBytes (placeBytes p (leBytes width v))).noteWrite kind slot (if kind = 3 then 0xFFFF else src) quay false p width
      | none => s
    s.sendTo src (.response tag old)

/-- The FWAIT or FGET of another module's task, tested at the home here (R317): a future that is set is answered with what it holds; for one
that is not, WAITERS is set and a wait entry taken, or a mooring record of the member of the partition's domain group here. -/
def State.takeFwait (s : State) (src tag kind slot quay task pa group key : Nat) (park : Bool) : State :=
  match s.homePlace pa with
  | none => s
  | some p =>
    let w := s.futWord p
    if futSt w ≠ 0 then s.sendTo src (.answer tag (futSt w) (s.futValue p).toNat)
    else if !park then s.sendTo src (.answer tag 0 0)
    else
      let s := (s.writeBytes (placeBytes (p.plus 8) (leBytes 8 (w ||| 4)))).noteWrite kind slot src quay false p 16
      match s.takeWait ((s.memberOf group key).getD noPart) (awayTask src task) pa with
      | some s' => s'.sendTo src (.answer tag 5 0)
      | none => s.sendTo src (.answer tag 4 0)

/-- The setting of a future of this home by another module's agent or Harbour Master (R318, R324). -/
def State.takeFset (s : State) (src tag kind slot quay pa v st : Nat) : State :=
  match s.homePlace pa with
  | none => s
  | some p =>
    let c := setCode (s.futWord p)
    if c ≠ 0 then s.sendTo src (.answer tag c 0)
    else
      let s := s.putFuture p (BitVec.ofNat 64 v) st
      (if kind < 4 then s.noteWrite kind slot src quay false p 16 else s).sendTo src (.answer tag 0 0)

/-- What this module sees of the memory of another after an atomic that it has asked for. -/
def State.seeAmo (s : State) (x : LinkMsg) (old : Nat) : State :=
  match x with
  | .amo _ fn _ _ _ pa width x y =>
    let o := msgOp fn
    match o.1.new (8 * width) o.2 old x y with
    | some v => s.writeBytes (placeBytes ⟨.fabric, pa⟩ (leBytes width v))
    | none => s
  | _ => s

/-- The agent that waits for the answer to a request, with the element and the request. -/
def State.asker (s : State) (tag : Nat) : Option (Nat × Nat × LinkMsg) :=
  s.agents.findSome? (fun a => match a.2.status with
    | .remote t e x => if t = tag then some (a.1, e, x) else none
    | _ => none)

/-- The old value of an atomic that this module has asked for: its agent goes on, or the host is answered (R60, R360). -/
def State.takeResponse (s : State) (tag old : Nat) : State :=
  match s.asker tag, s.link.barAsk with
  | some (g, e, x), _ => (s.seeAmo x old).modAg g (fun a => { a with
      status := .run, marks := { a.marks with done := a.marks.done ++ [(e, old)] } })
  | none, some x =>
    if x.tag = tag then ((s.seeAmo x old).modLink (fun l => { l with barAsk := none })).answerHost (leBytes (x.words.getD 5 0) old) else s
  | none, none => s

/-- How a future of another module was found by a request: its agent goes on, with the entry of a task that parks; a setting by the
Harbour Master has been made, or is reported (R317, R400). -/
def State.takeAnswer (s : State) (tag code v : Nat) : State :=
  match s.asker tag with
  | some (g, _, _) =>
    let pa := match (s.ag g).marks.plan with | p :: _ => p.2.2.addr | [] => 0
    let s := if code = 5 then s.modDie (s.homeKey pa) (fun d => { d with waits := d.waits ++ [(pa, (s.ag g).tkey)] }) else s
    s.modAg g (fun a => { a with status := .run, marks := { a.marks with done := [(0, code), (1, v)] } })
  | none =>
    match s.work.jobs.find? (fun j => decide (j.asked = some tag)) with
    | none => s
    | some j =>
      let s := { s with work := { s.work with jobs := s.work.jobs.filter (fun x => x.key ≠ j.key) } }
      match j.act with
      | .setFuture fut v st =>
        let by_ := s.hmActor j.part j.fail
        if code ≠ 0 then s.hmReport by_ (Cause.futureDoubleSet, code) fut
        else match s.futurePlace by_ fut with
        | .ok p => s.putFuture p v st
        | .error _ => s
      | _ => s

/-- The wake-up of a future of another module, with what this module sees of it (R318). -/
def State.takeWake (s : State) (pa st v : Nat) : State :=
  let s := if st = 3 then s else s.putFuture ⟨.fabric, pa⟩ (BitVec.ofNat 64 v) st
  s.modDie (s.homeKey pa) (fun d => { d with wakes := d.wakes ++ [⟨pa, st, BitVec.ofNat 64 v⟩] })

/-- Changes the group that a message names. -/
def State.modNamed (s : State) (origin launch level : Nat) (key : List Nat) (h : Group → Group) : State :=
  match s.namedGroup origin launch level key with
  | none => s
  | some k => s.modGroup k h

/-- An arrival of another module at a barrier here; one at a group that has not been formed here yet is kept (R328, R378). -/
def State.takeArrival (s : State) (e : Early) : State :=
  match s.namedGroup e.origin e.launch e.level e.key with
  | none => { s with work := { s.work with early := s.work.early ++ [e] } }
  | some k =>
    let s := s.modGroup k (fun g => g.arriveAway e.count e.last e.timeout)
    { s with work := { s.work with groups := s.work.groups.filter (fun g => !g.over) } }

/-- A participant on another module has been halted, or is no longer: the timeout starts again when the last such halt ends (R330). -/
def Group.halt (g : Group) (on : Bool) : Group :=
  if on then { g with stopped := g.stopped + 1 }
  else { g with stopped := g.stopped - 1, posted := g.posted && decide (1 < g.stopped) }

/-- An instance that another module places here: its Harbour Master starts it when it can (R378). -/
def State.takeInstance (s : State) (group key : Nat) (r : RemoteStart) : State :=
  match s.memberOf group key with
  | none => s
  | some p =>
    let r := { r with part := p }
    ({ s with work := { s.work with placing := s.work.placing ++ [(r, s.work.nextReady)], nextReady := s.work.nextReady + 1 } } : State).request p
      (.remoteStart r)

/-- The reset of a member of a domain group (R377): every launch with instances on it is lost, and its instances here. -/
def State.takeReset (s : State) (src group key : Nat) : State :=
  match s.memberOf group key with
  | none => s
  | some p =>
    let s := s.loseLaunches (fun l => decide (l.part = p) && (l.modules.contains src || decide (l.origin.any (fun o => o.1 = src) = true)))
    { s with
      dies := s.dies.map (fun d => if 8 ≤ d.1 ∧ (d.1 - 8) / 64 = src then
        (d.1, { d.2 with comp := d.2.comp.map (fun c => if c.part = some p then {} else c) }) else d)
      work := { s.work with placing := s.work.placing.filter (fun r => !decide (r.1.module = src ∧ r.1.part = p)) } }

/-- The comparators of another module's die that are allotted to the member of the group there (R351). -/
def State.takeAllot (s : State) (src group key die mask : Nat) : State :=
  match s.memberOf group key with
  | none => s
  | some p => s.modDie (8 + 64 * src + die % 8) (fun d => { d with
      comp := Vector.ofFn (fun i =>
        if mask.testBit i.val then { d.comp[i] with part := some p } else if d.comp[i].part = some p then {} else d.comp[i]) })

/-- A comparator here as a member of its partition's domain group on another module sets it (R351). -/
def State.takeArm (s : State) (group key comp pa mask value : Nat) : State :=
  match s.memberOf group key, s.homePlace pa with
  | some p, some _ => s.modDie (homeDie pa) (fun d =>
      let c := d.comp.toList.getD comp {}
      if c.part = some p then { d with comp := setIx d.comp comp { c with
        line := some (pa / 64), mask := BitVec.ofNat 64 mask, addr := some (BitVec.ofNat 64 value) } } else d)
  | _, _ => s

/-- What a message of another module asks for. -/
def State.takeMsg (s : State) (src : Nat) (x : LinkMsg) : State :=
  match x with
  | .other | .pause _ | .replay => s
  | .store kind slot quay pa data => s.takeStore src kind slot quay pa data
  | .amo tag fn kind slot quay pa width x y => s.takeAmo src tag fn kind slot quay pa width x y
  | .response tag v => s.takeResponse tag v
  | .wait tag kind slot quay task pa group key park => s.takeFwait src tag kind slot quay task pa group key park
  | .fset tag kind slot quay pa v st => s.takeFset src tag kind slot quay pa v st
  | .answer tag code v => s.takeAnswer tag code v
  | .wake pa st v => s.takeWake pa st v
  | .halt o l level key on => s.modNamed o l level key (fun g => g.halt on)
  | .arrive o l level key count last t => s.takeArrival ⟨o, l, level, key, count, last, t⟩
  | .phase o l level key done => s.modNamed o l level key (fun g => if g.phase < done then { g.next with phase := done } else g)
  | .start group key r => s.takeInstance group key r
  | .ended l _ code fail => s.awayEnded l code fail
  | .lost l => s.loseLaunches (fun x => x.origin = some (src, l))
  | .reset group key => s.takeReset src group key
  | .allot group key die mask => s.takeAllot src group key die mask
  | .arm group key comp pa mask value => s.takeArm group key comp pa mask value

/-- A port after a flit that it has taken: the link's own messages pause it, let it go on, or ask for a replay (R379). -/
def Jetty.took (j : Jetty) (src : Nat) (x : LinkMsg) : Jetty :=
  match x with
  | .pause true => { j with paused := true }
  | .pause false => j.resume src
  | .replay => j.again
  | _ => j

/-- FLIT_RECEIVE (R379): a flit with a bad CRC, or past the next one, is discarded and a replay asked for; a duplicate is discarded. The
next one acknowledges what this port has sent, and what its header and payload ask for is done when it is for this module. A receiver that
is short of buffers sends pause until it has done so. -/
def execFlitReceive (p : Nat) (flit : List Byte) (x : LinkMsg) (s : State) : Out :=
  .next (if 64 ≤ p then s else
    let j := Assoc.get {} p s.link.jetty
    let put (s : State) (j : Jetty) : State := s.modLink (fun l => { l with jetty := Assoc.set p j l.jetty })
    let ahead := (flitField flit 252 2 + 2 ^ 16 - j.expect) % 2 ^ 16
    if !flitOk flit then put s (({ j with replay := true } : Jetty).own s.modid .replay)
    else if ahead = 0 then
      let x : LinkMsg := if flitSays flit x then x else .other
      let short := Config.jettyShort s.free
      let j := ({ j with expect := (j.expect + 1) % 2 ^ 16, replay := false } : Jetty).acked (flitField flit 254 2)
      let j := if short then j.own s.modid (.pause true) else j
      let s := put s.useFree (j.took s.modid x)
      let s := if (flitEnds flit).1 = s.modid then s.takeMsg (flitEnds flit).2 x else s
      if short then put s ((Assoc.get {} p s.link.jetty).own s.modid (.pause false)) else s
    else if 2 ^ 15 ≤ ahead ∨ j.replay then s
    else put s (({ j with replay := true } : Jetty).own s.modid .replay))

/-- An imprecise fatal trap (R380): the stores of the agent that have been committed cannot be withdrawn, and none is performed after it. -/
def State.imprecise (s : State) (g : Nat) (t : TrapInfo) : State :=
  ((s.leaveLease g).performAll g).modAg g (fun a => { a with
    status := .fatal (s.record { s.boundary g with pc := a.marks.lastPc } t fFatal), marks := a.marks.clear })

/-- The next row of a copy. -/
def Copy.nextRow (c : Copy) : Nat := ((List.range c.count).find? (fun k => !(c.landed.contains k))).getD 0

/-- Whether the next row of a copy reads or writes the byte at an offset of its window. -/
def Copy.meets (c : Copy) (va : Nat) : Bool :=
  let on (a : Addr) : Bool := decide ((offOf a).toNat ≤ va ∧ va < (offOf a).toNat + c.bytes)
  on (c.srcOf c.nextRow) || (match c.dstOf c.nextRow with | some a => on a | none => false)

/-- A row of the engine of a Quay whose response does not return (R227, R380): it fails like any row, and its issuer is stopped. -/
def State.engineTimeout (s : State) (q va : Nat) (t : TrapInfo) : State :=
  match (s.qy q).berths.toList.zipIdx.findSome? (fun b => match b.1.copies with | c :: _ => if c.meets va then some (c, b.2) else none | [] => none) with
  | some (c, n) => (s.faultCopy q n c c.nextRow t.cause t.sub (mkAddr 0 va)).imprecise c.agent t
  | none => match (s.qy q).tcopies.find? (fun c => c.2.meets va) with
    | some c => s.failTaskRow q c.1 c.2 (.trap t.cause t.sub (mkAddr 0 va))
    | none => s

/-- FABRIC_TIMEOUT (R352, R380): fatal: precisely at the agent's instruction for a load or atomic; imprecisely for a store and for a row of
a Quay's engine (16q + 9). -/
def execFabricTimeout (g : Nat) (st : Bool) (va : Word) (s : State) : Out :=
  .next (let stands : Bool := match (s.ag g).status with | .absent | .fatal _ => false | _ => true
    let t : TrapInfo := { cause := Cause.mchkUe, sub := 3, val := va }
    if g % 16 = 9 then s.engineTimeout (quayOf g) va.toNat t
    else if !stands then s
    else if st then s.imprecise g t
    else if (s.ag g).status = .run then s.takeTrap (s.boundary g) t
    else s)

/-- MODID_ASSIGN (R13, R380): a routable number, before any Quay runs. -/
def execModidAssign (k : Nat) (s : State) : Out :=
  .next (if k < 3072 ∧ s.agents.all (fun a => decide (a.2.status = .absent)) then { s with modid := k } else s)

/-- CLOCK_THROTTLE (R12): the clock of every compute die falls (0) or rises again (any other number) by 100 MHz. How far it falls is open:
the model stops at 100 MHz (DESIGN CHOICE, log entry 13). -/
def execClockThrottle (k : Nat) (s : State) : Out :=
  .next (if k = 0 then (if 100 < s.clock then { s with clock := s.clock - 100 } else s)
    else { s with clock := min 3300 (s.clock + 100) })

/-- PORT_RESET (R364). -/
def execPortReset (p : Nat) (s : State) : Out :=
  .next (if p < 2 then s.clearLack (BitVec.ofNat 64 (2 ^ p)) else s)

/-- FUNCTION_LEVEL_RESET (R362, R373): the function page takes its reset values; the journal survives. -/
def execFunctionLevelReset (f : Nat) (s : State) : Out :=
  .next (s.modFunc f (fun d => { part := d.part }))

/-- MODULE_RESET (R68): every die's cycle is zero, and everything else as after reset. The host's memory is not the module's. -/
def execModuleReset (s : State) : Out :=
  .next { State.reset with link := { mem := s.link.mem }, free := s.free, frees := s.frees, agenda := s.agenda }

end Sys2Proof.Machine
end

