-- ==== Sys2Proof/Machine/Debug.lean ====
section
/-! DEFINITION. The debug port (R355-R357): its slots, the agents a command names, every command. -/

namespace Sys2Proof.Machine

/-! ### Commands and answers (R357) -/

/-- BADARG. -/
abbrev dBadArg : Nat := 1
/-- DENIED. -/
abbrev dDenied : Nat := 2
/-- NOTHALTED. -/
abbrev dNotHalted : Nat := 3
/-- FAULT. -/
abbrev dFault : Nat := 4
/-- BUFSHORT. -/
abbrev dBufShort : Nat := 5
/-- NOTATTACHED. -/
abbrev dNotAttached : Nat := 6

/-- What a debug command comes to: a status, the bytes written to BUF, a value and a state; or it goes on running. -/
inductive DbgEnd where
  | done (status written : Nat) (value : Nat) (s : State)
  | runs (s : State)

/-- A command that succeeds. -/
def dOk (s : State) : DbgEnd := .done 0 0 0 s
/-- A command that is refused. -/
def dErr (c : Nat) (s : State) : DbgEnd := .done c 0 0 s

/-- Writes the response slot, its TAG last, and raises MSI-X vector 2 of the function. -/
def State.respond (s : State) (f status written value tag : Nat) : State :=
  let bs := leBytes 4 status ++ leBytes 4 written ++ leBytes 16 value ++ leBytes 32 0 ++ leBytes 4 tag ++ leBytes 4 0
  (s.modFunc f (fun d => { d with
    dbgResp := Vector.ofFn (fun i => bs.getD i.val 0), dbgBusy := false })).raise (f, 2)

/-- Executes the command in the slot of a function when it has an OP: a context of another partition is answered DENIED, one with no
debugger NOTATTACHED. A command of no OP is answered BADARG, whichever is looked for. -/
def State.runDbg (s : State) (f op : Nat) (body : State → Nat → Nat → DbgEnd) : State :=
  let d := s.func f
  if !d.dbgBusy then s else
  let x := leNat d.dbgCmd.toList
  let code := byteField x 0 1
  let known := decide (1 ≤ code ∧ code ≤ 0x0F)
  if known && decide (code ≠ op) then s
  else
    let c := byteField x 4 4
    let z := s.ctx c
    let r : DbgEnd :=
      if !z.exists_ ∨ s.pagePart f ≠ some z.part then dErr dDenied s
      else if !known then dErr dBadArg s
      else if code ≠ 1 ∧ !z.debugger then dErr dNotAttached s
      else body s x c
    match r with
    | .done st n v s' => s'.respond f st n v (byteField x 56 4)
    | .runs s' => s'

/-! ### The agents a command names -/

/-- An agent that a command names: in a slot, or saved in a task, with the slot that an image of its context would give it. -/
inductive DbgAgent where
  | slot (g : Nat)
  | task (k g : Nat)
deriving DecidableEq, Repr

/-- The agents that AGENT names on a Quay of a context. -/
def State.named (s : State) (c q n : Nat) : List DbgAgent :=
  let slots := (s.standing c q).map (fun i => (i.slot, DbgAgent.slot (q * 16 + i.slot)))
  let saved := (s.savedOn c q).map (fun i => (i.slot, DbgAgent.task i.key (q * 16 + i.slot)))
  if n = 0xFF then (slots ++ saved).map (fun x => x.2)
  else ((slots ++ saved).find? (fun (x : Nat × DbgAgent) => decide (x.1 = n))).toList.map (fun (x : Nat × DbgAgent) => x.2)

/-- The agent as it stands. -/
def State.dbgAg (s : State) (t : DbgAgent) : Agent :=
  match t with
  | .slot g => s.ag g
  | .task k _ => (s.task k).saved.getD {}

/-- Puts the agent back. -/
def State.dbgPut (s : State) (t : DbgAgent) (a : Agent) : State :=
  match t with
  | .slot g => s.setAg g a
  | .task k _ => s.modTask k (fun x => { x with saved := some a })

/-- Whether a named agent is halted. -/
def State.dbgHalted (s : State) (t : DbgAgent) : Bool := decide ((s.dbgAg t).status = .halted)

/-- The agents named by a command, when its fields are in range. -/
def State.dbgNamed (s : State) (x c : Nat) : Option (List DbgAgent) :=
  let n := byteField x 1 1
  let q := byteField x 2 2
  if ((n ≤ 8) ∨ n = 0xFF) ∧ (s.ctx c).quays.contains q then
    match s.named c q n with
    | [] => none
    | l => some l
  else none

/-- The one halted agent that a command needs. -/
def State.dbgOne (s : State) (x c : Nat) (body : DbgAgent → DbgEnd) : DbgEnd :=
  if byteField x 1 1 = 0xFF then dErr dBadArg s else
  match s.dbgNamed x c with
  | some (t :: _) => if s.dbgHalted t then body t else dErr dNotHalted s
  | _ => dErr dBadArg s

/-! ### Halting and resuming (R355, R356) -/

/-- Whether an agent can be halted where it stands: at an instruction boundary outside a PFX group. -/
def Agent.haltable (a : Agent) : Bool :=
  a.between
  && (match a.status with
      | .run | .ats _ | .pri _ _ | .replay _ | .unposted _ => true
      | .absent | .halted | .atomic _ | .proxy _ | .remote _ _ _ | .fatal _ => false)

/-- Halts a named agent by a command, which its debugger is told of (R355, R356). -/
def State.dbgHalt (s : State) (t : DbgAgent) (whole : Bool) : State :=
  match t with
  | .slot g => ((s.sendHalt (s.boundary g) 1).haltAt g (s.ag g).regs.pc Cause.debugHalt true).modAg g (fun a => { a with marks := { a.marks with byPart := whole } })
  | .task k g =>
    let b := s.dbgAg t
    (s.sendDebugger b.ctx (s.recordOf b ⟨g, b.regs.pc, b.regs.pc, []⟩ { cause := Cause.debugHalt, sub := 1 } fPrecise)).modTask k
      (fun x => { x with saved := x.saved.map (fun a => { a with
      status := .halted
      strip := { a.strip with susp := a.strip.susp || a.strip.isOpen }
      marks := { a.marks with reason := Cause.debugHalt, byDebug := true, byPart := whole, wasSusp := a.strip.susp } }) })

/-- A halted agent that goes on: where it was halted by a command or a step, or else at tepc. -/
def Agent.goOn (a : Agent) (stepping : Bool) : Agent :=
  { a with
    status := .run
    regs := { a.regs with pc := if a.marks.byDebug then a.regs.pc else a.trap.tepc }
    strip := { a.strip with susp := a.marks.byDebug && a.marks.wasSusp }
    marks := { a.marks with byDebug := false, byPart := false, wasSusp := false, stepping := stepping } }

/-- The task of a named agent. -/
def State.dbgTask (s : State) (t : DbgAgent) : Nat := match t with | .slot g => (s.ag g).tkey | .task k _ => k

/-- Resumes a named agent: one that HALT parked is ready again; the timeouts of its barrier phases begin anew (R330). -/
def State.dbgResume (s : State) (stepping : Bool) (t : DbgAgent) : State :=
  let k := s.dbgTask t
  let s := s.dbgPut t ((s.dbgAg t).goOn stepping)
  let s := { s with work := { s.work with groups := s.work.groups.map (fun g =>
    if (Assoc.find? k g.arrivals).isSome then { g with posted := false } else g) } }
  match t with
  | .slot _ => s
  | .task k _ => if (s.task k).state = .halted then s.toTail k { s.task k with state := .ready } else s

/-- Halts some agents: those that stand at a boundary now, the command going on until every one does. -/
def State.haltAll (s : State) (ts : List DbgAgent) (whole : Bool) : State × Bool :=
  let live := ts.filter (fun t => !s.dbgHalted t && decide ((s.dbgAg t).status ≠ .absent))
  let now := live.filter (fun t => (s.dbgAg t).haltable)
  (now.foldl (fun s t => s.dbgHalt t whole) s, decide (now.length = live.length))

/-- ATTACH (R355). -/
def execAttach (f : Nat) (s : State) : Out :=
  .next (s.runDbg f 0x01 (fun s _ c => dOk (s.modCtx c (fun z => { z with debugger := true }))))

/-- Every halted agent of a context that stands in a slot, or that a command halted in its task. -/
def State.haltedOf (s : State) (c : Nat) : List DbgAgent :=
  (s.ctx c).quays.flatMap (fun q => (s.named c q 0xFF).filter (fun t => s.dbgHalted t
    && (match t with | .slot _ => true | .task k _ => decide ((s.task k).state ≠ .halted))))

/-- DETACH (R357): resumes every agent that the debugger halted. -/
def execDetach (f : Nat) (s : State) : Out :=
  .next (s.runDbg f 0x02 (fun s _ c =>
    let ts := (s.haltedOf c).filter (fun t => !(s.dbgAg t).marks.byPart)
    dOk ((ts.foldl (fun s t => s.dbgResume false t) s).modCtx c (fun z => { z with debugger := false }))))

/-- DEBUG_HALT (R355): the HALT command. -/
def execDebugHalt (f : Nat) (s : State) : Out :=
  .next (s.runDbg f 0x03 (fun s x c =>
    match s.dbgNamed x c with
    | none => dErr dBadArg s
    | some ts => let r := s.haltAll ts false; if r.2 then dOk r.1 else .runs r.1))

/-- RESUME (R355, R356). -/
def execResume (f : Nat) (s : State) : Out :=
  .next (s.runDbg f 0x04 (fun s x c =>
    match s.dbgNamed x c with
    | none => dErr dBadArg s
    | some ts => dOk ((ts.filter s.dbgHalted).foldl (fun s t => s.dbgResume false t) s)))

/-- STEP (R355): the agent halts again at the next boundary. -/
def execStepCmd (f : Nat) (s : State) : Out :=
  .next (s.runDbg f 0x05 (fun s x c => s.dbgOne x c (fun t => dOk (s.dbgResume true t))))

/-- The standing agents of a partition. -/
def State.partAgents (s : State) (p : Nat) : List DbgAgent :=
  (s.agents.filter (fun a => decide (a.2.part = p ∧ a.2.status ≠ .absent))).map (fun a => DbgAgent.slot a.1)

/-- PARTHALT (R357): its host launch queues start nothing, and none of its tasks resumes, until PARTRESUME. -/
def execParthalt (f : Nat) (s : State) : Out :=
  .next (s.runDbg f 0x0E (fun s _ c =>
    let p := (s.ctx c).part
    let r := (s.modPart p (fun y => { y with halted := true })).haltAll (s.partAgents p) true
    if r.2 then dOk r.1 else .runs r.1))

/-- PARTRESUME (R357): undoes PARTHALT. -/
def execPartresume (f : Nat) (s : State) : Out :=
  .next (s.runDbg f 0x0F (fun s _ c =>
    let p := (s.ctx c).part
    let s := s.modPart p (fun y => { y with halted := false })
    dOk (((s.partAgents p).filter (fun t => s.dbgHalted t && (s.dbgAg t).marks.byPart)).foldl (fun s t => s.dbgResume false t) s)))

/-! ### Registers (R357) -/

/-- The value or the register image that an item names; none for an item that there is not. -/
inductive Item where
  | value (v : Nat)
  | image (bs : List Byte)

/-- Reads an item of an agent, which stands or would stand in a slot. -/
def State.readItem (s : State) (t : DbgAgent) (cls ix : Nat) : Option Item :=
  let g := match t with | .slot g => g | .task _ g => g
  let a := s.dbgAg t
  let v := a.strip.vlen / 8
  let hart := !isPilot g
  match cls with
  | 0 => if h : ix < 32 then some (.value (a.rs ⟨ix, h⟩).toNat) else none
  | 1 => if h : ix < 16 then some (.value (a.ra ⟨ix, h⟩).toNat) else none
  | 2 => if csrAssigned ix ∧ (if hart then csrPilotOnly ix else csrHartOnly ix) = false then
      some (.value ((s.setAg g a).csr g ix).toNat) else none
  | 3 => if ix < 48 ∧ hart then some (.image (leBytes v (a.vreg ix).toNat)) else none
  | 4 => if h : ix < 12 ∧ hart then some (.image (leBytes v (a.mreg ⟨ix, h.1⟩).toNat)) else none
  | 5 => some (.value a.regs.pc.toNat)
  | 6 => if h : ix < 32 ∧ hart then some (.value (if ix = 0 then 0 else a.strip.ckpt.s[ix].toNat)) else none
  | 7 => if h : ix < 16 ∧ hart then some (.value a.strip.ckpt.a[ix].toNat) else none
  | 8 => match a.strip.ckpt.map with
    | some m => if h : ix < 48 ∧ hart then some (.image (leBytes v a.vec.phys[m.v[ix]].toNat)) else none
    | none => none
  | 9 => match a.strip.ckpt.map with
    | some m => if h : ix < 12 ∧ hart then some (.image (leBytes v a.vec.masks[m.m[ix]].toNat)) else none
    | none => none
  | _ => none

/-- Writes data to BUF, released before the response. -/
def State.dbgData (s : State) (x : Nat) (bs : List Byte) (status : Nat) : DbgEnd :=
  if byteField x 32 8 % 64 ≠ 0 then dErr dBadArg s
  else if byteField x 40 4 < bs.length then dErr dBufShort s
  else .done status bs.length 0 (s.hostWrite (byteField x 32 8) bs)

/-- CLASS and INDEX of ITEM, and whether its other bits are zero. -/
def itemOf (x : Nat) : Nat × Nat × Bool := (byteField x 8 8 / 2 ^ 12 % 16, byteField x 8 8 % 2 ^ 12, decide (byteField x 8 8 < 2 ^ 16))

/-- Settles the expired slices of a vector register that an item names: it is read (R103). -/
def State.settleItem (s : State) (t : DbgAgent) (cls ix : Nat) : State :=
  match t with
  | .task _ _ => s
  | .slot g =>
    let f := (s.ag g).vec
    let map := match cls with
      | 3 => some f.map
      | 8 => (s.ag g).strip.ckpt.map
      | _ => none
    match map with
    | none => s
    | some m => s.settleSlices g (f.expired.filter (fun x => decide (some x.1 = (m.v[ix]?).map (fun p => p.val))))

/-- READ (R355, R357). -/
def execReadCmd (f : Nat) (s : State) : Out :=
  .next (s.runDbg f 0x06 (fun s x c => s.dbgOne x c (fun t =>
    let i := itemOf x
    if !i.2.2 then dErr dBadArg s else
    let s := s.settleItem t i.1 i.2.1
    match s.readItem t i.1 i.2.1 with
    | none => dErr dBadArg s
    | some (.value v) => .done 0 0 v s
    | some (.image bs) => s.dbgData x bs 0)))

/-- A write to a register of an agent by a body that acts on a slot; what the slot held is put back when the agent is saved. -/
def State.dbgBody (s : State) (t : DbgAgent) (body : Issue → M Unit) : DbgEnd :=
  let g := match t with | .slot g => g | .task _ g => g
  let a := s.dbgAg t
  let run := body ⟨g, a.regs.pc, a.regs.pc, []⟩ (s.setAg g a)
  match run with
  | .ok r =>
    (match t with
    | .slot _ => dOk r.2
    | .task _ _ => dOk ((r.2.dbgPut t (r.2.ag g)).setAg g (s.ag g)))
  | .error (.trap _ _) => dErr dFault s
  | .error _ => .runs s

/-- WRITE (R355, R357): the checkpoint and the snapshot are read-only. DESIGN CHOICE (log entry 78): the low two bits of a PC written are
taken as zero. -/
def execWriteCmd (f : Nat) (s : State) : Out :=
  .next (s.runDbg f 0x07 (fun s x c => s.dbgOne x c (fun t =>
    let i := itemOf x
    let ix := i.2.1
    let a := s.dbgAg t
    let g := match t with | .slot g => g | .task _ g => g
    let v := a.strip.vlen / 8
    let buf := byteField x 32 8
    let image (body : List Byte → Issue → M Unit) : DbgEnd :=
      if buf % 64 ≠ 0 then dErr dBadArg s
      else if byteField x 40 4 < v then dErr dBufShort s
      else s.dbgBody t (body (s.hostBytes buf v))
    if !i.2.2 then dErr dBadArg s
    else match i.1 with
    | 0 => if h : ix < 32 then dOk (s.dbgPut t (a.ws ⟨ix, h⟩ (BitVec.ofNat 64 (byteField x 16 8)))) else dErr dBadArg s
    | 1 => if h : ix < 16 then dOk (s.dbgPut t (a.wa ⟨ix, h⟩ (slotAddr x 16).1)) else dErr dBadArg s
    | 2 => if csrAssigned ix ∧ (if isPilot g then csrHartOnly ix else csrPilotOnly ix) = false then
        s.dbgBody t (fun is => csrWrite is ix (BitVec.ofNat 64 (byteField x 16 8))) else dErr dBadArg s
    | 3 => if h : ix < 48 ∧ !isPilot g then
        image (fun bs is => vwrite is ⟨ix, h.1⟩ 8 (bs.zipIdx.map (fun b => (b.2, b.1.toNat)))) else dErr dBadArg s
    | 4 => if h : ix < 12 ∧ !isPilot g then
        image (fun bs is => mwrite is ⟨ix, h.1⟩ ((List.range (8 * v)).map (fun k => (k, (leNat bs).testBit k)))) else dErr dBadArg s
    | 5 => dOk (s.dbgPut t (a.setPc (BitVec.ofNat 64 (byteField x 16 8 / 4 * 4))))
    | _ => dErr dBadArg s)))

/-- BUFFER (R355, R346). -/
def execBufferCmd (f : Nat) (s : State) : Out :=
  .next (s.runDbg f 0x08 (fun s x c => s.dbgOne x c (fun t =>
    match t with
    | .slot g | .task _ g => if isPilot g then dErr dBadArg s else s.dbgData x (s.dbgAg t).bufferBytes 0)))

/-- RINGS (R355, R346). -/
def execRings (f : Nat) (s : State) : Out :=
  .next (s.runDbg f 0x0D (fun s x c => s.dbgOne x c (fun t => s.dbgData x (s.dbgAg t).trace.bytes 0)))

/-! ### The Quay's engines (R242, R355) -/

/-- A command about a Quay of its context. -/
def State.dbgQuay (s : State) (x c : Nat) (body : Nat → DbgEnd) : DbgEnd :=
  if (s.ctx c).quays.contains (byteField x 2 2) then body (byteField x 2 2) else dErr dBadArg s

/-- FREEZE (R242, R355). -/
def execFreeze (f : Nat) (s : State) : Out :=
  .next (s.runDbg f 0x09 (fun s x c => s.dbgQuay x c (fun q => dOk (s.modQy q (fun y => { y with freeze := true })))))

/-- THAW (R242, R355). -/
def execThaw (f : Nat) (s : State) : Out :=
  .next (s.runDbg f 0x0A (fun s x c => s.dbgQuay x c (fun q => dOk (s.modQy q (fun y => { y with freeze := false })))))

/-- NODES (R347, R355). -/
def execNodes (f : Nat) (s : State) : Out :=
  .next (s.runDbg f 0x0B (fun s x c => s.dbgQuay x c (fun q => s.dbgData x (s.tile q).bytes 0)))

/-- The record of a fault that a debugger's force meets (R340, R252). -/
def State.dforceRecord (s : State) (q : Nat) (e : TileFault) (r : Rect) : TrapRecord :=
  { cause := Cause.lateFault, sub := e.cause, flags := 0, src := 3, srcix := 0, quay := q, seq := 0, module := s.modid
    inner := e.sub, win := winOf e.addr, pc := 0, pc2 := e.pc, value := offOf e.addr, detail := e.node + r.code * 2 ^ 32
    cycle := (s.die (dieOf q)).cycle }

/-- DFORCE (R250, R355): the units computed stay computed; a fault is returned and never raised. A host translation that is missing
is asked for and waited for; a buffer too short for the record is answered BUFSHORT (R357). -/
def execDforce (f : Nat) (s : State) : Out :=
  .next (s.runDbg f 0x0C (fun s x c => s.dbgQuay x c (fun q =>
    let td := byteField x 16 1
    let r := rectOf (BitVec.ofNat 64 (byteField x 20 4))
    match (s.tile q).cur.toList.getD td none with
    | none => dErr dBadArg s
    | some v =>
      let sh := ((s.tile q).ver v).shape
      let d := s.func f
      if d.dbgAts.isSome then .runs s
      else if sh.rows < r.row0 + r.rows ∨ sh.cols < r.col0 + r.cols then dErr dBadArg s
      else
        let z := (s.tile q).force (s.tileRead q d.dbgFail) v (r.units sh)
        let s' := s.putForced q z.1
        let ask (va : Option Nat) : State := s'.modFunc f (fun d => { d with dbgAts := va, dbgFail := none })
        match z.2 with
        | none => dOk (ask none)
        | some e =>
          if e.cause = 0 then .runs (ask (some (offOf e.addr).toNat))
          else (ask none).dbgData x (s'.dforceRecord q e r).bytes dFault)))

end Sys2Proof.Machine
end

