-- ==== Sys2Proof/Machine/Vector.lean ====
section
/-! DEFINITION. Vector arithmetic, logic and unary operations (R108-R113): majors 0x11 to 0x16. -/

namespace Sys2Proof.Machine

/-! ### The operations (R111, R112) -/

/-- The operations of R112. -/
inductive VOp where
  | add | sub | mul | mulh | div | rem | min | max | mac | nmac | and | or | xor | shl | shr | sra
deriving DecidableEq, Repr

/-- The types an operation accepts (R109). -/
def VOp.types : VOp → Nat → Bool
  | .add | .sub | .mul | .min | .max | .mac | .nmac | .div => tyINF
  | .mulh | .rem | .and | .or | .xor | .shl | .shr | .sra => tyIN

/-- Whether the destination is a source too. -/
def VOp.readsD : VOp → Bool
  | .mac | .nmac => true
  | .add | .sub | .mul | .mulh | .div | .rem | .min | .max | .and | .or | .xor | .shl | .shr | .sra => false

/-- Whether the results pass through Round under a float type (R133). -/
def VOp.rounds : VOp → Bool
  | .add | .sub | .mul | .div | .mac | .nmac => true
  | .mulh | .rem | .min | .max | .and | .or | .xor | .shl | .shr | .sra => false

/-- Reads a pattern of `w` bits under an integer type. -/
def intOf (signed : Bool) (w x : Nat) : Int := if signed then sext w x else (x % 2 ^ w : Nat)

/-- Trunc to `w` bits (R7). -/
def truncTo (w : Nat) (x : Int) : Nat := (x % (2 ^ w : Nat)).toNat

/-- The result under an integer type (R112). -/
def VOp.int (op : VOp) (signed : Bool) (w x y d : Nat) : Nat :=
  let p := intOf signed w x
  let q := intOf signed w y
  let sh := y % w
  match op with
  | .add => truncTo w (p + q)
  | .sub => truncTo w (p - q)
  | .mul => truncTo w (p * q)
  | .mulh => truncTo w (p * q / (2 ^ w : Nat))
  | .div => if q = 0 then 2 ^ w - 1 else truncTo w (p.tdiv q)
  | .rem => if q = 0 then x else truncTo w (p - q * p.tdiv q)
  | .min => if p < q then x else y
  | .max => if p < q then y else x
  | .mac => truncTo w (intOf signed w d + p * q)
  | .nmac => truncTo w (intOf signed w d - p * q)
  | .and => x &&& y
  | .or => x ||| y
  | .xor => x ^^^ y
  | .shl => truncTo w ((x : Int) * (2 ^ sh : Nat))
  | .shr => x / 2 ^ sh
  | .sra => truncTo w (sext w x / (2 ^ sh : Nat))

/-- The exact result under a float type with the flags of the specials (R112). -/
def VOp.flt (op : VOp) (mode : RMode) (x y d : Val) : Val × Flags :=
  match op with
  | .add => Val.add mode x y
  | .sub => Val.add mode x y.negate
  | .mul => Val.mul x y
  | .div => Val.div x y
  | .mac => Val.fma mode d x y
  | .nmac => Val.fma mode d x.negate y
  | .min => (minMax false x y, 0)
  | .max => (minMax true x y, 0)
  | .mulh | .rem | .and | .or | .xor | .shl | .shr | .sra => (.nan, 0)

/-- The second operand (R111): a vector, a scalar with its x bit, an immediate. -/
inductive VSrc where
  | vec (b : Fin 48)
  | sca (b : Fin 32) (x : Bool)
  | imm (k : Int)
deriving DecidableEq, Repr

/-- The vector that a second operand names. -/
def VSrc.regs : VSrc → List (Fin 48)
  | .vec b => [b]
  | .sca _ _ => []
  | .imm _ => []

/-- Types a form accepts: an immediate under a float type only for VADD and VSUB. -/
def VOp.formTypes (op : VOp) (y : VSrc) (t : Nat) : Bool :=
  op.types t && (match y with
    | .imm _ => !isF t || decide (op = .add ∨ op = .sub)
    | .vec _ => true
    | .sca _ _ => true)

/-- The patterns of a second operand. -/
def VSrc.read (is : Issue) (y : VSrc) (w : Nat) (es : List Nat) : M (Nat → Nat) :=
  match y with
  | .vec b => vread is b w es
  | .sca b _ => do let v ← getS is b; return fun _ => v.toNat % 2 ^ w
  | .imm k => return fun _ => truncTo w k

/-- Whether the operands are exchanged. -/
def VSrc.swaps : VSrc → Bool
  | .sca _ x => x
  | .vec _ => false
  | .imm _ => false

/-- A second operand as a float datum: an immediate is the exact integer. -/
def VSrc.val (y : VSrc) (f : Fmt) (p : Nat) : Val :=
  match y with
  | .imm k => Val.ofInt k
  | .vec _ => f.read p
  | .sca _ _ => f.read p

/-- One element of a vector operation: the pattern and the flags. -/
def VOp.elem (op : VOp) (fp : FpRegs) (e : VEnv) (y : VSrc) (i x q d : Nat) : Nat × Flags :=
  if isF e.ty then
    let f := fmtOf e.ty
    let mode := fp.effRM 0
    let u := f.read x
    let v := y.val f q
    fp.roundTo f mode i (if y.swaps then op.flt mode v u (f.read d) else op.flt mode u v (f.read d))
  else (if y.swaps then op.int (isI e.ty) e.w q x d else op.int (isI e.ty) e.w x q d, 0)

/-- Writes the results of an elementwise operation and raises its flags. -/
def vput (is : Issue) (d : Fin 48) (w : Nat) (rs : List (Nat × (Nat × Flags))) : M Unit := do
  vwrite is d w (rs.map (fun r => (r.1, r.2.1)))
  raise is (flagsOf (rs.map (·.2)))

/-- An instruction of R111. -/
def varith (op : VOp) (d a : Fin 48) (y : VSrc) (m : Option (Fin 12)) (is : Issue) : M Unit := do
  let p ← vstart is (op.formTypes y) (a :: y.regs ++ (if op.readsD then [d] else [])) (some d) m
  let e := p.1
  let xs ← vread is a e.w p.2
  let ys ← y.read is e.w p.2
  let ds ← (if op.readsD then vread is d e.w p.2 else pure (fun _ => 0))
  let fp := (← getA is).fp
  vput is d e.w (p.2.map (fun i => (i, op.elem fp e y i (xs i) (ys i) (ds i))))
  if isF e.ty && op.rounds then stepSr is (fp.effRM 0)

/-! ### Unary operations (R113) -/

/-- The operations of R113. -/
inductive UOp where
  | abs | neg | sqrt | exp2 | log2 | clz | popc | mv
deriving DecidableEq, Repr

/-- The types a unary operation accepts (R109). -/
def UOp.types : UOp → Nat → Bool
  | .abs => tyIF
  | .neg => tyINF
  | .sqrt | .exp2 | .log2 => isF
  | .clz | .popc => tyIN
  | .mv => tyAny

/-- Whether results pass through Round. -/
def UOp.rounds : UOp → Bool
  | .sqrt | .exp2 | .log2 => true
  | .abs | .neg | .clz | .popc | .mv => false

/-- One element of a unary operation. -/
def UOp.elem (op : UOp) (fp : FpRegs) (e : VEnv) (i x : Nat) : Nat × Flags :=
  let f := fmtOf e.ty
  let canon (p : Nat) : Nat := if (f.read x).isNan then f.nan else p
  match op with
  | .abs => (if isF e.ty then canon (x % 2 ^ (e.w - 1)) else truncTo e.w (sext e.w x).natAbs, 0)
  | .neg => (if isF e.ty then canon (x ^^^ 2 ^ (e.w - 1)) else truncTo e.w (-(x : Int)), 0)
  | .sqrt => fp.roundTo f (fp.effRM 0) i (f.read x).sqrt
  | .exp2 => fp.roundTo f (fp.effRM 0) i (f.read x).exp2
  | .log2 => fp.roundTo f (fp.effRM 0) i (f.read x).log2
  | .clz => (leadZeros e.w x, 0)
  | .popc => (popCount x e.w, 0)
  | .mv => (x, 0)

/-- An instruction of R113. -/
def vunary (op : UOp) (d a : Fin 48) (m : Option (Fin 12)) (is : Issue) : M Unit := do
  let p ← vstart is op.types [a] (some d) m
  let xs ← vread is a p.1.w p.2
  let fp := (← getA is).fp
  vput is d p.1.w (p.2.map (fun i => (i, op.elem fp p.1 i (xs i))))
  if op.rounds then stepSr is (fp.effRM 0)

/-- VADD of two vectors (R112). -/
def execVadd (d a b : Fin 48) (m : Option (Fin 12)) (h : Bool) (s : State) : Out :=
  s.run (.vadd d a b m h) .vector (varith .add d a (.vec b) m)

/-- VSUB of two vectors (R112). -/
def execVsub (d a b : Fin 48) (m : Option (Fin 12)) (h : Bool) (s : State) : Out :=
  s.run (.vsub d a b m h) .vector (varith .sub d a (.vec b) m)

/-- VMUL of two vectors (R112). -/
def execVmul (d a b : Fin 48) (m : Option (Fin 12)) (h : Bool) (s : State) : Out :=
  s.run (.vmul d a b m h) .vector (varith .mul d a (.vec b) m)

/-- VMULH of two vectors (R112). -/
def execVmulh (d a b : Fin 48) (m : Option (Fin 12)) (h : Bool) (s : State) : Out :=
  s.run (.vmulh d a b m h) .vector (varith .mulh d a (.vec b) m)

/-- VDIV of two vectors (R112). -/
def execVdiv (d a b : Fin 48) (m : Option (Fin 12)) (h : Bool) (s : State) : Out :=
  s.run (.vdiv d a b m h) .vector (varith .div d a (.vec b) m)

/-- VREM of two vectors (R112). -/
def execVrem (d a b : Fin 48) (m : Option (Fin 12)) (h : Bool) (s : State) : Out :=
  s.run (.vrem d a b m h) .vector (varith .rem d a (.vec b) m)

/-- VMIN of two vectors (R112). -/
def execVmin (d a b : Fin 48) (m : Option (Fin 12)) (h : Bool) (s : State) : Out :=
  s.run (.vmin d a b m h) .vector (varith .min d a (.vec b) m)

/-- VMAX of two vectors (R112). -/
def execVmax (d a b : Fin 48) (m : Option (Fin 12)) (h : Bool) (s : State) : Out :=
  s.run (.vmax d a b m h) .vector (varith .max d a (.vec b) m)

/-- VMAC of two vectors (R112). -/
def execVmac (d a b : Fin 48) (m : Option (Fin 12)) (h : Bool) (s : State) : Out :=
  s.run (.vmac d a b m h) .vector (varith .mac d a (.vec b) m)

/-- VNMAC of two vectors (R112). -/
def execVnmac (d a b : Fin 48) (m : Option (Fin 12)) (h : Bool) (s : State) : Out :=
  s.run (.vnmac d a b m h) .vector (varith .nmac d a (.vec b) m)

/-- VAND of two vectors (R112). -/
def execVand (d a b : Fin 48) (m : Option (Fin 12)) (h : Bool) (s : State) : Out :=
  s.run (.vand d a b m h) .vector (varith .and d a (.vec b) m)

/-- VOR of two vectors (R112). -/
def execVor (d a b : Fin 48) (m : Option (Fin 12)) (h : Bool) (s : State) : Out :=
  s.run (.vor d a b m h) .vector (varith .or d a (.vec b) m)

/-- VXOR of two vectors (R112). -/
def execVxor (d a b : Fin 48) (m : Option (Fin 12)) (h : Bool) (s : State) : Out :=
  s.run (.vxor d a b m h) .vector (varith .xor d a (.vec b) m)

/-- VSHL of two vectors (R112). -/
def execVshl (d a b : Fin 48) (m : Option (Fin 12)) (h : Bool) (s : State) : Out :=
  s.run (.vshl d a b m h) .vector (varith .shl d a (.vec b) m)

/-- VSHR of two vectors (R112). -/
def execVshr (d a b : Fin 48) (m : Option (Fin 12)) (h : Bool) (s : State) : Out :=
  s.run (.vshr d a b m h) .vector (varith .shr d a (.vec b) m)

/-- VSRA of two vectors (R112). -/
def execVsra (d a b : Fin 48) (m : Option (Fin 12)) (h : Bool) (s : State) : Out :=
  s.run (.vsra d a b m h) .vector (varith .sra d a (.vec b) m)

/-- VADD of a vector and a scalar (R112). -/
def execVaddVs (d a : Fin 48) (b : Fin 32) (x : Bool) (m : Option (Fin 12)) (h : Bool) (s : State) : Out :=
  s.run (.vaddVs d a b x m h) .vector (varith .add d a (.sca b x) m)

/-- VSUB of a vector and a scalar (R112). -/
def execVsubVs (d a : Fin 48) (b : Fin 32) (x : Bool) (m : Option (Fin 12)) (h : Bool) (s : State) : Out :=
  s.run (.vsubVs d a b x m h) .vector (varith .sub d a (.sca b x) m)

/-- VMUL of a vector and a scalar (R112). -/
def execVmulVs (d a : Fin 48) (b : Fin 32) (x : Bool) (m : Option (Fin 12)) (h : Bool) (s : State) : Out :=
  s.run (.vmulVs d a b x m h) .vector (varith .mul d a (.sca b x) m)

/-- VMULH of a vector and a scalar (R112). -/
def execVmulhVs (d a : Fin 48) (b : Fin 32) (x : Bool) (m : Option (Fin 12)) (h : Bool) (s : State) : Out :=
  s.run (.vmulhVs d a b x m h) .vector (varith .mulh d a (.sca b x) m)

/-- VDIV of a vector and a scalar (R112). -/
def execVdivVs (d a : Fin 48) (b : Fin 32) (x : Bool) (m : Option (Fin 12)) (h : Bool) (s : State) : Out :=
  s.run (.vdivVs d a b x m h) .vector (varith .div d a (.sca b x) m)

/-- VREM of a vector and a scalar (R112). -/
def execVremVs (d a : Fin 48) (b : Fin 32) (x : Bool) (m : Option (Fin 12)) (h : Bool) (s : State) : Out :=
  s.run (.vremVs d a b x m h) .vector (varith .rem d a (.sca b x) m)

/-- VMIN of a vector and a scalar (R112). -/
def execVminVs (d a : Fin 48) (b : Fin 32) (x : Bool) (m : Option (Fin 12)) (h : Bool) (s : State) : Out :=
  s.run (.vminVs d a b x m h) .vector (varith .min d a (.sca b x) m)

/-- VMAX of a vector and a scalar (R112). -/
def execVmaxVs (d a : Fin 48) (b : Fin 32) (x : Bool) (m : Option (Fin 12)) (h : Bool) (s : State) : Out :=
  s.run (.vmaxVs d a b x m h) .vector (varith .max d a (.sca b x) m)

/-- VMAC of a vector and a scalar (R112). -/
def execVmacVs (d a : Fin 48) (b : Fin 32) (x : Bool) (m : Option (Fin 12)) (h : Bool) (s : State) : Out :=
  s.run (.vmacVs d a b x m h) .vector (varith .mac d a (.sca b x) m)

/-- VNMAC of a vector and a scalar (R112). -/
def execVnmacVs (d a : Fin 48) (b : Fin 32) (x : Bool) (m : Option (Fin 12)) (h : Bool) (s : State) : Out :=
  s.run (.vnmacVs d a b x m h) .vector (varith .nmac d a (.sca b x) m)

/-- VAND of a vector and a scalar (R112). -/
def execVandVs (d a : Fin 48) (b : Fin 32) (x : Bool) (m : Option (Fin 12)) (h : Bool) (s : State) : Out :=
  s.run (.vandVs d a b x m h) .vector (varith .and d a (.sca b x) m)

/-- VOR of a vector and a scalar (R112). -/
def execVorVs (d a : Fin 48) (b : Fin 32) (x : Bool) (m : Option (Fin 12)) (h : Bool) (s : State) : Out :=
  s.run (.vorVs d a b x m h) .vector (varith .or d a (.sca b x) m)

/-- VXOR of a vector and a scalar (R112). -/
def execVxorVs (d a : Fin 48) (b : Fin 32) (x : Bool) (m : Option (Fin 12)) (h : Bool) (s : State) : Out :=
  s.run (.vxorVs d a b x m h) .vector (varith .xor d a (.sca b x) m)

/-- VSHL of a vector and a scalar (R112). -/
def execVshlVs (d a : Fin 48) (b : Fin 32) (x : Bool) (m : Option (Fin 12)) (h : Bool) (s : State) : Out :=
  s.run (.vshlVs d a b x m h) .vector (varith .shl d a (.sca b x) m)

/-- VSHR of a vector and a scalar (R112). -/
def execVshrVs (d a : Fin 48) (b : Fin 32) (x : Bool) (m : Option (Fin 12)) (h : Bool) (s : State) : Out :=
  s.run (.vshrVs d a b x m h) .vector (varith .shr d a (.sca b x) m)

/-- VSRA of a vector and a scalar (R112). -/
def execVsraVs (d a : Fin 48) (b : Fin 32) (x : Bool) (m : Option (Fin 12)) (h : Bool) (s : State) : Out :=
  s.run (.vsraVs d a b x m h) .vector (varith .sra d a (.sca b x) m)

/-- VADD of a vector and an immediate (R112). -/
def execVaddVi (d a : Fin 48) (i : BitVec 6) (m : Option (Fin 12)) (h : Bool) (s : State) : Out :=
  s.run (.vaddVi d a i m h) .vector (fun is => varith .add d a (.imm (is.immS 6 i.toNat)) m is)

/-- VSUB of a vector and an immediate (R112). -/
def execVsubVi (d a : Fin 48) (i : BitVec 6) (m : Option (Fin 12)) (h : Bool) (s : State) : Out :=
  s.run (.vsubVi d a i m h) .vector (fun is => varith .sub d a (.imm (is.immS 6 i.toNat)) m is)

/-- VAND of a vector and an immediate (R112). -/
def execVandVi (d a : Fin 48) (i : BitVec 6) (m : Option (Fin 12)) (h : Bool) (s : State) : Out :=
  s.run (.vandVi d a i m h) .vector (fun is => varith .and d a (.imm (is.immS 6 i.toNat)) m is)

/-- VOR of a vector and an immediate (R112). -/
def execVorVi (d a : Fin 48) (i : BitVec 6) (m : Option (Fin 12)) (h : Bool) (s : State) : Out :=
  s.run (.vorVi d a i m h) .vector (fun is => varith .or d a (.imm (is.immS 6 i.toNat)) m is)

/-- VXOR of a vector and an immediate (R112). -/
def execVxorVi (d a : Fin 48) (i : BitVec 6) (m : Option (Fin 12)) (h : Bool) (s : State) : Out :=
  s.run (.vxorVi d a i m h) .vector (fun is => varith .xor d a (.imm (is.immS 6 i.toNat)) m is)

/-- VSHL of a vector and an immediate (R112). -/
def execVshlVi (d a : Fin 48) (i : BitVec 6) (m : Option (Fin 12)) (h : Bool) (s : State) : Out :=
  s.run (.vshlVi d a i m h) .vector (fun is => varith .shl d a (.imm (is.immS 6 i.toNat)) m is)

/-- VSHR of a vector and an immediate (R112). -/
def execVshrVi (d a : Fin 48) (i : BitVec 6) (m : Option (Fin 12)) (h : Bool) (s : State) : Out :=
  s.run (.vshrVi d a i m h) .vector (fun is => varith .shr d a (.imm (is.immS 6 i.toNat)) m is)

/-- VSRA of a vector and an immediate (R112). -/
def execVsraVi (d a : Fin 48) (i : BitVec 6) (m : Option (Fin 12)) (h : Bool) (s : State) : Out :=
  s.run (.vsraVi d a i m h) .vector (fun is => varith .sra d a (.imm (is.immS 6 i.toNat)) m is)

/-- VABS (R113). -/
def execVabs (d a : Fin 48) (m : Option (Fin 12)) (h : Bool) (s : State) : Out :=
  s.run (.vabs d a m h) .vector (vunary .abs d a m)

/-- VNEG (R113). -/
def execVneg (d a : Fin 48) (m : Option (Fin 12)) (h : Bool) (s : State) : Out :=
  s.run (.vneg d a m h) .vector (vunary .neg d a m)

/-- VSQRT (R113). -/
def execVsqrt (d a : Fin 48) (m : Option (Fin 12)) (h : Bool) (s : State) : Out :=
  s.run (.vsqrt d a m h) .vector (vunary .sqrt d a m)

/-- VEXP2 (R113). -/
def execVexp2 (d a : Fin 48) (m : Option (Fin 12)) (h : Bool) (s : State) : Out :=
  s.run (.vexp2 d a m h) .vector (vunary .exp2 d a m)

/-- VLOG2 (R113). -/
def execVlog2 (d a : Fin 48) (m : Option (Fin 12)) (h : Bool) (s : State) : Out :=
  s.run (.vlog2 d a m h) .vector (vunary .log2 d a m)

/-- VCLZ (R113). -/
def execVclz (d a : Fin 48) (m : Option (Fin 12)) (h : Bool) (s : State) : Out :=
  s.run (.vclz d a m h) .vector (vunary .clz d a m)

/-- VPOPC (R113). -/
def execVpopc (d a : Fin 48) (m : Option (Fin 12)) (h : Bool) (s : State) : Out :=
  s.run (.vpopc d a m h) .vector (vunary .popc d a m)

/-- VMV (R113). -/
def execVmv (d a : Fin 48) (m : Option (Fin 12)) (h : Bool) (s : State) : Out :=
  s.run (.vmv d a m h) .vector (vunary .mv d a m)

end Sys2Proof.Machine
end

