-- ==== Sys2Proof/Machine/Mask.lean ====
section
/-! DEFINITION. Compares and mask operations (R114-R116), permutations, compress, expand, merge (R117, R118): majors 0x17 to
0x1B. -/

namespace Sys2Proof.Machine

/-! ### Compares (R114) -/

/-- The relations of R114. -/
inductive VRel where
  | eq | ne | lt | le | gt | ge | ltn | gen
deriving DecidableEq, Repr

/-- A relation between two integers. -/
def VRel.int (r : VRel) (x y : Int) : Bool :=
  match r with
  | .eq => decide (x = y) | .ne => decide (x ≠ y)
  | .lt | .ltn => decide (x < y)
  | .le => decide (x ≤ y) | .gt => decide (y < x)
  | .ge | .gen => decide (y ≤ x)

/-- Whether a relation reads its operands unsigned under I as well. -/
def VRel.unsigned : VRel → Bool
  | .ltn | .gen => true
  | .eq | .ne | .lt | .le | .gt | .ge => false

/-- A relation between two float data, with the flags. -/
def VRel.flt (r : VRel) (x y : Val) : Bool × Flags :=
  if x.isNan || y.isNan then
    match r with
    | .eq => (false, 0) | .ne => (true, 0)
    | .lt | .le | .gt | .ge => (false, IVO)
    | .ltn | .gen => (true, 0)
  else (r.int (Val.cmp x y) 0, 0)

/-- The relation of two elements. -/
def VRel.elem (r : VRel) (e : VEnv) (x y : Nat) : Bool × Flags :=
  if isF e.ty then r.flt ((fmtOf e.ty).read x) ((fmtOf e.ty).read y)
  else (r.int (intOf (isI e.ty && !r.unsigned) e.w x) (intOf (isI e.ty && !r.unsigned) e.w y), 0)

/-- An instruction of R114. -/
def vcompare (r : VRel) (d : Fin 12) (a b : Fin 48) (m : Option (Fin 12)) (is : Issue) : M Unit := do
  let p ← vstart is tyINF [a, b] none m
  let xs ← vread is a p.1.w p.2
  let ys ← vread is b p.1.w p.2
  let rs := p.2.map (fun i => (i, r.elem p.1 (xs i) (ys i)))
  mwrite is d (rs.map (fun x => (x.1, x.2.1)))
  raise is (rs.foldl (fun f x => f ||| x.2.2) 0)

/-- VCMPEQ (R114). -/
def execVcmpeq (d : Fin 12) (a b : Fin 48) (m : Option (Fin 12)) (h : Bool) (s : State) : Out :=
  s.run (.vcmpeq d a b m h) .vector (vcompare .eq d a b m)

/-- VCMPNE (R114). -/
def execVcmpne (d : Fin 12) (a b : Fin 48) (m : Option (Fin 12)) (h : Bool) (s : State) : Out :=
  s.run (.vcmpne d a b m h) .vector (vcompare .ne d a b m)

/-- VCMPLT (R114). -/
def execVcmplt (d : Fin 12) (a b : Fin 48) (m : Option (Fin 12)) (h : Bool) (s : State) : Out :=
  s.run (.vcmplt d a b m h) .vector (vcompare .lt d a b m)

/-- VCMPLE (R114). -/
def execVcmple (d : Fin 12) (a b : Fin 48) (m : Option (Fin 12)) (h : Bool) (s : State) : Out :=
  s.run (.vcmple d a b m h) .vector (vcompare .le d a b m)

/-- VCMPGT (R114). -/
def execVcmpgt (d : Fin 12) (a b : Fin 48) (m : Option (Fin 12)) (h : Bool) (s : State) : Out :=
  s.run (.vcmpgt d a b m h) .vector (vcompare .gt d a b m)

/-- VCMPGE (R114). -/
def execVcmpge (d : Fin 12) (a b : Fin 48) (m : Option (Fin 12)) (h : Bool) (s : State) : Out :=
  s.run (.vcmpge d a b m h) .vector (vcompare .ge d a b m)

/-- VCMPLTN (R114). -/
def execVcmpltn (d : Fin 12) (a b : Fin 48) (m : Option (Fin 12)) (h : Bool) (s : State) : Out :=
  s.run (.vcmpltn d a b m h) .vector (vcompare .ltn d a b m)

/-- VCMPGEN (R114). -/
def execVcmpgen (d : Fin 12) (a b : Fin 48) (m : Option (Fin 12)) (h : Bool) (s : State) : Out :=
  s.run (.vcmpgen d a b m h) .vector (vcompare .gen d a b m)

/-! ### Mask operations (R115, R116) -/

/-- md[i] := f(i) for each active i. -/
def maskOp (d : Fin 12) (m : Option (Fin 12)) (f : Agent → Nat → Bool) (is : Issue) : M Unit := do
  let p ← vstart is tyAny [] none m
  let x ← getA is
  mwrite is d (p.2.map (fun i => (i, f x i)))

/-- A bit of a mask register. -/
def Agent.mbit (x : Agent) (m : Fin 12) (i : Nat) : Bool := (x.mreg m).getLsbD i

/-- The set elements: active with their bit of a mask 1 (R116). -/
def Agent.setOf (x : Agent) (a : Fin 12) (m : Option (Fin 12)) : List Nat := (x.actives m).filter (x.mbit a)

/-- MAND (R115). -/
def execMand (d a b : Fin 12) (m : Option (Fin 12)) (h : Bool) (s : State) : Out :=
  s.run (.mand d a b m h) .vector (maskOp d m (fun x i => x.mbit a i && x.mbit b i))

/-- MOR (R115). -/
def execMor (d a b : Fin 12) (m : Option (Fin 12)) (h : Bool) (s : State) : Out :=
  s.run (.mor d a b m h) .vector (maskOp d m (fun x i => x.mbit a i || x.mbit b i))

/-- MXOR (R115). -/
def execMxor (d a b : Fin 12) (m : Option (Fin 12)) (h : Bool) (s : State) : Out :=
  s.run (.mxor d a b m h) .vector (maskOp d m (fun x i => x.mbit a i != x.mbit b i))

/-- MANDN (R115). -/
def execMandn (d a b : Fin 12) (m : Option (Fin 12)) (h : Bool) (s : State) : Out :=
  s.run (.mandn d a b m h) .vector (maskOp d m (fun x i => x.mbit a i && !x.mbit b i))

/-- MSET (R115). -/
def execMset (d : Fin 12) (m : Option (Fin 12)) (h : Bool) (s : State) : Out :=
  s.run (.mset d m h) .vector (maskOp d m (fun _ _ => true))

/-- MCLR (R115). -/
def execMclr (d : Fin 12) (m : Option (Fin 12)) (h : Bool) (s : State) : Out :=
  s.run (.mclr d m h) .vector (maskOp d m (fun _ _ => false))

/-- MCNT (R116). -/
def execMcnt (d : Fin 32) (a : Fin 12) (m : Option (Fin 12)) (h : Bool) (s : State) : Out :=
  s.run (.mcnt d a m h) .vector (fun is => do
    let x ← getA is
    setS is d (BitVec.ofNat 64 (x.setOf a m).length))

/-- MFIRST (R116). -/
def execMfirst (d : Fin 32) (a : Fin 12) (m : Option (Fin 12)) (h : Bool) (s : State) : Out :=
  s.run (.mfirst d a m h) .vector (fun is => do
    let x ← getA is
    setS is d (match (x.setOf a m).head? with | some j => BitVec.ofNat 64 j | none => BitVec.allOnes 64))

/-- MBRKB (R116). -/
def execMbrkb (d a : Fin 12) (m : Option (Fin 12)) (h : Bool) (s : State) : Out :=
  s.run (.mbrkb d a m h) .vector (maskOp d m (fun x i => !(x.setOf a m).any (fun j => decide (j ≤ i))))

/-- MBRKI (R116). -/
def execMbrki (d a : Fin 12) (m : Option (Fin 12)) (h : Bool) (s : State) : Out :=
  s.run (.mbrki d a m h) .vector (maskOp d m (fun x i => !(x.setOf a m).any (fun j => decide (j < i))))

/-! ### Permutations (R117) -/

/-- An element as a scalar receives it. -/
def extendElem (e : VEnv) (x : Nat) : Word := if isI e.ty then BitVec.ofInt 64 (sext e.w x) else BitVec.ofNat 64 x

/-- VBCAST (R117). -/
def execVbcast (d : Fin 48) (a : Fin 32) (m : Option (Fin 12)) (h : Bool) (s : State) : Out :=
  s.run (.vbcast d a m h) .vector (fun is => do
    let p ← vstart is tyINF [] (some d) m
    let x ← getS is a
    vwrite is d p.1.w (p.2.map (fun i => (i, x.toNat % 2 ^ p.1.w))))

/-- VINS (R117). -/
def execVins (d : Fin 48) (a b : Fin 32) (h : Bool) (s : State) : Out :=
  s.run (.vins d a b h) .vector (fun is => do
    let p ← vstart is tyINF [] (some d) none false
    let x ← getS is a
    let k ← getS is b
    vwrite is d p.1.w (if k.toNat < p.1.vl then [(k.toNat, x.toNat % 2 ^ p.1.w)] else []))

/-- VEXT (R117). -/
def execVext (d : Fin 32) (a : Fin 48) (b : Fin 32) (h : Bool) (s : State) : Out :=
  s.run (.vext d a b h) .vector (fun is => do
    let p ← vstart is tyINF [a] none none
    let k ← getS is b
    if k.toNat < p.1.vl then
      let xs ← vread is a p.1.w [k.toNat]
      setS is d (extendElem p.1 (xs k.toNat))
    else setS is d 0)

/-- VLAST (R117). -/
def execVlast (d : Fin 32) (a : Fin 48) (m : Option (Fin 12)) (h : Bool) (s : State) : Out :=
  s.run (.vlast d a m h) .vector (fun is => do
    let p ← vstart is tyINF [a] none m
    match p.2.getLast? with
    | some k =>
      let xs ← vread is a p.1.w [k]
      setS is d (extendElem p.1 (xs k))
    | none => pure ())

/-- VIDX (R117). -/
def execVidx (d : Fin 48) (m : Option (Fin 12)) (h : Bool) (s : State) : Out :=
  s.run (.vidx d m h) .vector (fun is => do
    let p ← vstart is tyIN [] (some d) m
    vwrite is d p.1.w (p.2.map (fun i => (i, i % 2 ^ p.1.w))))

/-- vd[i] := va[src i] for some elements i, or 0 where `src` names none. -/
def vmove (is : Issue) (d a : Fin 48) (w : Nat) (moves : List (Nat × Option Nat)) : M Unit := do
  let xs ← vread is a w (moves.filterMap (·.2))
  vwrite is d w (moves.map (fun x => (x.1, match x.2 with | some k => xs k | none => 0)))

/-- VSLUP (R117). -/
def execVslup (d a : Fin 48) (b : Fin 32) (m : Option (Fin 12)) (h : Bool) (s : State) : Out :=
  s.run (.vslup d a b m h) .vector (fun is => do
    let p ← vstart is tyINF [a] (some d) m false
    let k := (← getS is b).toNat
    vmove is d a p.1.w ((p.2.filter (fun i => decide (k ≤ i))).map (fun i => (i, some (i - k)))))

/-- VSLDN (R117). -/
def execVsldn (d a : Fin 48) (b : Fin 32) (m : Option (Fin 12)) (h : Bool) (s : State) : Out :=
  s.run (.vsldn d a b m h) .vector (fun is => do
    let p ← vstart is tyINF [a] (some d) m
    let k := (← getS is b).toNat
    vmove is d a p.1.w (p.2.map (fun i => (i, if i + k < p.1.vl then some (i + k) else none))))

/-- VPERM (R117). -/
def execVperm (d a b : Fin 48) (m : Option (Fin 12)) (h : Bool) (s : State) : Out :=
  s.run (.vperm d a b m h) .vector (fun is => do
    let p ← vstart is tyINF [a, b] (some d) m
    let ks ← vread is b p.1.w p.2
    vmove is d a p.1.w (p.2.map (fun i => (i, if ks i < p.1.vl then some (ks i) else none))))

/-! ### Compress, expand and merge (R118) -/

/-- VCMPR (R118). -/
def execVcmpr (d a : Fin 48) (m : Option (Fin 12)) (h : Bool) (s : State) : Out :=
  s.run (.vcmpr d a m h) .vector (fun is => do
    let p ← vstart is tyINF [a] (some d) m
    vmove is d a p.1.w (p.2.zipIdx.map (fun x => (x.2, some x.1))))

/-- VEXPD (R118). -/
def execVexpd (d a : Fin 48) (m : Option (Fin 12)) (h : Bool) (s : State) : Out :=
  s.run (.vexpd d a m h) .vector (fun is => do
    let p ← vstart is tyINF [a] (some d) m
    vmove is d a p.1.w (p.2.zipIdx.map (fun x => (x.1, some x.2))))

/-- VMERGE (R118): every element below VL is written. -/
def execVmerge (d a b : Fin 48) (m : Option (Fin 12)) (h : Bool) (s : State) : Out :=
  s.run (.vmerge d a b m h) .vector (fun is => do
    let p ← vstart is tyAny [a, b] (some d) m true
    let rest := (List.range p.1.vl).filter (fun i => !p.2.contains i)
    let xs ← vread is a p.1.w p.2
    let ys ← vread is b p.1.w rest
    vwrite is d p.1.w ((List.range p.1.vl).map (fun i => (i, if p.2.contains i then xs i else ys i))))

end Sys2Proof.Machine
end

