-- ==== Sys2Proof/Machine/Reduce.lean ====
section
/-! DEFINITION. Segments, reductions and the scan (R119-R122), conversions (R139-R142), VTOPK (R143), and the dependence
instructions (R145-R150). -/

namespace Sys2Proof.Machine

/-! ### Segments (R119) -/

/-- Whether an active element other than the first heads a segment. -/
def Agent.segHead (x : Agent) (i : Nat) : Bool :=
  x.strip.segm.getLsbD 4 && (if h : x.strip.segm.toNat % 16 < 12 then x.mbit ⟨_, h⟩ i else false)

/-- The segments of some active elements, in order. -/
def segments (head : Nat → Bool) : List Nat → List (List Nat)
  | [] => []
  | i :: t =>
    match segments head t with
    | [] => [[i]]
    | g :: gs => if head (g.headD 0) then [i] :: g :: gs else (i :: g) :: gs

/-! ### Sums (R121, R122) -/

/-- What a reduction carries: the ordinal of the next rounding, and the flags raised. -/
structure Rounds where
  ord   : Nat
  flags : Flags
deriving DecidableEq, Repr


/-- Round(a + b) as the next rounding of an instruction. -/
def FpRegs.sum2 (fp : FpRegs) (f : Fmt) (a b : Nat) (r : Rounds) : Nat × Rounds :=
  let mode := fp.effRM 0
  let x := fp.roundTo f mode r.ord (Val.add mode (f.read a) (f.read b))
  (x.1, ⟨r.ord + 1, r.flags ||| x.2⟩)

/-- One level of the tree of R121. -/
def FpRegs.level (fp : FpRegs) (f : Fmt) : List (Option Nat) → Rounds → List (Option Nat) × Rounds
  | a :: b :: t, r =>
    match a, b with
    | some x, some y =>
      let z := fp.sum2 f x y r
      let u := fp.level f t z.2
      (some z.1 :: u.1, u.2)
    | some x, none => let u := fp.level f t r; (some (f.canon x) :: u.1, u.2)
    | none, some y => let u := fp.level f t r; (some (f.canon y) :: u.1, u.2)
    | none, none => let u := fp.level f t r; (none :: u.1, u.2)
  | [a], r => ([a.map f.canon], r)
  | [], r => ([], r)

/-- The tree of R121, level by level. -/
def FpRegs.tree (fp : FpRegs) (f : Fmt) : Nat → List (Option Nat) → Rounds → Nat × Rounds
  | 0, l, r => (f.canon ((l.headD none).getD 0), r)
  | k + 1, l, r =>
    if l.length ≤ 1 then (f.canon ((l.headD none).getD 0), r)
    else let u := fp.level f l r; fp.tree f k u.1 u.2

/-- The running sums of R122, from the head on. -/
def FpRegs.running (fp : FpRegs) (f : Fmt) : Nat → List Nat → Rounds → List Nat × Rounds
  | acc, [], r => ([acc], r)
  | acc, x :: t, r =>
    let z := fp.sum2 f acc x r
    let u := fp.running f z.1 t z.2
    (acc :: u.1, u.2)

/-- The running sums of a segment's patterns. -/
def runningSums (fp : FpRegs) (e : VEnv) (xs : List Nat) (r : Rounds) : List Nat × Rounds :=
  match xs with
  | [] => ([], r)
  | x :: t =>
    if isF e.ty then fp.running (fmtOf e.ty) ((fmtOf e.ty).canon x) t r
    else ((List.range xs.length).map (fun k => (xs.take (k + 1)).sum % 2 ^ e.w), r)

/-- The tree sum of a segment. -/
def treeSum (fp : FpRegs) (e : VEnv) (seg : List Nat) (xs : Nat → Nat) (r : Rounds) : Nat × Rounds :=
  if isF e.ty then
    fp.tree (fmtOf e.ty) e.vl ((List.range e.vl).map (fun p => if seg.contains p then some (xs p) else none)) r
  else ((seg.map xs).sum % 2 ^ e.w, r)

/-- The least or greatest element of a segment (R120). -/
def extremum (e : VEnv) (isMax : Bool) (xs : List Nat) : Nat :=
  match xs with
  | [] => 0
  | x :: t =>
    if isF e.ty then
      ((fmtOf e.ty).round .rne 0 ((t.map (fmtOf e.ty).read).foldl (minMax isMax) ((fmtOf e.ty).read x))).1
    else t.foldl (fun p q => if (if isMax then decide (intOf (isI e.ty) e.w p < intOf (isI e.ty) e.w q)
      else decide (intOf (isI e.ty) e.w q < intOf (isI e.ty) e.w p)) then q else p) x

/-- An instruction of R120: `f` gives the elements written for a segment and its number. -/
def vreduce (d a : Fin 48) (m : Option (Fin 12)) (rounds : Bool)
    (f : FpRegs → VEnv → Nat → List Nat → (Nat → Nat) → Rounds → List (Nat × Nat) × Rounds) (is : Issue) : M Unit := do
  let p ← vstart is tyINF [a] (some d) m false
  let xs ← vread is a p.1.w p.2
  let x ← getA is
  let r := (segments x.segHead p.2).zipIdx.foldl (fun (acc : List (Nat × Nat) × Rounds) g =>
    let u := f x.fp p.1 g.2 g.1 xs acc.2
    (acc.1 ++ u.1, u.2)) ([], ⟨0, 0⟩)
  vwrite is d p.1.w r.1
  raise is r.2.flags
  if isF p.1.ty && rounds then stepSr is (x.fp.effRM 0)

/-- VREDSUM (R121). -/
def execVredsum (d a : Fin 48) (m : Option (Fin 12)) (h : Bool) (s : State) : Out :=
  s.run (.vredsum d a m h) .vector (vreduce d a m true (fun fp e k seg xs r =>
    let u := treeSum fp e seg xs r
    ([(k, u.1)], u.2)))

/-- VREDOSUM (R122). -/
def execVredosum (d a : Fin 48) (m : Option (Fin 12)) (h : Bool) (s : State) : Out :=
  s.run (.vredosum d a m h) .vector (vreduce d a m true (fun fp e k seg xs r =>
    let u := runningSums fp e (seg.map xs) r
    ([(k, u.1.getLastD 0)], u.2)))

/-- VREDMIN (R120). -/
def execVredmin (d a : Fin 48) (m : Option (Fin 12)) (h : Bool) (s : State) : Out :=
  s.run (.vredmin d a m h) .vector (vreduce d a m false (fun _ e k seg xs r => ([(k, extremum e false (seg.map xs))], r)))

/-- VREDMAX (R120). -/
def execVredmax (d a : Fin 48) (m : Option (Fin 12)) (h : Bool) (s : State) : Out :=
  s.run (.vredmax d a m h) .vector (vreduce d a m false (fun _ e k seg xs r => ([(k, extremum e true (seg.map xs))], r)))

/-- VSCAN (R120). -/
def execVscan (d a : Fin 48) (m : Option (Fin 12)) (h : Bool) (s : State) : Out :=
  s.run (.vscan d a m h) .vector (vreduce d a m true (fun fp e _ seg xs r =>
    let u := runningSums fp e (seg.map xs) r
    (seg.zip u.1, u.2)))

/-! ### VCVT (R141) -/

/-- One element of VCVT from type `e.ty` to `t`. -/
def cvtElem (fp : FpRegs) (e : VEnv) (mode : RMode) (t i x : Nat) : Nat × Flags :=
  let wt := elemBits t
  if isF e.ty then
    let v := (fmtOf e.ty).read x
    if e.ty = t then ((fmtOf t).canon x, 0)
    else if isF t then fp.roundTo (fmtOf t) mode i (v, 0)
    else match v with
      | .nan => (0, IVO)
      | .inf neg => (truncTo wt (if neg then (if isI t then -(2 ^ (wt - 1) : Int) else 0)
          else (if isI t then 2 ^ (wt - 1) - 1 else 2 ^ wt - 1)), IVO)
      | v =>
        let y := roundZ mode (fp.rand mode i) v
        if satTo y.1 wt (isI t) = y.1 then (truncTo wt y.1, y.2) else (truncTo wt (satTo y.1 wt (isI t)), IVO)
  else
    let n := intOf (isI e.ty) e.w x
    if isF t then fp.roundTo (fmtOf t) mode i (Val.ofInt n, 0)
    else (truncTo wt (satTo n wt (isI t)), 0)

/-- The registers of VCVT's destination (R140). -/
def cvtGroup (e : VEnv) (t : Nat) : Nat := max 1 (e.g * elemBits t / e.w)

/-- VCVT (R141). -/
def execVcvt (d a : Fin 48) (r : BitVec 2) (t : BitVec 4) (m : Option (Fin 12)) (h : Bool) (s : State) : Out :=
  s.run (.vcvt d a r t m h) .vector (fun is => do
    needType is tyINF
    let e := (← getA is).venv
    let gd := cvtGroup e t.toNat
    if 4 < gd then illtype is 6
    if a.val % e.g ≠ 0 ∨ d.val % gd ≠ 0 then illtype is 4
    consume is a e.w
    room is d gd false
    let x ← getA is
    let es := x.actives m
    let mode := x.fp.effRM r.toNat
    let xs ← vread is a e.w es
    vput is d (elemBits t.toNat) (es.map (fun i => (i, cvtElem x.fp e mode t.toNat i (xs i))))
    if isF t.toNat ∧ t.toNat ≠ e.ty then stepSr is mode
    else if isF e.ty ∧ !isF t.toNat then stepSr is mode)

/-! ### VQNT and VDQNT (R138, R142) -/

/-- The block size that BLK codes. -/
def blkOf (k : BitVec 2) : Nat := 16 * 2 ^ k.toNat

/-- The checks of R140 for VQNT and VDQNT, and the consumption of the two parameter registers. -/
def qStart (is : Issue) (d a : Fin 48) (wa : Nat) : M Unit := do
  needType is isF
  let x ← getA is
  if !x.fp.qparm.getLsbD 6 then illtype is 7
  needGroups is [a, d]
  consume is a wa
  consumeRegs is [(x.fp.qparm.toNat % 64, x.strip.vlen), (x.fp.qparm.toNat % 64 + 1, x.strip.vlen)]
  room is d x.venv.g false

/-- The scale and zero point of the elements (R138). -/
def qParams (is : Issue) (blk : Nat) (es : List Nat) : M ((Nat → Val) × (Nat → Nat)) := do
  let x ← getA is
  let preg := x.fp.qparm.toNat % 64
  let gi (i : Nat) : Nat := (x.fp.qparm.toNat / 2 ^ 8 % 2 ^ 7 + i) / blk
  let gs := (es.map gi).dedup
  let sc ← vread is (Fin.ofNat 48 preg) 16 gs
  let zs ← vread is (Fin.ofNat 48 (preg + 1)) 8 gs
  return (fun i => f16.read (sc (gi i)), fun i => zs (gi i))

/-- The code of one element of VQNT. -/
def qntElem (fp : FpRegs) (mode : RMode) (b i : Nat) (v sc : Val) (z : Nat) : Nat × Flags :=
  let badScale : Bool := sc.isNan || sc.isZero || (match sc with | .inf _ => true | .nan => false | .num _ _ _ _ => false)
  if v.isNan || badScale then (z % 2 ^ b, IVO)
  else match v with
    | .inf neg => (if neg = sc.neg? then 2 ^ b - 1 else 0, IVO)
    | v =>
      let y := roundZ mode (fp.rand mode i) (Val.div v sc).1
      ((satTo (y.1 + z) b false).toNat, y.2)

/-- VQNT (R142). -/
def execVqnt (d a : Fin 48) (r : BitVec 2) (q : Bool) (k : BitVec 2) (m : Option (Fin 12)) (h : Bool) (s : State) : Out :=
  s.run (.vqnt d a r q k m h) .vector (fun is => do
    let w := (← getA is).venv.w
    qStart is d a w
    let x ← getA is
    let es := x.actives m
    let mode := x.fp.effRM r.toNat
    let b := if q then 8 else 4
    let xs ← vread is a w es
    let ps ← qParams is (blkOf k) es
    vput is d b (es.map (fun i => (i, qntElem x.fp mode b i ((fmtOf x.venv.ty).read (xs i)) (ps.1 i) (ps.2 i))))
    stepSr is mode)

/-- VDQNT (R142). DESIGN CHOICE (log entry 81): where code = zero the integer factor is taken as +0, so under a negative scale the result
is -0. -/
def execVdqnt (d a : Fin 48) (r : BitVec 2) (q : Bool) (k : BitVec 2) (m : Option (Fin 12)) (h : Bool) (s : State) : Out :=
  s.run (.vdqnt d a r q k m h) .vector (fun is => do
    let b := if q then 8 else 4
    qStart is d a b
    let x ← getA is
    let es := x.actives m
    let mode := x.fp.effRM r.toNat
    let f := fmtOf x.venv.ty
    let xs ← vread is a b es
    let ps ← qParams is (blkOf k) es
    vput is d x.venv.w (es.map (fun i => (i,
      x.fp.roundTo f mode i (Val.mul (ps.1 i) (Val.ofInt ((xs i : Int) - (ps.2 i : Nat)))))))
    stepSr is mode)

/-! ### VTOPK (R143) -/

/-- Whether key `p` stands above key `q`. -/
def keyAbove (e : VEnv) (abs : Bool) (p q : Nat) : Bool :=
  if isF e.ty then
    let f := fmtOf e.ty
    let x := if abs then (f.read p).abs else f.read p
    let y := if abs then (f.read q).abs else f.read q
    match x, y with
    | .nan, _ => false
    | _, .nan => true
    | x, y => decide (0 < Val.cmp x y)
  else
    let x := intOf (isI e.ty) e.w p
    let y := intOf (isI e.ty) e.w q
    if abs then decide (y.natAbs < x.natAbs) else decide (y < x)

/-- VTOPK and VTOPK.ABS (R143). -/
def vtopk (abs : Bool) (d : Fin 12) (a : Fin 48) (b : Fin 32) (m : Option (Fin 12)) (is : Issue) : M Unit := do
  let p ← vstart is tyINF [a] none m
  let xs ← vread is a p.1.w p.2
  let k := (← getS is b).toNat
  let x ← getA is
  let bits := (segments x.segHead p.2).flatMap (fun seg => seg.map (fun i =>
    let beaten := seg.filter (fun j => keyAbove p.1 abs (xs j) (xs i)
      || (!keyAbove p.1 abs (xs i) (xs j) && decide (j < i)))
    (i, decide (beaten.length < k))))
  mwrite is d bits

/-- VTOPK (R143). -/
def execVtopk (d : Fin 12) (a : Fin 48) (b : Fin 32) (m : Option (Fin 12)) (h : Bool) (s : State) : Out :=
  s.run (.vtopk d a b m h) .vector (vtopk false d a b m)

/-- VTOPK.ABS (R143). -/
def execVtopkAbs (d : Fin 12) (a : Fin 48) (b : Fin 32) (m : Option (Fin 12)) (h : Bool) (s : State) : Out :=
  s.run (.vtopkAbs d a b m h) .vector (vtopk true d a b m)

/-! ### Dependences (R145-R150) -/

/-- The types DEP accepts. -/
def tyDep (t : Nat) : Bool := !isQ t

/-- VCONF (R147). DESIGN CHOICE (log entry 82): IDXFIT is judged on VL as it stands before the operand is consumed, that is before a trim
that its landing may make (R145, R236). -/
def execVconf (d a : Fin 48) (m : Option (Fin 12)) (h : Bool) (s : State) : Out :=
  s.run (.vconf d a m h) .vector (fun is => do
    needType is tyDep
    needGroups is [a, d]
    let e := (← getA is).venv
    if 2 ^ e.w - 1 < e.vl then illtype is 8
    let p ← vstart is tyDep [a] (some d) m
    let xs ← vread is a p.1.w p.2
    vwrite is d p.1.w (p.2.map (fun i =>
      (i, match (p.2.filter (fun j => decide (j < i) && xs j == xs i)).getLast? with
        | some j => j % 2 ^ p.1.w
        | none => 2 ^ p.1.w - 1))))

/-- The end of the run that begins at `start` (R148). -/
def runEnd (w vl : Nat) (act : List Nat) (xs : Nat → Nat) (start : Nat) : Nat :=
  if vl ≤ start then vl
  else ((act.filter (fun i => decide (start < i ∧ xs i ≠ 2 ^ w - 1 ∧ start ≤ xs i))).head?).getD vl

/-- The active elements, their dependences and the end of a run. DESIGN CHOICE (log entry 83): the elements of va that are read, and so can
meet poison or a faulted landing, are the active ones above the start, also those beyond the end of the run (R148). -/
def runOf (is : Issue) (a : Fin 48) (b : Fin 32) (m : Option (Fin 12)) : M (VEnv × List Nat × Nat × Nat) := do
  let p ← vstart is tyDep [a] none m
  let start := (← getS is b).toNat
  let xs ← vread is a p.1.w (p.2.filter (fun i => decide (start < i)))
  return (p.1, p.2, start, runEnd p.1.w p.1.vl p.2 xs start)

/-- VPART (R148): every bit below VL is written. -/
def execVpart (d : Fin 12) (a : Fin 48) (b : Fin 32) (m : Option (Fin 12)) (h : Bool) (s : State) : Out :=
  s.run (.vpart d a b m h) .vector (fun is => do
    let r ← runOf is a b m
    mwrite is d ((List.range r.1.vl).map (fun i =>
      (i, r.2.1.contains i && decide (r.2.2.1 ≤ i ∧ i < r.2.2.2)))))

/-- VPARTE (R148). -/
def execVparte (d : Fin 32) (a : Fin 48) (b : Fin 32) (m : Option (Fin 12)) (h : Bool) (s : State) : Out :=
  s.run (.vparte d a b m h) .vector (fun is => do
    let r ← runOf is a b m
    setS is d (BitVec.ofNat 64 r.2.2.2))

/-- The rows that fit in `n` elements: their number, the elements they take, the heads of those that are not empty (R150). -/
def packRows (n : Nat) : List Nat → Nat → Nat × Nat × List Nat
  | [], cum => (0, cum, [])
  | l :: t, cum =>
    if n < cum + l then (0, cum, [])
    else
      let r := packRows n t (cum + l)
      (r.1 + 1, r.2.1, if 0 < l then cum :: r.2.2 else r.2.2)

/-- VSEGL (R150). -/
def execVsegl (d : Fin 32) (a : Fin 48) (b : Fin 12) (h : Bool) (s : State) : Out :=
  s.run (.vsegl d a b h) .vector (fun is => do
    let p ← vstart is tyDep [a] none none
    let n := p.1.vl
    let xs ← vread is a p.1.w p.2
    let r := packRows n ((List.range n).map xs) 0
    let short : Bool := decide (r.1 = 0 ∧ 0 < n)
    let heads := if short then [0] else r.2.2
    mwrite is b ((List.range n).map (fun i => (i, heads.contains i)))
    modA is (fun x => x.modStrip (fun st => { st with
      vl := BitVec.ofNat 32 (if short then n else r.2.1), segm := BitVec.ofNat 5 (16 + b.val) }))
    setS is d (BitVec.ofNat 64 r.1))

end Sys2Proof.Machine
end

