-- ==== Sys2Proof/Machine/Auto.lean ====
section
/-! DEFINITION. What moves when the agenda names nothing and the current agent does not go on (log entry 10): the first step of an
engine, the Harbour Master or firmware that changes something, else the next agent. What the host and the links send comes from the
agenda alone. -/

namespace Sys2Proof.Machine

/-- The state that an outcome leads to. -/
def outState (s : State) (o : Out) : State :=
  match o with
  | .next s' => s'
  | .fault _ | .refused _ => s

/-- The first of some steps that changes the state. -/
def firstMove (s : State) : List (State → Out) → Option State
  | [] => none
  | f :: fs => let s' := outState s (f s); if s' = s then firstMove s fs else some s'

/-- The command of an opcode (R371). -/
def commandOf (op f : Nat) : State → Out :=
  match op with
  | 0x01 => execPartCreate f
  | 0x02 => execPartDestroy f
  | 0x03 => execPartReset f
  | 0x04 => execCodeLoad f
  | 0x05 => execCodeUnload f
  | 0x06 => execCtxCreate f
  | 0x07 => execCtxSave f
  | 0x08 => execCtxRestore f
  | 0x09 => execQueueCreate f
  | 0x0A => execQueueDestroy f
  | 0x0B => execDumpGrant f
  | 0x0C => execJournalRead f
  | 0x0D => execAttest f
  | 0x0E => execResolve f
  | 0x0F => execProxyDone f
  | _ => execHwcAllot f

/-- The debug command of an OP (R357). -/
def debugOf (op f : Nat) : State → Out :=
  match op with
  | 0x01 => execAttach f
  | 0x02 => execDetach f
  | 0x03 => execDebugHalt f
  | 0x04 => execResume f
  | 0x05 => execStepCmd f
  | 0x06 => execReadCmd f
  | 0x07 => execWriteCmd f
  | 0x08 => execBufferCmd f
  | 0x09 => execFreeze f
  | 0x0A => execThaw f
  | 0x0B => execNodes f
  | 0x0C => execDforce f
  | 0x0D => execRings f
  | 0x0E => execParthalt f
  | _ => execPartresume f

/-- The steps that the engines of a Quay can take. -/
def Quay.moves (q : Nat) (y : Quay) : List (State → Out) :=
  y.berths.toList.zipIdx.flatMap (fun b => (b.1.copies.take 1).map (fun c => execBteRow q b.2 (c.base + c.nextRow)))
  ++ y.tcopies.map (fun (c : Nat × Copy) => execBteRow q (16 + c.1) c.2.nextRow)
  ++ (if y.tile.feeds = [] then [] else [execTfeedWritten q])
  ++ (if y.tile.asyncs = [] then [] else [execAsyncForceDone q])
  ++ y.leaseq.map (fun g => execQuadGrant g)
  ++ y.hashPend.toList.map (fun x => execWhashWrite q x.1 x.2)

/-- The steps of an agent's memory. -/
def Agent.moves (g : Nat) (a : Agent) : List (State → Out) :=
  (match a.status with | .fatal _ => [execSalvage g] | _ => [])
  ++ (if a.mem.queue = [] then [] else [execStorePerformed g 0])
  ++ (if a.mem.loadsOut = 0 then [] else [execLoadReturned g])
  ++ (if a.status.replays && a.strip.ppend then [(fun s => .next (s.preemptWaiting g) : State → Out)] else [])

/-- The steps of a function page. -/
def Func.moves (f : Nat) (d : Func) (s : State) : List (State → Out) :=
  (match s.command f with | some x => [commandOf (byteField x 4 2) f] | none => [])
  ++ (if d.dbgBusy then [debugOf ((d.dbgCmd.toList.headD 0).toNat) f] else [])
  ++ (if d.inval.isSome then [execInvalidationDone f] else [])

/-- The steps of a launch queue. -/
def queueMoves (q : Nat) (s : State) : List (State → Out) :=
  match s.nextEntry q with
  | none => []
  | some e => match e % 256 with
    | 1 => [execQueueLaunch q]
    | 2 => [execQueueWait q]
    | 3 => [execQueueSignal q]
    | _ => [execQueueNop q]

/-- The steps of a task queue. -/
def TaskQueue.moves (k : Nat) (t : TaskQueue) : List (State → Out) :=
  if t.owned && t.resident && !t.stopped then
    execTaskDecode k :: (t.ready.filter (fun d => d.preds = 0)).map (fun d => execTaskLaunch k d.seq)
  else []

/-- Everything that can move by itself, in the order in which it is tried. -/
def State.moves (s : State) : List (State → Out) :=
  s.agents.flatMap (fun a => a.2.moves a.1)
  ++ s.fw.parts.map (fun p => execTrapRecordPost p.1)
  ++ s.dies.flatMap (fun d => d.2.wakes.map (fun w => execFutureWakeup w.addr))
  ++ s.fw.funcs.flatMap (fun d => d.2.moves d.1 s)
  ++ (s.link.invalidating.map (fun i => execInvalidateCompletion i.1))
  ++ s.quays.flatMap (fun y => y.2.moves y.1)
  ++ s.dies.flatMap (fun d => if d.2.hits = [] then [] else [execWatchEngine d.1])
  ++ (List.range s.work.groups.length).map (fun k => execBarrierPhaseComplete k)
  ++ s.fw.lqs.flatMap (fun q => queueMoves q.1 s)
  ++ (s.work.launches.filter (fun l => l.2.live && decide (l.2.placed.length < l.2.total))).map (fun l => execWaveStart l.1)
  ++ s.fw.lqs.map (fun q => execQueueSwitch q.1)
  ++ s.work.placing.map (fun r => execRemoteInstanceStart r.1)
  ++ s.fw.tqs.flatMap (fun t => t.2.moves t.1)
  ++ s.work.tasks.flatMap (fun t => if t.2.state = .ready then (List.range 9).map (fun k => execTaskResume t.1 k) else [])

/-- The agent that has the turn after the current one: the next key of an agent that executes, in a circle. -/
def State.nextAgent (s : State) : Option Nat :=
  let ks := (s.agents.filter (fun a => a.2.running)).map (fun a => a.1)
  let up := ks.filter (fun k => decide (s.cur < k))
  let least (l : List Nat) : Option Nat := l.foldl (fun (m : Option Nat) k => match m with | none => some k | some x => some (min x k)) none
  (least up).orElse (fun _ => least ks)

/-- What moves when the current agent does not go on. -/
def State.auto (s : State) : State :=
  match firstMove s s.moves with
  | some s' => s'
  | none =>
    match s.nextAgent with
    | some g => { s.modAg g (fun a => { a with marks := { a.marks with stall := false } }) with cur := g }
    | none => s

end Sys2Proof.Machine
end

