-- ==== Sys2Proof/Machine/Fetch.lean ====
section
/-! DEFINITION. Fetching a word (R19, R27-R34, R44, R54, R164, R180): the traps of a fetch and of a word that is no
instruction. Memory is read where it lies; an agent's own pending stores are not fetched (log entry 19). -/

namespace Sys2Proof.Machine

/-- The subcode of a refused word (R34). -/
def illSub : Ill → Nat
  | .zero => 1 | .major => 2 | .fn => 3 | .zfield => 4 | .regcode => 5 | .scopecode => 6 | .expstep => 0x10 | .expfn => 0x11

/-- The trap of a word that is no instruction (R30, R33, R34). -/
def illTrap (e : Ill) (pfx : Bool) (w : Nat) : TrapInfo :=
  match e with
  | .expstep | .expfn =>
    if pfx then { cause := Cause.ill, sub := 7, val := BitVec.ofNat 64 w }
    else { cause := Cause.exper, sub := illSub e, val := BitVec.ofNat 64 w }
  | _ => { cause := Cause.ill, sub := illSub e, val := BitVec.ofNat 64 w }

/-- The architectural register that a physical one stands for, in the map or in the snapshot of a cut. -/
def Agent.archOf (a : Agent) (find : VMap → Nat → Option Nat) (p : Nat) : Option Nat :=
  (find a.vec.map p).orElse (fun _ => match a.strip.ckpt.map with | some m => if a.strip.isOpen then find m p else none | none => none)

/-- The vector register of a map that a physical register holds. -/
def VMap.vOf (m : VMap) (p : Nat) : Option Nat := m.v.toList.findIdx? (fun x => decide (x.val = p))
/-- The mask register of a map that a physical register holds. -/
def VMap.mOf (m : VMap) (p : Nat) : Option Nat := m.m.toList.findIdx? (fun x => decide (x.val = p))

/-- MCHK_UE of an uncorrectable error in an agent's own storage (R352): REGFILE with the register's number, SBUF with the granule's
address. An error in a vector or mask register that no architectural one holds is in no register. -/
def Agent.errorTrap (a : Agent) : Option TrapInfo :=
  let regfile (r : Nat) : TrapInfo := { cause := Cause.mchkUe, sub := 1, val := BitVec.ofNat 64 r }
  (((a.errs.s ++ a.errs.cs).map (fun r => r.val) ++ (a.errs.a ++ a.errs.ca).map (fun r => r.val)
      ++ a.errs.v.filterMap (fun x => a.archOf VMap.vOf x.1) ++ a.errs.m.filterMap (a.archOf VMap.mOf)).map regfile
    ++ a.errs.sbuf.map (fun n => ({ cause := Cause.mchkUe, sub := 2, val := offOf (BitVec.ofNat 72 (8 * n))
                                    win := winOf (BitVec.ofNat 72 (8 * n)) } : TrapInfo))).head?

/-- The lanes of a set, in the order of the slices that they hold (R69). -/
def laneList (live : BitVec 32) : List Nat := (List.range 32).filter (fun l => live.getLsbD l)

/-- The lane-retirement counts of the lanes that an agent's vector errors lie in advance (R71, R352). -/
def State.countLanes (s : State) (g : Nat) : State :=
  let lanes := laneList (s.ag g).strip.live
  s.modQy (quayOf g) (fun y => { y with laneErrs := (s.ag g).errs.v.foldl (fun m x =>
    match lanes[x.2]? with | some l => Assoc.set l (Assoc.get 0 l m + 1) m | none => m) y.laneErrs })

/-- Takes the trap of an uncorrectable error before the agent's next word (R352, log entry 77). -/
def State.takeError (s : State) (g : Nat) (t : TrapInfo) : State := (s.countLanes g).takeTrap (s.boundary g) t

/-- What a fetch finds: a word, with the state that keeps its translation, or the trap, with the state it leaves. -/
inductive Fetched where
  | word (w : Nat) (s : State)
  | trap (t : TrapInfo) (s : State)

/-- The fetch of an agent's next word. -/
def State.fetch (s : State) (g : Nat) : Fetched :=
  let a := s.ag g
  let at_ := a.wordAddr.setWidth 72
  if a.marks.jumpWin ≠ 0 then
    .trap { cause := Cause.window, sub := 4, val := offOf at_, win := a.marks.jumpWin }
      (s.modAg g (fun x => { x with marks := { x.marks with jumpWin := 0 } }))
  else if at_.toNat % 4 ≠ 0 then .trap { cause := Cause.align, val := offOf at_ } s
  else match s.xlate (s.actor g) at_ Acc.fetch with
  | .error (.trap c sub) => .trap (memTrap c sub at_) s
  | .error .ats => .trap (memTrap Cause.window 4 at_) s
  | .ok h =>
    let s := s.keep (s.actor g) h
    match s.badRead h.place 4 with
    | some (true, q) => .trap { cause := Cause.mchkUe, sub := 4, val := offOf at_ } (s.setPoison q)
    | some (false, _) => .trap { cause := Cause.mchkPoison, val := offOf at_ } s
    | none => .word (leNat ((h.place.span 4).map (fun p => if (devAt p.addr).isSome then s.devByte p.addr else s.byte p))) s

end Sys2Proof.Machine
end

