-- ==== Sys2Proof/Machine/Boot.lean ====
section
/-! DEFINITION. A word stored where the next step fetches (log entry 11). A module after reset runs nothing until firmware has created
a partition and a context, loaded code and started a launch; `boot` stands for all of these together, in partition 0 and context 0,
on Quay 0: a code page at 0x10000 with the system bit, its page tables, and an agent at its first word. -/

namespace Sys2Proof.Machine

/-- Whether a word's major belongs to the instructions that only the Pilot executes (R17, R32): the tile majors and TMMAS. -/
def pilotWord (w : Nat) : Bool := decide (w / 2 ^ 26 = 0x24 ∨ w / 2 ^ 26 = 0x25 ∨ w / 2 ^ 26 = 0x3F)

/-- The place where the current agent fetches its next word, when the next step fetches one. -/
def State.fetchPlace (s : State) : Option Place :=
  let a := s.ag s.cur
  let at_ := a.wordAddr.setWidth 72
  if a.status ≠ .run ∨ a.marks.stall ∨ a.marks.jumpWin ≠ 0 ∨ a.regs.pfx ≠ [] ∨ at_.toNat % 4 ≠ 0 ∨ s.due s.cur then none
  else match s.xlate (s.actor s.cur) at_ Acc.fetch with
  | .ok h => if (devAt h.place.addr).isSome ∧ h.place.space = .fabric then none else some h.place
  | .error _ => none

/-- The four bytes of a word. -/
def State.putWord (s : State) (p : Place) (w : Nat) : State := s.setBytes ((leBytes 4 w).zipIdx.map (fun b => (p.plus b.2, b.1)))

/-- A partition, a context, code and an agent, ready to fetch. -/
def State.boot (s : State) (pilot : Bool) : State :=
  let base := s.modid * 2 ^ 44
  let g := if pilot then 8 else 0
  let part : Part := { exists_ := true, owner := 0, piers := 1, root := base + 0x20000, ranges := [(base, 2 ^ 41)] }
  let ctx : Ctx := { exists_ := true, part := 0, quays := [0] }
  let code : Code := { part := 0, segs := [⟨0x10000, 0x10000, 0xF⟩], system := true }
  let s := { s with
    agents := Assoc.set g { status := .run, regs := { pc := 0x10000 }, task := { qmin := 1, qpref := 1 }, tkey := s.work.nextTask } s.agents
    cur := g
    work := { s.work with
      tasks := Assoc.set s.work.nextTask { kind := if pilot then .pilot s.work.nextLaunch [] else .hart s.work.nextLaunch [], state := .running g } s.work.tasks
      nextTask := s.work.nextTask + 1, nextLaunch := s.work.nextLaunch + 1 }
    fw := { s.fw with
      parts := Assoc.set 0 part s.fw.parts, ctxs := Assoc.set 0 ctx s.fw.ctxs, codes := Assoc.set 0 code s.fw.codes } }
  (((s.setPte (base + 0x20000) (base + 0x40001)).setPte (base + 0x40000) (base + 0x60001)).setPte (base + 0x60000) (base + 0x80001)).setPte
    (base + 0x80008) (base + 0x1001F)

/-- Stores a word where the next step fetches: where the current agent stands, or at the start of a program that is loaded for it. -/
def State.placeWord (s : State) (w : Nat) : State :=
  let s := { s with agenda := [] }
  match s.fetchPlace with
  | some p => s.putWord p w
  | none => (s.boot (pilotWord w)).putWord ⟨.fabric, s.modid * 2 ^ 44 + 0x10000⟩ w

end Sys2Proof.Machine
end

