-- ==== Sys2Proof/Machine/Dispatch.lean ====
section
/-! DEFINITION. The meaning of every instruction: one arm per constructor. -/

namespace Sys2Proof.Machine

def exec (i : Instr) (s : State) : Host.Outcome State Fault Refusal :=
  match i with
  | .csrr d c => Sys2Proof.Machine.execCsrr d c s
  | .csrw d a c => Sys2Proof.Machine.execCsrw d a c s
  | .csrs d a c => Sys2Proof.Machine.execCsrs d a c s
  | .csrc d a c => Sys2Proof.Machine.execCsrc d a c s
  | .svc c => Sys2Proof.Machine.execSvc c s
  | .eret => Sys2Proof.Machine.execEret s
  | .halt => Sys2Proof.Machine.execHalt s
  | .nop => Sys2Proof.Machine.execNop s
  | .brk c => Sys2Proof.Machine.execBrk c s
  | .trcm a c => Sys2Proof.Machine.execTrcm a c s
  | .pfx im => Sys2Proof.Machine.execPfx im s
  | .fence o sx => Sys2Proof.Machine.execFence o sx s
  | .vlsync sx => Sys2Proof.Machine.execVlsync sx s
  | .barv l => Sys2Proof.Machine.execBarv l s
  | .barw l => Sys2Proof.Machine.execBarw l s
  | .add d a b => Sys2Proof.Machine.execAdd d a b s
  | .sub d a b => Sys2Proof.Machine.execSub d a b s
  | .and d a b => Sys2Proof.Machine.execAnd d a b s
  | .or d a b => Sys2Proof.Machine.execOr d a b s
  | .xor d a b => Sys2Proof.Machine.execXor d a b s
  | .sll d a b => Sys2Proof.Machine.execSll d a b s
  | .srl d a b => Sys2Proof.Machine.execSrl d a b s
  | .sra d a b => Sys2Proof.Machine.execSra d a b s
  | .slt d a b => Sys2Proof.Machine.execSlt d a b s
  | .sltn d a b => Sys2Proof.Machine.execSltn d a b s
  | .min d a b => Sys2Proof.Machine.execMin d a b s
  | .max d a b => Sys2Proof.Machine.execMax d a b s
  | .minn d a b => Sys2Proof.Machine.execMinn d a b s
  | .maxn d a b => Sys2Proof.Machine.execMaxn d a b s
  | .clz d a => Sys2Proof.Machine.execClz d a s
  | .popc d a => Sys2Proof.Machine.execPopc d a s
  | .addi d a im => Sys2Proof.Machine.execAddi d a im s
  | .andi d a im => Sys2Proof.Machine.execAndi d a im s
  | .ori d a im => Sys2Proof.Machine.execOri d a im s
  | .xori d a im => Sys2Proof.Machine.execXori d a im s
  | .slli d a im => Sys2Proof.Machine.execSlli d a im s
  | .srli d a im => Sys2Proof.Machine.execSrli d a im s
  | .srai d a im => Sys2Proof.Machine.execSrai d a im s
  | .slti d a im => Sys2Proof.Machine.execSlti d a im s
  | .li d im => Sys2Proof.Machine.execLi d im s
  | .mul d a b => Sys2Proof.Machine.execMul d a b s
  | .mulh d a b => Sys2Proof.Machine.execMulh d a b s
  | .mulhn d a b => Sys2Proof.Machine.execMulhn d a b s
  | .div d a b => Sys2Proof.Machine.execDiv d a b s
  | .divn d a b => Sys2Proof.Machine.execDivn d a b s
  | .rem d a b => Sys2Proof.Machine.execRem d a b s
  | .remn d a b => Sys2Proof.Machine.execRemn d a b s
  | .beq a b o => Sys2Proof.Machine.execBeq a b o s
  | .bne a b o => Sys2Proof.Machine.execBne a b o s
  | .blt a b o => Sys2Proof.Machine.execBlt a b o s
  | .bge a b o => Sys2Proof.Machine.execBge a b o s
  | .bltn a b o => Sys2Proof.Machine.execBltn a b o s
  | .bgen a b o => Sys2Proof.Machine.execBgen a b o s
  | .j o => Sys2Proof.Machine.execJ o s
  | .call o => Sys2Proof.Machine.execCall o s
  | .jr a => Sys2Proof.Machine.execJr a s
  | .callr a => Sys2Proof.Machine.execCallr a s
  | .ldb d a o => Sys2Proof.Machine.execLdb d a o s
  | .ldh d a o => Sys2Proof.Machine.execLdh d a o s
  | .ldw d a o => Sys2Proof.Machine.execLdw d a o s
  | .ldd d a o => Sys2Proof.Machine.execLdd d a o s
  | .ldbn d a o => Sys2Proof.Machine.execLdbn d a o s
  | .ldhn d a o => Sys2Proof.Machine.execLdhn d a o s
  | .ldwn d a o => Sys2Proof.Machine.execLdwn d a o s
  | .lda d a o => Sys2Proof.Machine.execLda d a o s
  | .stb d a o => Sys2Proof.Machine.execStb d a o s
  | .sth d a o => Sys2Proof.Machine.execSth d a o s
  | .stw d a o => Sys2Proof.Machine.execStw d a o s
  | .std d a o => Sys2Proof.Machine.execStd d a o s
  | .sta d a o => Sys2Proof.Machine.execSta d a o s
  | .amoadd d a b w o sx => Sys2Proof.Machine.execAmoadd d a b w o sx s
  | .amoswp d a b w o sx => Sys2Proof.Machine.execAmoswp d a b w o sx s
  | .amocas d a b w o sx => Sys2Proof.Machine.execAmocas d a b w o sx s
  | .amomin d a b w o sx => Sys2Proof.Machine.execAmomin d a b w o sx s
  | .amomax d a b w o sx => Sys2Proof.Machine.execAmomax d a b w o sx s
  | .amoand d a b w o sx => Sys2Proof.Machine.execAmoand d a b w o sx s
  | .amoor d a b w o sx => Sys2Proof.Machine.execAmoor d a b w o sx s
  | .amoxor d a b w o sx => Sys2Proof.Machine.execAmoxor d a b w o sx s
  | .aadd d a b => Sys2Proof.Machine.execAadd d a b s
  | .aaddi d a im => Sys2Proof.Machine.execAaddi d a im s
  | .aset d a im => Sys2Proof.Machine.execAset d a im s
  | .alo d a => Sys2Proof.Machine.execAlo d a s
  | .awn d a => Sys2Proof.Machine.execAwn d a s
  | .adiff d a b => Sys2Proof.Machine.execAdiff d a b s
  | .vsetl d a im => Sys2Proof.Machine.execVsetl d a im s
  | .vsetlr d a b => Sys2Proof.Machine.execVsetlr d a b s
  | .vend => Sys2Proof.Machine.execVend s
  | .vcut => Sys2Proof.Machine.execVcut s
  | .vadd d a b m h => Sys2Proof.Machine.execVadd d a b m h s
  | .vsub d a b m h => Sys2Proof.Machine.execVsub d a b m h s
  | .vmul d a b m h => Sys2Proof.Machine.execVmul d a b m h s
  | .vmulh d a b m h => Sys2Proof.Machine.execVmulh d a b m h s
  | .vdiv d a b m h => Sys2Proof.Machine.execVdiv d a b m h s
  | .vrem d a b m h => Sys2Proof.Machine.execVrem d a b m h s
  | .vmin d a b m h => Sys2Proof.Machine.execVmin d a b m h s
  | .vmax d a b m h => Sys2Proof.Machine.execVmax d a b m h s
  | .vmac d a b m h => Sys2Proof.Machine.execVmac d a b m h s
  | .vnmac d a b m h => Sys2Proof.Machine.execVnmac d a b m h s
  | .vand d a b m h => Sys2Proof.Machine.execVand d a b m h s
  | .vor d a b m h => Sys2Proof.Machine.execVor d a b m h s
  | .vxor d a b m h => Sys2Proof.Machine.execVxor d a b m h s
  | .vshl d a b m h => Sys2Proof.Machine.execVshl d a b m h s
  | .vshr d a b m h => Sys2Proof.Machine.execVshr d a b m h s
  | .vsra d a b m h => Sys2Proof.Machine.execVsra d a b m h s
  | .vaddVs d a b x m h => Sys2Proof.Machine.execVaddVs d a b x m h s
  | .vsubVs d a b x m h => Sys2Proof.Machine.execVsubVs d a b x m h s
  | .vmulVs d a b x m h => Sys2Proof.Machine.execVmulVs d a b x m h s
  | .vmulhVs d a b x m h => Sys2Proof.Machine.execVmulhVs d a b x m h s
  | .vdivVs d a b x m h => Sys2Proof.Machine.execVdivVs d a b x m h s
  | .vremVs d a b x m h => Sys2Proof.Machine.execVremVs d a b x m h s
  | .vminVs d a b x m h => Sys2Proof.Machine.execVminVs d a b x m h s
  | .vmaxVs d a b x m h => Sys2Proof.Machine.execVmaxVs d a b x m h s
  | .vmacVs d a b x m h => Sys2Proof.Machine.execVmacVs d a b x m h s
  | .vnmacVs d a b x m h => Sys2Proof.Machine.execVnmacVs d a b x m h s
  | .vandVs d a b x m h => Sys2Proof.Machine.execVandVs d a b x m h s
  | .vorVs d a b x m h => Sys2Proof.Machine.execVorVs d a b x m h s
  | .vxorVs d a b x m h => Sys2Proof.Machine.execVxorVs d a b x m h s
  | .vshlVs d a b x m h => Sys2Proof.Machine.execVshlVs d a b x m h s
  | .vshrVs d a b x m h => Sys2Proof.Machine.execVshrVs d a b x m h s
  | .vsraVs d a b x m h => Sys2Proof.Machine.execVsraVs d a b x m h s
  | .vaddVi d a im m h => Sys2Proof.Machine.execVaddVi d a im m h s
  | .vsubVi d a im m h => Sys2Proof.Machine.execVsubVi d a im m h s
  | .vandVi d a im m h => Sys2Proof.Machine.execVandVi d a im m h s
  | .vorVi d a im m h => Sys2Proof.Machine.execVorVi d a im m h s
  | .vxorVi d a im m h => Sys2Proof.Machine.execVxorVi d a im m h s
  | .vshlVi d a im m h => Sys2Proof.Machine.execVshlVi d a im m h s
  | .vshrVi d a im m h => Sys2Proof.Machine.execVshrVi d a im m h s
  | .vsraVi d a im m h => Sys2Proof.Machine.execVsraVi d a im m h s
  | .vabs d a m h => Sys2Proof.Machine.execVabs d a m h s
  | .vneg d a m h => Sys2Proof.Machine.execVneg d a m h s
  | .vsqrt d a m h => Sys2Proof.Machine.execVsqrt d a m h s
  | .vexp2 d a m h => Sys2Proof.Machine.execVexp2 d a m h s
  | .vlog2 d a m h => Sys2Proof.Machine.execVlog2 d a m h s
  | .vclz d a m h => Sys2Proof.Machine.execVclz d a m h s
  | .vpopc d a m h => Sys2Proof.Machine.execVpopc d a m h s
  | .vmv d a m h => Sys2Proof.Machine.execVmv d a m h s
  | .vcmpeq d a b m h => Sys2Proof.Machine.execVcmpeq d a b m h s
  | .vcmpne d a b m h => Sys2Proof.Machine.execVcmpne d a b m h s
  | .vcmplt d a b m h => Sys2Proof.Machine.execVcmplt d a b m h s
  | .vcmple d a b m h => Sys2Proof.Machine.execVcmple d a b m h s
  | .vcmpgt d a b m h => Sys2Proof.Machine.execVcmpgt d a b m h s
  | .vcmpge d a b m h => Sys2Proof.Machine.execVcmpge d a b m h s
  | .vcmpltn d a b m h => Sys2Proof.Machine.execVcmpltn d a b m h s
  | .vcmpgen d a b m h => Sys2Proof.Machine.execVcmpgen d a b m h s
  | .mand d a b m h => Sys2Proof.Machine.execMand d a b m h s
  | .mor d a b m h => Sys2Proof.Machine.execMor d a b m h s
  | .mxor d a b m h => Sys2Proof.Machine.execMxor d a b m h s
  | .mandn d a b m h => Sys2Proof.Machine.execMandn d a b m h s
  | .mset d m h => Sys2Proof.Machine.execMset d m h s
  | .mclr d m h => Sys2Proof.Machine.execMclr d m h s
  | .mcnt d a m h => Sys2Proof.Machine.execMcnt d a m h s
  | .mfirst d a m h => Sys2Proof.Machine.execMfirst d a m h s
  | .mbrkb d a m h => Sys2Proof.Machine.execMbrkb d a m h s
  | .mbrki d a m h => Sys2Proof.Machine.execMbrki d a m h s
  | .vbcast d a m h => Sys2Proof.Machine.execVbcast d a m h s
  | .vins d a b h => Sys2Proof.Machine.execVins d a b h s
  | .vext d a b h => Sys2Proof.Machine.execVext d a b h s
  | .vlast d a m h => Sys2Proof.Machine.execVlast d a m h s
  | .vidx d m h => Sys2Proof.Machine.execVidx d m h s
  | .vslup d a b m h => Sys2Proof.Machine.execVslup d a b m h s
  | .vsldn d a b m h => Sys2Proof.Machine.execVsldn d a b m h s
  | .vperm d a b m h => Sys2Proof.Machine.execVperm d a b m h s
  | .vcmpr d a m h => Sys2Proof.Machine.execVcmpr d a m h s
  | .vexpd d a m h => Sys2Proof.Machine.execVexpd d a m h s
  | .vmerge d a b m h => Sys2Proof.Machine.execVmerge d a b m h s
  | .vredsum d a m h => Sys2Proof.Machine.execVredsum d a m h s
  | .vredosum d a m h => Sys2Proof.Machine.execVredosum d a m h s
  | .vredmin d a m h => Sys2Proof.Machine.execVredmin d a m h s
  | .vredmax d a m h => Sys2Proof.Machine.execVredmax d a m h s
  | .vscan d a m h => Sys2Proof.Machine.execVscan d a m h s
  | .vcvt d a r t m h => Sys2Proof.Machine.execVcvt d a r t m h s
  | .vqnt d a r q k m h => Sys2Proof.Machine.execVqnt d a r q k m h s
  | .vdqnt d a r q k m h => Sys2Proof.Machine.execVdqnt d a r q k m h s
  | .vtopk d a b m h => Sys2Proof.Machine.execVtopk d a b m h s
  | .vtopkAbs d a b m h => Sys2Proof.Machine.execVtopkAbs d a b m h s
  | .vconf d a m h => Sys2Proof.Machine.execVconf d a m h s
  | .vpart d a b m h => Sys2Proof.Machine.execVpart d a b m h s
  | .vparte d a b m h => Sys2Proof.Machine.execVparte d a b m h s
  | .vsegl d a b h => Sys2Proof.Machine.execVsegl d a b h s
  | .vld d a b m n => Sys2Proof.Machine.execVld d a b m n s
  | .vlds d a b m n => Sys2Proof.Machine.execVlds d a b m n s
  | .vldx d a b m n c => Sys2Proof.Machine.execVldx d a b m n c s
  | .vldff d a b m n => Sys2Proof.Machine.execVldff d a b m n s
  | .vldc d a b m n => Sys2Proof.Machine.execVldc d a b m n s
  | .vst d a b m n => Sys2Proof.Machine.execVst d a b m n s
  | .vsts d a b m n => Sys2Proof.Machine.execVsts d a b m n s
  | .vstx d a b m n c => Sys2Proof.Machine.execVstx d a b m n c s
  | .vstc d a b m n => Sys2Proof.Machine.execVstc d a b m n s
  | .vamoadd d a b m o => Sys2Proof.Machine.execVamoadd d a b m o s
  | .vamoswp d a b m o => Sys2Proof.Machine.execVamoswp d a b m o s
  | .vamocas d a b m o => Sys2Proof.Machine.execVamocas d a b m o s
  | .vamomin d a b m o => Sys2Proof.Machine.execVamomin d a b m o s
  | .vamomax d a b m o => Sys2Proof.Machine.execVamomax d a b m o s
  | .vamoand d a b m o => Sys2Proof.Machine.execVamoand d a b m o s
  | .vamoor d a b m o => Sys2Proof.Machine.execVamoor d a b m o s
  | .vamoxor d a b m o => Sys2Proof.Machine.execVamoxor d a b m o s
  | .vamocasw d a b m o => Sys2Proof.Machine.execVamocasw d a b m o s
  | .brst n => Sys2Proof.Machine.execBrst n s
  | .brstFree n => Sys2Proof.Machine.execBrstFree n s
  | .gthw n a b m sx => Sys2Proof.Machine.execGthw n a b m sx s
  | .gthv d a b n sx => Sys2Proof.Machine.execGthv d a b n sx s
  | .gthvFf d a b n sx => Sys2Proof.Machine.execGthvFf d a b n sx s
  | .sctw n a b m sx => Sys2Proof.Machine.execSctw n a b m sx s
  | .bcpy n sx c d p => Sys2Proof.Machine.execBcpy n sx c d p s
  | .bavl d n => Sys2Proof.Machine.execBavl d n s
  | .waitc l sx c t => Sys2Proof.Machine.execWaitc l sx c t s
  | .seal d a => Sys2Proof.Machine.execSeal d a s
  | .unseal a => Sys2Proof.Machine.execUnseal a s
  | .pref h a o => Sys2Proof.Machine.execPref h a o s
  | .flush a o => Sys2Proof.Machine.execFlush a o s
  | .tld d a b => Sys2Proof.Machine.execTld d a b s
  | .tst d a b c => Sys2Proof.Machine.execTst d a b c s
  | .tforce d c => Sys2Proof.Machine.execTforce d c s
  | .tdrop d => Sys2Proof.Machine.execTdrop d s
  | .tzero d => Sys2Proof.Machine.execTzero d s
  | .tforceA d c => Sys2Proof.Machine.execTforceA d c s
  | .tmma d a b => Sys2Proof.Machine.execTmma d a b s
  | .tqmma d a b g q p => Sys2Proof.Machine.execTqmma d a b g q p s
  | .tew d a b o => Sys2Proof.Machine.execTew d a b o s
  | .tact d a sx o => Sys2Proof.Machine.execTact d a sx o s
  | .tred d a o r => Sys2Proof.Machine.execTred d a o r s
  | .tview d a sx => Sys2Proof.Machine.execTview d a sx s
  | .tfeed d sx v => Sys2Proof.Machine.execTfeed d sx v s
  | .tdrain d sx v => Sys2Proof.Machine.execTdrain d sx v s
  | .tstat d sx l => Sys2Proof.Machine.execTstat d sx l s
  | .gbind d a => Sys2Proof.Machine.execGbind d a s
  | .gbindFree a => Sys2Proof.Machine.execGbindFree a s
  | .gstep d a b => Sys2Proof.Machine.execGstep d a b s
  | .gmask d a f => Sys2Proof.Machine.execGmask d a f s
  | .gckpt a => Sys2Proof.Machine.execGckpt a s
  | .groll a b => Sys2Proof.Machine.execGroll a b s
  | .gfork d a => Sys2Proof.Machine.execGfork d a s
  | .gsave d a b => Sys2Proof.Machine.execGsave d a b s
  | .grest d a b => Sys2Proof.Machine.execGrest d a b s
  | .gstat d a sx => Sys2Proof.Machine.execGstat d a sx s
  | .spawn d a b sx => Sys2Proof.Machine.execSpawn d a b sx s
  | .lease a b => Sys2Proof.Machine.execLease a b s
  | .fset a b sx => Sys2Proof.Machine.execFset a b sx s
  | .fwait d a sx => Sys2Proof.Machine.execFwait d a sx s
  | .fget d a sx => Sys2Proof.Machine.execFget d a sx s
  | .exit b sx => Sys2Proof.Machine.execExit b sx s
  | .yield => Sys2Proof.Machine.execYield s
  | .tmmas d a b m => Sys2Proof.Machine.execTmmas d a b m s
  | .whashWrite q ix v => Sys2Proof.Machine.execWhashWrite q ix v s
  | .partCreate f => Sys2Proof.Machine.execPartCreate f s
  | .partDestroy f => Sys2Proof.Machine.execPartDestroy f s
  | .partReset f => Sys2Proof.Machine.execPartReset f s
  | .codeLoad f => Sys2Proof.Machine.execCodeLoad f s
  | .codeUnload f => Sys2Proof.Machine.execCodeUnload f s
  | .ctxCreate f => Sys2Proof.Machine.execCtxCreate f s
  | .ctxSave f => Sys2Proof.Machine.execCtxSave f s
  | .ctxRestore f => Sys2Proof.Machine.execCtxRestore f s
  | .queueCreate f => Sys2Proof.Machine.execQueueCreate f s
  | .queueDestroy f => Sys2Proof.Machine.execQueueDestroy f s
  | .dumpGrant f => Sys2Proof.Machine.execDumpGrant f s
  | .journalRead f => Sys2Proof.Machine.execJournalRead f s
  | .attest f => Sys2Proof.Machine.execAttest f s
  | .resolve f => Sys2Proof.Machine.execResolve f s
  | .proxyDone f => Sys2Proof.Machine.execProxyDone f s
  | .hwcAllot f => Sys2Proof.Machine.execHwcAllot f s
  | .attach f => Sys2Proof.Machine.execAttach f s
  | .detach f => Sys2Proof.Machine.execDetach f s
  | .debugHalt f => Sys2Proof.Machine.execDebugHalt f s
  | .resume f => Sys2Proof.Machine.execResume f s
  | .stepCmd f => Sys2Proof.Machine.execStepCmd f s
  | .readCmd f => Sys2Proof.Machine.execReadCmd f s
  | .writeCmd f => Sys2Proof.Machine.execWriteCmd f s
  | .bufferCmd f => Sys2Proof.Machine.execBufferCmd f s
  | .freeze f => Sys2Proof.Machine.execFreeze f s
  | .thaw f => Sys2Proof.Machine.execThaw f s
  | .nodes f => Sys2Proof.Machine.execNodes f s
  | .dforce f => Sys2Proof.Machine.execDforce f s
  | .rings f => Sys2Proof.Machine.execRings f s
  | .parthalt f => Sys2Proof.Machine.execParthalt f s
  | .partresume f => Sys2Proof.Machine.execPartresume f s
  | .crctlWrite f v => Sys2Proof.Machine.execCrctlWrite f v s
  | .crbaseWrite f v => Sys2Proof.Machine.execCrbaseWrite f v s
  | .crtailWrite f v => Sys2Proof.Machine.execCrtailWrite f v s
  | .tqconsWrite f v => Sys2Proof.Machine.execTqconsWrite f v s
  | .invgo f v => Sys2Proof.Machine.execInvgo f v s
  | .invalidationDone f => Sys2Proof.Machine.execInvalidationDone f s
  | .atomlackWrite v => Sys2Proof.Machine.execAtomlackWrite v s
  | .ctxirq f v => Sys2Proof.Machine.execCtxirq f v s
  | .qtail f q v => Sys2Proof.Machine.execQtail f q v s
  | .registerWrite f off v => Sys2Proof.Machine.execRegisterWrite f off v s
  | .bar2Read f off n => Sys2Proof.Machine.execBar2Read f off n s
  | .bar2Write f off data => Sys2Proof.Machine.execBar2Write f off data s
  | .bar2Atomic f off op w x y => Sys2Proof.Machine.execBar2Atomic f off op w x y s
  | .queueLaunch q => Sys2Proof.Machine.execQueueLaunch q s
  | .queueWait q => Sys2Proof.Machine.execQueueWait q s
  | .queueSignal q => Sys2Proof.Machine.execQueueSignal q s
  | .queueNop q => Sys2Proof.Machine.execQueueNop q s
  | .queueSwitch q => Sys2Proof.Machine.execQueueSwitch q s
  | .waveStart l => Sys2Proof.Machine.execWaveStart l s
  | .taskDecode tq => Sys2Proof.Machine.execTaskDecode tq s
  | .taskLaunch tq sq => Sys2Proof.Machine.execTaskLaunch tq sq s
  | .quadGrant g => Sys2Proof.Machine.execQuadGrant g s
  | .priorityAging k => Sys2Proof.Machine.execPriorityAging k s
  | .timeSlice k => Sys2Proof.Machine.execTimeSlice k s
  | .hardPreemptionTimeout g => Sys2Proof.Machine.execHardPreemptionTimeout g s
  | .timerPending g => Sys2Proof.Machine.execTimerPending g s
  | .intr g => Sys2Proof.Machine.execIntr g s
  | .salvage g => Sys2Proof.Machine.execSalvage g s
  | .trapRecordPost p => Sys2Proof.Machine.execTrapRecordPost p s
  | .atsTranslationCompletion g c => Sys2Proof.Machine.execAtsTranslationCompletion g c s
  | .atsInvalidateRequest p pasid va size => Sys2Proof.Machine.execAtsInvalidateRequest p pasid va size s
  | .invalidateCompletion p => Sys2Proof.Machine.execInvalidateCompletion p s
  | .pageRequestResponse k ok => Sys2Proof.Machine.execPageRequestResponse k ok s
  | .atomicopCompletion g ur => Sys2Proof.Machine.execAtomicopCompletion g ur s
  | .futureWakeup pa => Sys2Proof.Machine.execFutureWakeup pa s
  | .barrierPhaseComplete k => Sys2Proof.Machine.execBarrierPhaseComplete k s
  | .barrierTimeout k => Sys2Proof.Machine.execBarrierTimeout k s
  | .bteRow q n k => Sys2Proof.Machine.execBteRow q n k s
  | .tfeedWritten q => Sys2Proof.Machine.execTfeedWritten q s
  | .asyncForceDone q => Sys2Proof.Machine.execAsyncForceDone q s
  | .watchEngine d => Sys2Proof.Machine.execWatchEngine d s
  | .wcDrainTimeout g => Sys2Proof.Machine.execWcDrainTimeout g s
  | .flitReceive p flit x => Sys2Proof.Machine.execFlitReceive p flit x s
  | .fabricTimeout g st va => Sys2Proof.Machine.execFabricTimeout g st va s
  | .laneRetire q lane => Sys2Proof.Machine.execLaneRetire q lane s
  | .modidAssign k => Sys2Proof.Machine.execModidAssign k s
  | .clockThrottle k => Sys2Proof.Machine.execClockThrottle k s
  | .portReset p => Sys2Proof.Machine.execPortReset p s
  | .functionLevelReset f => Sys2Proof.Machine.execFunctionLevelReset f s
  | .moduleReset => Sys2Proof.Machine.execModuleReset s
  | .storePerformed g im => Sys2Proof.Machine.execStorePerformed g im s
  | .loadReturned g => Sys2Proof.Machine.execLoadReturned g s
  | .taskResume k slot => Sys2Proof.Machine.execTaskResume k slot s
  | .remoteInstanceStart l => Sys2Proof.Machine.execRemoteInstanceStart l s
  | .instanceEndReport l k code fail => Sys2Proof.Machine.execInstanceEndReport l k code fail s
  | .ephemeralHoldExpiry g r sl => Sys2Proof.Machine.execEphemeralHoldExpiry g r sl s
  | .keyProvision k => Sys2Proof.Machine.execKeyProvision k s

end Sys2Proof.Machine
end

