-- ==== Sys2Proof/Machine/Run.lean ====
section
/-! DEFINITION. One step of the module: what the agenda names, else the current agent's next instruction, else `auto`. -/

namespace Sys2Proof.Machine

/-- Time passes on every die: how many clock periods a step takes is open (R12, log entry 12). The clock is in MHz, so `n` periods are
1,000 n / clock nanoseconds (R373, log entry 52). What has been halted is told to the modules of its barrier groups (R330). -/
def State.tick (s : State) : State :=
  let n := Config.ticks s.free
  let ns := s.frac + 1000 * n
  let s := ((List.range 8).foldl (fun s d => s.modDie d (fun y => { y with cycle := y.cycle + BitVec.ofNat 64 n })) s).useFree
  ({ s with time := s.time + ns / s.clock, frac := ns % s.clock } : State).tellHalts

/-- An outcome after time has passed. -/
def ticked (o : Out) : Out :=
  match o with
  | .next s => .next s.tick
  | .fault r => .fault r
  | .refused r => .refused r

/-- Executes the word that the current agent has fetched, or takes the trap of one that is no instruction. -/
def State.execWord (s : State) (w : Nat) : Out :=
  match decodeNat w with
  | .ok i => exec i s
  | .error e => .next (s.takeTrap s.issue (illTrap e (s.issue.pfx ≠ []) w))

/-- The halt that ends a STEP of the debugger (R355, R356), which is told of it: the agent stands at the next boundary, in its slot or in
its task. -/
def State.endStep (s : State) (g k : Nat) : State :=
  let a := s.ag g
  if a.status = .absent then
    match (s.task k).saved with
    | some b => if b.marks.stepping then
        (s.sendDebugger b.ctx (s.recordOf b ⟨g, b.regs.pc, b.regs.pc, []⟩ { cause := Cause.debugHalt, sub := 3 } fPrecise)).modTask k (fun t => { t with saved := some { b with
          status := .halted
          strip := { b.strip with susp := b.strip.susp || b.strip.isOpen }
          marks := { b.marks with reason := Cause.debugHalt, byDebug := true, stepping := false, wasSusp := b.strip.susp } } })
      else s
    | none => s
  else if a.marks.stepping ∧ a.status = .run ∧ a.between ∧ a.marks.stall = false then
    (s.sendHalt (s.boundary g) 3).haltAt g a.regs.pc Cause.debugHalt true
  else s

/-- The current agent's turn: it takes what is due, or fetches and executes one word; one that waits for the service of a record can only
be pre-empted (R172). While Salvage dumps its Quay it stands still
(R341). -/
def State.turn (s : State) : Out :=
  let g := s.cur
  let a := s.ag g
  if a.status ≠ .run then .next (s.preemptWaiting g)
  else if (s.qy (quayOf g)).salvage ∧ a.regs.pfx = [] then .next (s.modAg g (fun a => { a with marks := { a.marks with stall := true } }))
  else
    let o := match a.errorTrap with
      | some t => .next (s.takeError g t)
      | none => if a.marks.jumpWin = 0 ∧ a.regs.pfx = [] ∧ s.due g then .next (s.takeDue g)
      else match s.fetch g with
      | .trap t s' => .next (s'.takeTrap s'.issue t)
      | .word w s' => s'.execWord w
    if a.marks.stepping then
      match o with
      | .next s' => .next (s'.endStep g a.tkey)
      | .fault r => .fault r
      | .refused r => .refused r
    else o

/-- One step. -/
def State.move (s : State) : Out :=
  match s.agenda with
  | .event i :: t => ticked (if i.hasWord then .next { s with agenda := t } else exec i { s with agenda := t })
  | .agent g :: t => ticked (({ s with agenda := t, cur := g } : State).turn)
  | [] =>
    if (s.ag s.cur).status = .run ∧ (s.ag s.cur).marks.stall = false then ticked s.turn
    else ticked (.next s.auto)

end Sys2Proof.Machine
end

