-- ==== Sys2Proof/Safety.lean ====
section
/-! DEFINITION. What counts as a safe run: the memories keep their canonical form (log entry 4), the module keeps a routable number
(R13), and the step answers a next state. -/

namespace Sys2Proof.Machine

/-- Every memory is in its canonical form: fabric, host and Wharfs. -/
def State.MemoryOk (s : State) : Prop :=
  Memory.wf s.mem = true ∧ Memory.wf s.link.mem = true ∧ ∀ q, Quay.wf (s.qy q) = true

/-- The module's number is routable (R13). -/
def State.Routable (s : State) : Prop := s.modid < 3072

/-- A step that answers a next state. -/
def State.Moves (s : State) : Prop := ∃ t, step s = .next t

end Sys2Proof.Machine
end

