-- ==== Sys2Proof/Certificates/Slice0/Obligations.lean ====
section
/-! DEFINITION. The statements for the provers, and the words they are said in. -/

namespace Sys2Proof.Machine

/-! ### Words of the statements: one agent's own instruction -/

/-- The current agent runs, and no PFX word stands before the instruction unless it takes one (R30). -/
def State.Ready (s : State) (i : Instr) : Prop :=
  (s.ag s.cur).status = .run ∧ ((s.ag s.cur).regs.pfx = [] ∨ i.takesExt = true)

/-- Between two states nothing has changed but the current agent. -/
def State.OnlyAgent (s t : State) : Prop := t = { s with agents := t.agents } ∧ ∀ g, g ≠ s.cur → t.ag g = s.ag g

/-- An agent has executed an instruction: it goes on at `pc`, the PFX words are used up, instret has advanced by one (R29, R68). -/
def Agent.Retired (a b : Agent) (pc : Word) : Prop :=
  b.status = .run ∧ b.regs.pc = pc ∧ b.regs.pfx = [] ∧ b.regs.instret = a.regs.instret + 1 ∧ b.marks.stall = false
  ∧ b.trap = { a.trap with wsup := a.trap.wsup && decide (a.trap.wsupc ≠ a.regs.pc) }

/-- The registers of an agent that no scalar instruction writes: vector and mask registers, the strip's, the number-format and task
registers, its stores, its place. -/
def Agent.KeptAside (a b : Agent) : Prop :=
  b.vec = a.vec ∧ b.strip = { a.strip with mark := .none } ∧ b.fp = a.fp ∧ b.task = a.task ∧ b.mem = a.mem
  ∧ b.errs = a.errs ∧ b.part = a.part ∧ b.ctx = a.ctx ∧ b.tkey = a.tkey

/-- The scalar registers but the destination, which holds `v`; a write to s0 is discarded (R42). -/
def Agent.ScalarIs (a b : Agent) (d : Fin 32) (v : Word) : Prop := ∀ r, b.rs r = if r = d ∧ d ≠ 0 then v else a.rs r
/-- The address registers but the destination, which holds `v` (R43). -/
def Agent.AddressIs (a b : Agent) (d : Fin 16) (v : Addr) : Prop := ∀ r, b.ra r = if r = d then v else a.ra r
/-- No scalar register has changed. -/
def Agent.ScalarKept (a b : Agent) : Prop := b.regs.s = a.regs.s
/-- No address register has changed. -/
def Agent.AddressKept (a b : Agent) : Prop := b.regs.a = a.regs.a

/-- The address of the word after the instruction (R29). -/
def State.after (s : State) : Word := (s.ag s.cur).wordAddr + 4

/-- The instruction completes, s[d] := v, and nothing else of the machine changes. -/
def State.Scalar (s : State) (i : Instr) (d : Fin 32) (v : Word) : Prop :=
  ∃ t, exec i s = .next t ∧ s.OnlyAgent t ∧ (s.ag s.cur).Retired (t.ag s.cur) s.after ∧ (s.ag s.cur).KeptAside (t.ag s.cur)
    ∧ (t.ag s.cur).trace = (s.ag s.cur).trace ∧ (s.ag s.cur).AddressKept (t.ag s.cur) ∧ (s.ag s.cur).ScalarIs (t.ag s.cur) d v

/-- The instruction completes, a[d] := v, and nothing else of the machine changes. -/
def State.Address (s : State) (i : Instr) (d : Fin 16) (v : Addr) : Prop :=
  ∃ t, exec i s = .next t ∧ s.OnlyAgent t ∧ (s.ag s.cur).Retired (t.ag s.cur) s.after ∧ (s.ag s.cur).KeptAside (t.ag s.cur)
    ∧ (t.ag s.cur).trace = (s.ag s.cur).trace ∧ (s.ag s.cur).ScalarKept (t.ag s.cur) ∧ (s.ag s.cur).AddressIs (t.ag s.cur) d v

/-- The branch ring has taken the record of a change of flow (R353). -/
def Agent.RingIs (a b : Agent) (target : Word) (kind : Nat) : Prop :=
  b.trace.memory = a.trace.memory ∧ b.trace.mhead = a.trace.mhead ∧ b.trace.bhead = (a.trace.bhead + 1) % 64
  ∧ b.trace.branch = Assoc.set (a.trace.bhead % 64) ⟨a.regs.pc, BitVec.ofNat 64 (target.toNat / 4 * 4 + kind)⟩ a.trace.branch

/-- The instruction completes and goes to `target`; scalar registers are kept. -/
def State.Jumps (s : State) (i : Instr) (target : Word) (kind : Nat) (link : Option Addr) : Prop :=
  ∃ t, exec i s = .next t ∧ s.OnlyAgent t ∧ (s.ag s.cur).Retired (t.ag s.cur) target ∧ (s.ag s.cur).KeptAside (t.ag s.cur)
    ∧ (s.ag s.cur).RingIs (t.ag s.cur) target kind ∧ (s.ag s.cur).ScalarKept (t.ag s.cur)
    ∧ match link with
      | some v => (s.ag s.cur).AddressIs (t.ag s.cur) 14 v
      | none => (s.ag s.cur).AddressKept (t.ag s.cur)

/-- The instruction completes and changes nothing but the PC and instret. -/
def State.Idle (s : State) (i : Instr) : Prop :=
  ∃ t, exec i s = .next t ∧ s.OnlyAgent t ∧ (s.ag s.cur).Retired (t.ag s.cur) s.after ∧ (s.ag s.cur).KeptAside (t.ag s.cur)
    ∧ (t.ag s.cur).trace = (s.ag s.cur).trace ∧ (s.ag s.cur).ScalarKept (t.ag s.cur) ∧ (s.ag s.cur).AddressKept (t.ag s.cur)

/-- The instruction traps before it has had an effect. -/
def State.Traps (s : State) (i : Instr) (t : TrapInfo) : Prop := exec i s = .next (s.takeTrap s.issue t)

/-- The extended field of R28 read unsigned: the PFX words stand above it, the first highest. -/
def wideNat (pfx : List (BitVec 26)) (w f : Nat) : Nat := pfx.foldl (fun x p => x * 2 ^ 26 + p.toNat) 0 * 2 ^ w + f
/-- The extended field of R28 read signed. -/
def wideInt (pfx : List (BitVec 26)) (w f : Nat) : Int :=
  if 2 ^ (w + 26 * pfx.length - 1) ≤ wideNat pfx w f then (wideNat pfx w f : Int) - 2 ^ (w + 26 * pfx.length) else wideNat pfx w f

end Sys2Proof.Machine

open Sys2Proof Sys2Proof.Machine

/-! ### The step -/

/-- Every step answers a next state: no state stops the machine (a trap, a wait and a halt are states). -/
def Obligations.StepMoves : Prop := ∀ s : State, s.Moves

/-- When nothing waits on the agenda and the current agent runs with nothing due before its next instruction (no stall, no STEP of the
debugger, no error in a register that it holds, no dump of its Quay), the step fetches the word at the agent's word address and executes
the instruction it decodes to; then time passes on the dies (R19, R44, R356). -/
def Obligations.StepRunsTheDecodedInstruction : Prop :=
  ∀ (s s' : State) (w : Nat) (i : Instr), s.agenda = [] → (s.ag s.cur).status = .run → (s.ag s.cur).marks.stall = false →
    (s.ag s.cur).marks.stepping = false → (s.ag s.cur).errorTrap = none →
    ((s.qy (quayOf s.cur)).salvage = false ∨ (s.ag s.cur).regs.pfx ≠ []) → ((s.ag s.cur).marks.jumpWin ≠ 0 ∨ (s.ag s.cur).regs.pfx ≠ [] ∨ s.due s.cur = false) →
    s.fetch s.cur = .word w s' → decodeNat w = .ok i → step s = ticked (exec i s')

/-- A word placed where the step fetches is read back there: for a state whose current agent can fetch from plain memory, the four bytes of
the place are the placed word's, and only they change (log entry 11). -/
def Obligations.PlacedWordIsFetched : Prop :=
  ∀ (s : State) (p : Place) (w : Nat), s.MemoryOk → w < 2 ^ 32 → ({ s with agenda := [] } : State).fetchPlace = some p →
    leNat ((s.withFetchWord 32 w).bytes p 4) = w
    ∧ ∀ r, r.space ≠ p.space ∨ r.addr < p.addr ∨ p.addr + 4 ≤ r.addr → (s.withFetchWord 32 w).byte r = s.byte r

/-- Every memory stays in its canonical form: rising addresses, no entry equal to what an unlisted address reads as. -/
def Obligations.StepKeepsMemoriesCanonical : Prop := ∀ s t : State, s.MemoryOk → step s = .next t → t.MemoryOk

/-- The memories of the module after reset are in their canonical form. -/
def Obligations.ResetMemoriesCanonical : Prop := State.reset.MemoryOk

/-! ### Encoding -/

/-- Every instruction that the entries admit and that has a word is read back from its word, with every operand. -/
def Obligations.DecodeAfterEncode : Prop :=
  ∀ (i : Instr) (w : BitVec 32), i.WellFormed → encode i = some w → decode w = .ok i

/-- Every word that is an instruction is the word of that instruction, and the entries admit its operands: no word has two readings and no
bit of it is dropped. -/
def Obligations.EncodeAfterDecode : Prop :=
  ∀ (w : BitVec 32) (i : Instr), decode w = .ok i → encode i = some w ∧ i.WellFormed

/-- Major 0x00 and the reserved majors are refused by subcode: the all-zero word as ZERO, the others as MAJOR (R32, R33, R34). -/
def Obligations.ReservedMajorsRefused : Prop :=
  ∀ n, n < 2 ^ 32 → (n / 2 ^ 26 = 0 ∨ n / 2 ^ 26 = 0x27 ∨ (0x2A ≤ n / 2 ^ 26 ∧ n / 2 ^ 26 ≤ 0x3E)) →
    decodeNat n = .error (if n = 0 then .zero else .major)

/-- The words that the spec writes out are read as the instructions it writes beside them (R21, R28, R87, R173-R187, R225, R261, R282,
R309). -/
def Obligations.WordsOfTheSpec : Prop :=
  decodeNat 0x08000246 = .ok (.pfx 0x246) ∧ decodeNat 0x0A2B3C4D = .ok (.pfx 0x22B3C4D) ∧ decodeNat 0x18ABCDEF = .ok (.li 5 0x0BCDEF)
  ∧ decodeNat 0x04000007 = .ok .nop ∧ decodeNat 0x40A4008E = .ok (.vsetl 5 4 0x8E) ∧ decodeNat 0x443042F0 = .ok (.vadd 3 1 2 none false)
  ∧ decodeNat 0x781103C0 = .ok (.vld 1 1 0 none false) ∧ decodeNat 0x7C2127C4 = .ok (.vsts 2 1 9 none false)
  ∧ decodeNat 0x78341C89 = .ok (.vldx 3 4 7 (some 2) false true) ∧ decodeNat 0x80541FC2 = .ok (.vamoadd 5 4 7 none .release)
  ∧ decodeNat 0x84241C45 = .ok (.gthw 2 4 7 (some 1) 1) ∧ decodeNat 0x881FFFC0 = .ok (.waitc 0 31 31 31)
  ∧ decodeNat 0x9118054C = .ok (.tst 2 3 10 12) ∧ decodeNat 0x95020000 = .ok (.tmma 2 0 1) ∧ decodeNat 0xFD020003 = .ok (.tmmas 2 0 1 3)
  ∧ decodeNat 0xA1212001 = .ok (.gstep 9 1 4) ∧ decodeNat 0xA5242840 = .ok (.spawn 9 4 5 .domain) ∧ decodeNat 0xA4004055 = .ok (.exit 8 .system)

/-! ### Reset -/

/-- After reset no agent is placed, every slot is empty, no partition and no context exists, every function page reads zero in each of
its registers, the reserved-access counter and the time of every die stand at zero (R68, R336, R362). -/
def Obligations.ResetIsEmpty : Prop :=
  State.reset.cur = 0 ∧ State.reset.agenda = [] ∧ (∀ g, (State.reset.ag g).status = .absent)
  ∧ (∀ d, (State.reset.die d).cycle = 0) ∧ (∀ p, (State.reset.part p).exists_ = false) ∧ (∀ c, (State.reset.ctx c).exists_ = false)
  ∧ State.reset.fw.funcs = [] ∧ (∀ f off, State.reset.devReg f off = 0) ∧ State.reset.rsvacc = 0
  ∧ (∀ q k, (State.reset.qy q).berths.toList.getD k {} = ({} : Berth))
  ∧ (∀ p, State.reset.byte p = 0)

/-! ### Integer arithmetic (R47-R50) -/

/-- Every ALU instruction writes the value of R47's table and nothing else; the codes above 15 are refused, and CLZ and POPC with a
register in the field sb (R34's ZFIELD). -/
def Obligations.AluResults : Prop :=
  (∀ (s : State) (d a b : Fin 32), s.Ready (.add d a b) →
    let x := (s.ag s.cur).rs a
    let y := (s.ag s.cur).rs b
    let sh := y.toNat % 64
    s.Scalar (.add d a b) d (BitVec.ofNat 64 (x.toNat + y.toNat))
    ∧ s.Scalar (.sub d a b) d (BitVec.ofInt 64 (x.toInt - y.toInt))
    ∧ s.Scalar (.and d a b) d (x &&& y) ∧ s.Scalar (.or d a b) d (x ||| y) ∧ s.Scalar (.xor d a b) d (x ^^^ y)
    ∧ s.Scalar (.sll d a b) d (BitVec.ofNat 64 (x.toNat * 2 ^ sh))
    ∧ s.Scalar (.srl d a b) d (BitVec.ofNat 64 (x.toNat / 2 ^ sh))
    ∧ s.Scalar (.sra d a b) d (BitVec.ofInt 64 (x.toInt / 2 ^ sh))
    ∧ s.Scalar (.slt d a b) d (if x.toInt < y.toInt then 1 else 0)
    ∧ s.Scalar (.sltn d a b) d (if x.toNat < y.toNat then 1 else 0)
    ∧ s.Scalar (.min d a b) d (if x.toInt ≤ y.toInt then x else y)
    ∧ s.Scalar (.max d a b) d (if x.toInt ≤ y.toInt then y else x)
    ∧ s.Scalar (.minn d a b) d (if x.toNat ≤ y.toNat then x else y)
    ∧ s.Scalar (.maxn d a b) d (if x.toNat ≤ y.toNat then y else x)
    ∧ (∃ k ≤ 64, x.toNat < 2 ^ (64 - k) ∧ (k = 64 ∨ 2 ^ (63 - k) ≤ x.toNat) ∧ s.Scalar (.clz d a) d (BitVec.ofNat 64 k))
    ∧ s.Scalar (.popc d a) d (BitVec.ofNat 64 ((List.range 64).filter (fun k => x.getLsbD k)).length))
  ∧ ∀ n, n / 2 ^ 26 = 0x04 → (15 < n % 2 ^ 11 → decodeNat n = .error .fn)
    ∧ (n % 2 ^ 11 = 14 ∨ n % 2 ^ 11 = 15 → n / 2 ^ 11 % 32 ≠ 0 → decodeNat n = .error .zfield)

/-- Every ALUI instruction applies the operation to the immediate of R48, extended by its PFX words and narrowed to 64 bits; a shift by more
than 63 traps ILL ZFIELD. -/
def Claim.AluImmediateResults : Prop :=
  ∀ (s : State) (d a : Fin 32) (i : BitVec 13), s.Ready (.addi d a i) →
    let x := (s.ag s.cur).rs a
    let pfx := (s.ag s.cur).regs.pfx
    let y : Word := BitVec.ofInt 64 (wideInt pfx 13 i.toNat)
    let k := wideNat pfx 13 i.toNat
    let bad (j : Instr) : Prop := s.Traps j { cause := 1, sub := 4, val := BitVec.ofNat 64 ((encodeNat j).getD 0) }
    s.Scalar (.addi d a i) d (x + y) ∧ s.Scalar (.andi d a i) d (x &&& y) ∧ s.Scalar (.ori d a i) d (x ||| y)
    ∧ s.Scalar (.xori d a i) d (x ^^^ y) ∧ s.Scalar (.slti d a i) d (if x.toInt < y.toInt then 1 else 0)
    ∧ (k ≤ 63 → s.Scalar (.slli d a i) d (BitVec.ofNat 64 (x.toNat * 2 ^ k)) ∧ s.Scalar (.srli d a i) d (BitVec.ofNat 64 (x.toNat / 2 ^ k))
        ∧ s.Scalar (.srai d a i) d (BitVec.ofInt 64 (x.toInt / 2 ^ k)))
    ∧ (63 < k → bad (.slli d a i) ∧ bad (.srli d a i) ∧ bad (.srai d a i))

/-- LI writes its sign-extended immediate, narrowed to 64 bits (R49). -/
def Claim.LiResult : Prop :=
  ∀ (s : State) (d : Fin 32) (i : BitVec 21), s.Ready (.li d i) →
    s.Scalar (.li d i) d (BitVec.ofInt 64 (wideInt (s.ag s.cur).regs.pfx 21 i.toNat))

/-- The immediate forms of the ALU table and LI (R47-R49). -/
def Obligations.AluImmediateResults : Prop := Claim.AluImmediateResults ∧ Claim.LiResult

/-- Multiplication and division (R50), with division by zero and the one quotient that overflows; the codes above 6 are refused. -/
def Obligations.MulDivResults : Prop :=
  (∀ (s : State) (d a b : Fin 32), s.Ready (.mul d a b) →
    let p := (s.ag s.cur).rs a
    let X := p.toInt
    let Y := ((s.ag s.cur).rs b).toInt
    let U := p.toNat
    let V := ((s.ag s.cur).rs b).toNat
    let q := if (0 ≤ X ∧ 0 < Y) ∨ (X ≤ 0 ∧ Y < 0) then ((X.natAbs / Y.natAbs : Nat) : Int) else -((X.natAbs / Y.natAbs : Nat) : Int)
    s.Scalar (.mul d a b) d (BitVec.ofInt 64 (X * Y)) ∧ s.Scalar (.mulh d a b) d (BitVec.ofInt 64 (X * Y / 2 ^ 64))
    ∧ s.Scalar (.mulhn d a b) d (BitVec.ofNat 64 (U * V / 2 ^ 64))
    ∧ s.Scalar (.div d a b) d (if V = 0 then 0xFFFFFFFFFFFFFFFF else BitVec.ofInt 64 q)
    ∧ s.Scalar (.divn d a b) d (if V = 0 then 0xFFFFFFFFFFFFFFFF else BitVec.ofNat 64 (U / V))
    ∧ s.Scalar (.rem d a b) d (if V = 0 then p else BitVec.ofInt 64 (X - Y * q))
    ∧ s.Scalar (.remn d a b) d (if V = 0 then p else BitVec.ofNat 64 (U - V * (U / V)))
    ∧ (X = -2 ^ 63 ∧ Y = -1 → s.Scalar (.div d a b) d (BitVec.ofInt 64 (-2 ^ 63)) ∧ s.Scalar (.rem d a b) d 0))
  ∧ ∀ n, n / 2 ^ 26 = 0x07 → 6 < n % 2 ^ 11 → decodeNat n = .error .fn

/-! ### Branches and jumps (R51-R53) -/

/-- Each branch is taken exactly on its condition, to the word offset counted from the governed word; otherwise it falls through. The
codes 6 and 7 are refused (R51). -/
def Obligations.BranchTargets : Prop :=
  (∀ (s : State) (a b : Fin 32) (o : BitVec 13), s.Ready (.beq a b o) →
    let x := (s.ag s.cur).rs a
    let y := (s.ag s.cur).rs b
    let target := (s.ag s.cur).wordAddr + BitVec.ofInt 64 (4 * wideInt (s.ag s.cur).regs.pfx 13 o.toNat)
    let goes (i : Instr) (c : Prop) : Prop := (c → s.Jumps i target 0 none) ∧ (¬ c → s.Idle i)
    goes (.beq a b o) (x = y) ∧ goes (.bne a b o) (x ≠ y) ∧ goes (.blt a b o) (x.toInt < y.toInt) ∧ goes (.bge a b o) (y.toInt ≤ x.toInt)
    ∧ goes (.bltn a b o) (x.toNat < y.toNat) ∧ goes (.bgen a b o) (y.toNat ≤ x.toNat))
  ∧ ∀ n, n / 2 ^ 26 = 0x08 → 6 ≤ n / 2 ^ 23 % 8 → decodeNat n = .error .fn

/-- J and CALL go to their word offset; CALL leaves the address after the governed word in a14 (R52). -/
def Obligations.JumpAndCall : Prop :=
  ∀ (s : State) (o : BitVec 26), s.Ready (.j o) →
    let target := (s.ag s.cur).wordAddr + BitVec.ofInt 64 (4 * wideInt (s.ag s.cur).regs.pfx 26 o.toNat)
    s.Jumps (.j o) target 1 none ∧ s.Jumps (.call o) target 1 (some (s.after.setWidth 72))

/-- JR and CALLR go to the offset of their address register, read before a14 is written; a target that is no multiple of four traps
ALIGN with nothing changed. The window byte of the target is kept until the fetch (R53, log entry 15). -/
def Obligations.RegisterJumps : Prop :=
  ∀ (s : State) (a : Fin 16), s.Ready (.jr a) →
    let t := (s.ag s.cur).ra a
    let keeps (i : Instr) : Prop := ∃ u, exec i s = .next u ∧ (u.ag s.cur).marks.jumpWin = t.toNat / 2 ^ 64
    (t.toNat % 4 = 0 → s.Jumps (.jr a) (t.setWidth 64) 2 none ∧ keeps (.jr a)
        ∧ s.Jumps (.callr a) (t.setWidth 64) 1 (some (s.after.setWidth 72)) ∧ keeps (.callr a))
    ∧ (t.toNat % 4 ≠ 0 → s.Traps (.jr a) { cause := 0x08, val := t.setWidth 64, win := t.toNat / 2 ^ 64 }
        ∧ s.Traps (.callr a) { cause := 0x08, val := t.setWidth 64, win := t.toNat / 2 ^ 64 })

/-! ### Address arithmetic (R61) -/

/-- The ADDR instructions write the values of R61. -/
def Obligations.AddressResults : Prop :=
  ∀ (s : State) (d a b : Fin 16) (e x : Fin 32) (i : BitVec 13),
    let ag := s.ag s.cur
    let X := wideNat ag.regs.pfx 13 i.toNat
    (s.Ready (.aadd d a x) → s.Address (.aadd d a x) d (BitVec.ofInt 72 ((ag.ra a).toNat + (ag.rs x).toInt)))
    ∧ (s.Ready (.aaddi d a i) → s.Address (.aaddi d a i) d
        (BitVec.ofInt 72 ((ag.ra a).toNat + (BitVec.ofInt 64 (wideInt ag.regs.pfx 13 i.toNat)).toInt)))
    ∧ (s.Ready (.aset d x i) → s.Address (.aset d x i) d (BitVec.ofNat 72 (X % 2 ^ 8 * 2 ^ 64 + ((ag.rs x).toNat + X / 2 ^ 8) % 2 ^ 64)))
    ∧ (s.Ready (.alo e a) → s.Scalar (.alo e a) e ((ag.ra a).setWidth 64))
    ∧ (s.Ready (.awn e a) → s.Scalar (.awn e a) e (BitVec.ofNat 64 ((ag.ra a).toNat / 2 ^ 64)))
    ∧ (s.Ready (.adiff e a b) → s.Scalar (.adiff e a b) e (BitVec.ofInt 64 ((ag.ra a).toNat - (ag.ra b).toNat)))

/-! ### PFX words -/

/-- A PFX word is taken into the group and retires nothing; a third one traps ILL PFXCHAIN at the group's first word (R27, R30). -/
def Obligations.PfxGroups : Prop :=
  ∀ (s : State) (i : BitVec 26),
    ((s.ag s.cur).regs.pfx.length < 2 → ∃ t, exec (.pfx i) s = .next t ∧ s.OnlyAgent t
      ∧ t.ag s.cur = { s.ag s.cur with regs := { (s.ag s.cur).regs with pfx := (s.ag s.cur).regs.pfx ++ [i] } }
      ∧ (t.ag s.cur).wordAddr = s.after)
    ∧ (2 ≤ (s.ag s.cur).regs.pfx.length → s.Traps (.pfx i) { cause := 1, sub := 8, val := BitVec.ofNat 64 (0x08000000 + i.toNat) })

/-! ### Words of the statements: memory -/

namespace Sys2Proof.Machine

/-- What a scalar load or store leaves of the other registers of its agent; its record goes to the memory ring (R353). -/
def Agent.KeptByMemory (a b : Agent) : Prop :=
  b.vec = a.vec ∧ b.fp = a.fp ∧ b.task = a.task ∧ b.errs = a.errs ∧ b.part = a.part ∧ b.ctx = a.ctx ∧ b.tkey = a.tkey
  ∧ b.trace.branch = a.trace.branch ∧ b.trace.bhead = a.trace.bhead ∧ b.trace.mhead = (a.trace.mhead + 1) % 64

/-- Nothing has changed but the current agent and the translations that are cached. -/
def State.OnlyAgentAndCache (s t : State) : Prop :=
  t = { s with agents := t.agents, tlb := t.tlb } ∧ ∀ g, g ≠ s.cur → t.ag g = s.ag g

/-- The effective address of a scalar load or store of `n` bytes (R55). -/
def State.eaddr (s : State) (a : Fin 16) (o : BitVec 13) (n : Nat) : Addr :=
  (s.ag s.cur).ra a + BitVec.ofInt 72 (wideInt (s.ag s.cur).regs.pfx 13 o.toNat * n)

/-- The access of `n` bytes at an address passes its checks and finds a place: aligned, translated and permitted, watched by nothing, in no
Wharf whose hash is about to change. -/
def State.Reaches (s : State) (a : Addr) (n : Nat) (k : Acc) (h : Hit) : Prop :=
  a.toNat % n = 0 ∧ s.xlate (s.actor s.cur) a k = .ok h ∧ s.watchHit s.issue a n k = none ∧ s.heldAt h.place = false

/-- The current agent's access makes no cut: no strip is open, or the page is not a device's. -/
def State.NoCutAt (s : State) (a : Addr) : Prop := (s.ag s.cur).inStrip = false ∨ s.isDevice s.cur a = false

/-- No single-bit error stands in a Wharf. -/
def State.NoErrors (s : State) : Prop := ∀ q, (s.qy q).ce = []

/-- A load completes with the bytes that the agent sees at the place. -/
def State.LoadsScalar (s : State) (i : Instr) (d : Fin 32) (v : Word) : Prop :=
  ∃ t, exec i s = .next t ∧ s.OnlyAgentAndCache t ∧ (s.ag s.cur).Retired (t.ag s.cur) s.after
    ∧ (s.ag s.cur).KeptByMemory (t.ag s.cur) ∧ (t.ag s.cur).strip = { (s.ag s.cur).strip with mark := .none }
    ∧ (t.ag s.cur).mem = (s.ag s.cur).mem ∧ (s.ag s.cur).AddressKept (t.ag s.cur) ∧ (s.ag s.cur).ScalarIs (t.ag s.cur) d v

/-- The bytes of a store: byte `k` of a value, lowest first (R4, R55). -/
def byteOf (v : Nat) (k : Nat) : Byte := BitVec.ofNat 8 (v / 2 ^ (8 * k))

/-- A store completes: its agent sees the `n` bytes of `v` at the place and every other place as before; no byte of memory has changed
yet (a buffered store waits for its commit, R81; a committed one for the event STORE_PERFORMED, R205); no register changes. -/
def State.Stores (s : State) (i : Instr) (p : Place) (n v : Nat) : Prop :=
  ∃ t, exec i s = .next t ∧ s.OnlyAgentAndCache t ∧ (s.ag s.cur).Retired (t.ag s.cur) s.after
    ∧ (s.ag s.cur).KeptByMemory (t.ag s.cur) ∧ (s.ag s.cur).ScalarKept (t.ag s.cur) ∧ (s.ag s.cur).AddressKept (t.ag s.cur)
    ∧ (∀ k < n, t.seen s.cur (p.plus k) = byteOf v k)
    ∧ (∀ r : Place, r.space ≠ p.space ∨ r.addr < p.addr ∨ p.addr + n ≤ r.addr → t.seen s.cur r = s.seen s.cur r)
    ∧ (∀ r, t.byte r = s.byte r)
    ∧ (if (s.ag s.cur).inStrip
        then (t.ag s.cur).mem = (s.ag s.cur).mem
          ∧ (t.ag s.cur).strip = { (s.ag s.cur).strip with mark := .none, buf := (t.ag s.cur).strip.buf }
        else (t.ag s.cur).strip = { (s.ag s.cur).strip with mark := .none }
          ∧ (t.ag s.cur).mem.nextOp = (s.ag s.cur).mem.nextOp + 1 ∧ (t.ag s.cur).mem.wc = (s.ag s.cur).mem.wc)

/-- A store of `n` bytes can be made: its access passes as a store, on a page that is not a device's; inside a strip the buffer has
room, outside one it is empty and the tile engine watches nothing. -/
def State.StoreReady (s : State) (i : Instr) (a : Addr) (n : Nat) (h : Hit) : Prop :=
  s.Ready i ∧ s.Reaches a n Acc.store h ∧ h.mtype ≠ 2 ∧ s.isDevice s.cur a = false
  ∧ if (s.ag s.cur).inStrip then s.overflows s.cur ((List.range n).map (fun k => (a + BitVec.ofNat 72 k).toNat)) = false
    else (s.ag s.cur).strip.buf = [] ∧ (s.tile (quayOf s.cur)).watched = []

/-- Nothing of the current agent is under way: no queued stores, no lines, no marks of an instruction in progress, no tile engine work
that a release or a watch would meet. -/
def State.AllQuiet (s : State) : Prop :=
  (s.ag s.cur).mem.queue = [] ∧ (s.ag s.cur).mem.wc = [] ∧ (s.ag s.cur).marks.clear = (s.ag s.cur).marks
  ∧ (s.tile (quayOf s.cur)).watched = [] ∧ (s.tile (quayOf s.cur)).feeds = []

/-- Plain memory: the fabric below the device registers, or a Wharf. -/
def Place.Plain (p : Place) : Prop := p.space ≠ .host ∧ (p.space = .fabric → devAt p.addr = none)

/-- A message to another module has been put into its port: it waits there for a pause to end, or it is on the line, its flit kept for a
replay (R379). -/
def State.Sent (t : State) (m : Nat) (x : LinkMsg) : Prop :=
  let j := Assoc.get {} (Config.jettyPort m % 64) t.link.jetty
  (m, x) ∈ j.queue ∨ ∃ n ack, (n, x.flit m t.modid n ack) ∈ j.buffer

/-- The current agent waits, before its instruction, for the answer of another module to a request about one element; the request has been
sent, and no memory here has changed (R380). -/
def State.Asks (s : State) (i : Instr) (elem m : Nat) (x : Nat → LinkMsg) : Prop :=
  ∃ t, exec i s = .next t ∧ (t.ag s.cur).status = .remote s.link.nextTag elem (x s.link.nextTag) ∧ (t.ag s.cur).regs.pc = s.issue.pc
    ∧ (t.ag s.cur).regs.s = (s.ag s.cur).regs.s ∧ (t.ag s.cur).regs.a = (s.ag s.cur).regs.a ∧ (∀ g, g ≠ s.cur → t.ag g = s.ag g)
    ∧ (∀ r, t.byte r = s.byte r) ∧ t.Sent m (x s.link.nextTag)

/-- A read-modify-write of `n` bytes completes: the destination takes the old value sign-extended, memory the new one, and nothing else of
memory or of the registers changes. -/
def State.Atomics (s : State) (i : Instr) (d : Fin 32) (p : Place) (n new : Nat) : Prop :=
  ∃ t, exec i s = .next t ∧ (∀ g, g ≠ s.cur → t.ag g = s.ag g) ∧ (s.ag s.cur).Retired (t.ag s.cur) s.after
    ∧ (s.ag s.cur).KeptByMemory (t.ag s.cur) ∧ (t.ag s.cur).strip = { (s.ag s.cur).strip with mark := .none }
    ∧ (t.ag s.cur).mem = (s.ag s.cur).mem ∧ (s.ag s.cur).AddressKept (t.ag s.cur)
    ∧ (s.ag s.cur).ScalarIs (t.ag s.cur) d (BitVec.ofInt 64 (sext (8 * n) (leNat (s.bytes p n))))
    ∧ (∀ k < n, t.byte (p.plus k) = byteOf new k)
    ∧ (∀ r : Place, r.space ≠ p.space ∨ r.addr < p.addr ∨ p.addr + n ≤ r.addr → t.byte r = s.byte r)
    ∧ t.fw = s.fw ∧ t.work = s.work

end Sys2Proof.Machine

/-! ### Scalar loads and stores (R55-R57) -/

/-- Each load writes the value of R55's table, from the bytes its agent sees at the effective address; a single-bit error that it meets
in a Wharf is corrected, written back and counted (R222). -/
def Obligations.LoadResults : Prop :=
  ∀ (s : State) (d : Fin 32) (e a : Fin 16) (o : BitVec 13) (h : Hit),
    let at_ (n : Nat) : Prop := s.Ready (.ldb d a o) ∧ s.Reaches (s.eaddr a o n) n Acc.load h ∧ s.NoCutAt (s.eaddr a o n)
      ∧ s.badSeen s.cur h.place n = none ∧ s.NoErrors
    let x (n : Nat) : Nat := s.seenNat s.cur h.place n
    (at_ 1 → s.LoadsScalar (.ldb d a o) d (BitVec.ofInt 64 (sext 8 (x 1))) ∧ s.LoadsScalar (.ldbn d a o) d (BitVec.ofNat 64 (x 1)))
    ∧ (at_ 2 → s.LoadsScalar (.ldh d a o) d (BitVec.ofInt 64 (sext 16 (x 2))) ∧ s.LoadsScalar (.ldhn d a o) d (BitVec.ofNat 64 (x 2)))
    ∧ (at_ 4 → s.LoadsScalar (.ldw d a o) d (BitVec.ofInt 64 (sext 32 (x 4))) ∧ s.LoadsScalar (.ldwn d a o) d (BitVec.ofNat 64 (x 4)))
    ∧ (at_ 8 → s.LoadsScalar (.ldd d a o) d (BitVec.ofNat 64 (x 8)))
    ∧ (at_ 16 → ∃ t, exec (.lda e a o) s = .next t ∧ s.OnlyAgentAndCache t ∧ (s.ag s.cur).Retired (t.ag s.cur) s.after
        ∧ (s.ag s.cur).KeptByMemory (t.ag s.cur) ∧ (t.ag s.cur).strip = { (s.ag s.cur).strip with mark := .none }
        ∧ (t.ag s.cur).mem = (s.ag s.cur).mem ∧ (s.ag s.cur).ScalarKept (t.ag s.cur)
        ∧ (s.ag s.cur).AddressIs (t.ag s.cur) e (BitVec.ofNat 72 (x 16 % 2 ^ 72)))
    ∧ ∀ q, s.Ready (.ldd d a o) → s.Reaches (s.eaddr a o 8) 8 Acc.load h → s.NoCutAt (s.eaddr a o 8) → s.badSeen s.cur h.place 8 = none →
        h.place.space = .wharf q → h.place.addr % 8 = 0 → (s.qy q).ce.filter (fun k => decide (k = h.place.addr / 8)) = [h.place.addr / 8] →
        ∃ t, exec (.ldd d a o) s = .next t ∧ (s.ag s.cur).Retired (t.ag s.cur) s.after ∧ (s.ag s.cur).ScalarIs (t.ag s.cur) d (BitVec.ofNat 64 (x 8))
          ∧ (∀ k, k ∈ (t.qy q).ce ↔ k ∈ (s.qy q).ce ∧ k ≠ h.place.addr / 8) ∧ (∀ r, t.byte r = s.byte r)
          ∧ (t.qy q).wecc.toNat % 2 ^ 32 = min (2 ^ 32 - 1) ((s.qy q).wecc.toNat % 2 ^ 32 + 1)
          ∧ (t.qy q).wecc.toNat / 2 ^ 32 = (s.qy q).wecc.toNat / 2 ^ 32

/-- Each store hands the bytes of R55's table to its agent's view of memory at the effective address. -/
def Obligations.StoreResults : Prop :=
  ∀ (s : State) (d : Fin 32) (e a : Fin 16) (o : BitVec 13) (h : Hit),
    let v := ((s.ag s.cur).rs d).toNat
    (s.StoreReady (.stb d a o) (s.eaddr a o 1) 1 h → s.Stores (.stb d a o) h.place 1 v)
    ∧ (s.StoreReady (.sth d a o) (s.eaddr a o 2) 2 h → s.Stores (.sth d a o) h.place 2 v)
    ∧ (s.StoreReady (.stw d a o) (s.eaddr a o 4) 4 h → s.Stores (.stw d a o) h.place 4 v)
    ∧ (s.StoreReady (.std d a o) (s.eaddr a o 8) 8 h → s.Stores (.std d a o) h.place 8 v)
    ∧ (s.StoreReady (.sta e a o) (s.eaddr a o 16) 16 h → s.Stores (.sta e a o) h.place 16 ((s.ag s.cur).ra e).toNat)

/-- A scalar access whose effective address is no multiple of its size traps ALIGN with the address, before any translation (R55, R56). -/
def Claim.MisalignedTraps : Prop :=
  ∀ (s : State) (d : Fin 32) (e a : Fin 16) (o : BitVec 13), s.Ready (.ldb d a o) → (s.ag s.cur).inStrip = false →
    let bad (i : Instr) (n : Nat) : Prop := (s.eaddr a o n).toNat % n ≠ 0 →
      s.Traps i { cause := 0x08, val := (s.eaddr a o n).setWidth 64, win := (s.eaddr a o n).toNat / 2 ^ 64 }
    bad (.ldh d a o) 2 ∧ bad (.ldhn d a o) 2 ∧ bad (.ldw d a o) 4 ∧ bad (.ldwn d a o) 4 ∧ bad (.ldd d a o) 8 ∧ bad (.lda e a o) 16
    ∧ bad (.sth d a o) 2 ∧ bad (.stw d a o) 4 ∧ bad (.std d a o) 8 ∧ bad (.sta e a o) 16

/-! ### Atomics (R58) -/

/-- Each atomic of plain memory, at both widths and with every order and scope, reads, modifies and writes as R58 says where this module is
the home, and is asked of the home where another module is (R380). -/
def Obligations.AtomicResults : Prop :=
  ∀ (s : State) (d b : Fin 32) (a : Fin 16) (w : Bool) (o : MOrd) (sc : Scope) (h : Hit),
    let n := if w then 4 else 8
    let ag := s.ag s.cur
    let old := leNat (s.bytes h.place n)
    let x := (ag.rs b).toNat % 2 ^ (8 * n)
    let e := (ag.rs d).toNat % 2 ^ (8 * n)
    let sg (v : Nat) : Int := sext (8 * n) v
    s.MemoryOk → s.Ready (.amoadd d a b w o sc) → ag.inStrip = false → s.AllQuiet →
    s.Reaches (ag.ra a) n { r := true, w := true } h → h.place.Plain → s.badRead h.place n = none →
    (s.away h.place = false → s.Atomics (.amoadd d a b w o sc) d h.place n ((old + x) % 2 ^ (8 * n))
    ∧ s.Atomics (.amoswp d a b w o sc) d h.place n x
    ∧ s.Atomics (.amocas d a b w o sc) d h.place n (if old = e then x else old)
    ∧ s.Atomics (.amomin d a b w o sc) d h.place n (if sg x < sg old then x else old)
    ∧ s.Atomics (.amomax d a b w o sc) d h.place n (if sg old < sg x then x else old)
    ∧ s.Atomics (.amoand d a b w o sc) d h.place n (old &&& x)
    ∧ s.Atomics (.amoor d a b w o sc) d h.place n (old ||| x)
    ∧ s.Atomics (.amoxor d a b w o sc) d h.place n (old ^^^ x))
    ∧ (s.away h.place = true →
      let asks (i : Instr) (fn u : Nat) : Prop := s.Asks i 0 (h.place.addr / 2 ^ 44)
        (fun t => .amo t fn (writerOf s.cur).1 (writerOf s.cur).2 (quayOf s.cur) h.place.addr n u x)
      asks (.amoadd d a b w o sc) 0 x ∧ asks (.amoswp d a b w o sc) 1 x ∧ asks (.amocas d a b w o sc) 2 e ∧ asks (.amomin d a b w o sc) 3 x
      ∧ asks (.amomax d a b w o sc) 5 x ∧ asks (.amoand d a b w o sc) 7 x ∧ asks (.amoor d a b w o sc) 8 x ∧ asks (.amoxor d a b w o sc) 9 x)

/-! ### Words of the statements: vectors -/

namespace Sys2Proof.Machine

/-- A hart with an open strip whose vector file is at rest: nothing is landing, nothing recorded on a register, the map names each physical
register once, room for eight new ones; the length fits the group and the lanes are there (R74, R99, R103, R228). -/
def State.VecCalm (s : State) (i : Instr) : Prop :=
  let a := s.ag s.cur
  s.Ready i ∧ isPilot s.cur = false ∧ a.strip.shut = false ∧ a.strip.susp = false
  ∧ a.vec.marks = [] ∧ a.vec.poison = [] ∧ a.vec.expired = [] ∧ s.landings s.cur = []
  ∧ a.vec.map.v.toList.Nodup ∧ a.vec.map.m.toList.Nodup ∧ 8 ≤ (s.freePhys s.cur).length
  ∧ 0 < a.strip.vlen ∧ a.strip.vl.toNat * a.venv.w ≤ a.venv.g * a.strip.vlen

/-- The current agent's element. -/
def State.el (s : State) (v w i : Nat) : Nat := (s.ag s.cur).elem v w i

/-- The length, the type, the width and the group in force. -/
def State.env (s : State) : VEnv := (s.ag s.cur).venv

/-- The type is accepted and every group starts at a multiple of its size (R97, R109). -/
def State.Accepts (s : State) (ok : Nat → Bool) (vs : List (Fin 48)) : Prop :=
  ok s.env.ty = true ∧ ∀ v ∈ vs, v.val % s.env.g = 0

/-- What a vector instruction leaves of the other registers of its hart. -/
def Agent.KeptByVector (a b : Agent) : Prop :=
  b.regs.s = a.regs.s ∧ b.regs.a = a.regs.a ∧ b.strip = { a.strip with mark := .none } ∧ b.task = a.task ∧ b.mem = a.mem
  ∧ b.trace = a.trace ∧ b.errs = a.errs ∧ b.part = a.part ∧ b.ctx = a.ctx ∧ b.tkey = a.tkey

/-- Flags raised, and the stochastic step taken or not (R129, R133). -/
def Agent.FormatsAre (a b : Agent) (fl : Flags) (sr : Bool) : Prop :=
  b.fp = { a.fp with fflags := a.fp.fflags ||| fl, srstep := if sr then a.fp.srstep + 1 else a.fp.srstep }

/-- Elements of a group of `n` registers are written, each with the value listed for it; every other element, every other vector
register and every mask register reads as before (R99, R105). -/
def Agent.ElementsAre (a b : Agent) (d : Nat) (n w : Nat) (ups : List (Nat × Nat)) : Prop :=
  (∀ i, i * w < n * a.strip.vlen → b.elem d w i = match ups.find? (fun u => decide (u.1 = i)) with
      | some u => u.2 % 2 ^ w
      | none => a.elem d w i)
  ∧ (∀ r, r < 48 → r < d ∨ d + n ≤ r → b.vreg r = a.vreg r) ∧ ∀ k, b.mreg k = a.mreg k

/-- A vector instruction completes and writes elements of a group. -/
def State.VecWrites (s : State) (i : Instr) (d : Fin 48) (n w : Nat) (ups : List (Nat × Nat)) (fl : Flags) (sr : Bool) : Prop :=
  ∃ t, exec i s = .next t ∧ s.OnlyAgent t ∧ (s.ag s.cur).Retired (t.ag s.cur) s.after ∧ (s.ag s.cur).KeptByVector (t.ag s.cur)
    ∧ (s.ag s.cur).FormatsAre (t.ag s.cur) fl sr ∧ (s.ag s.cur).ElementsAre (t.ag s.cur) d n w ups

/-- A vector instruction completes and writes bits of a mask register. -/
def State.MaskWrites (s : State) (i : Instr) (d : Fin 12) (ups : List (Nat × Bool)) (fl : Flags) : Prop :=
  ∃ t, exec i s = .next t ∧ s.OnlyAgent t ∧ (s.ag s.cur).Retired (t.ag s.cur) s.after ∧ (s.ag s.cur).KeptByVector (t.ag s.cur)
    ∧ (s.ag s.cur).FormatsAre (t.ag s.cur) fl false ∧ (∀ r, r < 48 → (t.ag s.cur).vreg r = (s.ag s.cur).vreg r)
    ∧ ∀ k j, j < 8192 → ((t.ag s.cur).mreg k).getLsbD j = if k = d then (match ups.find? (fun u => decide (u.1 = j)) with
        | some u => u.2
        | none => ((s.ag s.cur).mreg k).getLsbD j) else ((s.ag s.cur).mreg k).getLsbD j

/-- The active elements (R8). -/
def State.act (s : State) (m : Option (Fin 12)) : List Nat := (s.ag s.cur).actives m

/-- The flags of a list of results. -/
def flagsIn (l : List Flags) : Flags := l.foldl (· ||| ·) 0

/-- The instruction of an operation on two vectors (majors 0x11 and 0x12). -/
def VOp.vv (op : VOp) (d a b : Fin 48) (m : Option (Fin 12)) (h : Bool) : Instr :=
  match op with
  | .add => .vadd d a b m h | .sub => .vsub d a b m h | .mul => .vmul d a b m h | .mulh => .vmulh d a b m h
  | .div => .vdiv d a b m h | .rem => .vrem d a b m h | .min => .vmin d a b m h | .max => .vmax d a b m h
  | .mac => .vmac d a b m h | .nmac => .vnmac d a b m h | .and => .vand d a b m h | .or => .vor d a b m h
  | .xor => .vxor d a b m h | .shl => .vshl d a b m h | .shr => .vshr d a b m h | .sra => .vsra d a b m h

/-- The instruction of an operation on a vector and a scalar (majors 0x13 and 0x14). -/
def VOp.vs (op : VOp) (d a : Fin 48) (b : Fin 32) (x : Bool) (m : Option (Fin 12)) (h : Bool) : Instr :=
  match op with
  | .add => .vaddVs d a b x m h | .sub => .vsubVs d a b x m h | .mul => .vmulVs d a b x m h | .mulh => .vmulhVs d a b x m h
  | .div => .vdivVs d a b x m h | .rem => .vremVs d a b x m h | .min => .vminVs d a b x m h | .max => .vmaxVs d a b x m h
  | .mac => .vmacVs d a b x m h | .nmac => .vnmacVs d a b x m h | .and => .vandVs d a b x m h | .or => .vorVs d a b x m h
  | .xor => .vxorVs d a b x m h | .shl => .vshlVs d a b x m h | .shr => .vshrVs d a b x m h | .sra => .vsraVs d a b x m h

/-- The instruction of an operation on a vector and an immediate (major 0x15), for those that have one. -/
def VOp.vi (op : VOp) (d a : Fin 48) (i : BitVec 6) (m : Option (Fin 12)) (h : Bool) : Option Instr :=
  match op with
  | .add => some (.vaddVi d a i m h) | .sub => some (.vsubVi d a i m h) | .and => some (.vandVi d a i m h)
  | .or => some (.vorVi d a i m h) | .xor => some (.vxorVi d a i m h) | .shl => some (.vshlVi d a i m h)
  | .shr => some (.vshrVi d a i m h) | .sra => some (.vsraVi d a i m h)
  | .mul | .mulh | .div | .rem | .min | .max | .mac | .nmac => none

/-- The instruction of a unary operation (major 0x16). -/
def UOp.instr (op : UOp) (d a : Fin 48) (m : Option (Fin 12)) (h : Bool) : Instr :=
  match op with
  | .abs => .vabs d a m h | .neg => .vneg d a m h | .sqrt => .vsqrt d a m h | .exp2 => .vexp2 d a m h
  | .log2 => .vlog2 d a m h | .clz => .vclz d a m h | .popc => .vpopc d a m h | .mv => .vmv d a m h

/-- The instruction of a compare (major 0x17). -/
def VRel.instr (r : VRel) (d : Fin 12) (a b : Fin 48) (m : Option (Fin 12)) (h : Bool) : Instr :=
  match r with
  | .eq => .vcmpeq d a b m h | .ne => .vcmpne d a b m h | .lt => .vcmplt d a b m h | .le => .vcmple d a b m h
  | .gt => .vcmpgt d a b m h | .ge => .vcmpge d a b m h | .ltn => .vcmpltn d a b m h | .gen => .vcmpgen d a b m h

/-- An elementwise instruction with a second operand `y` whose patterns are `q`. -/
def State.Elementwise (s : State) (i : Instr) (op : VOp) (d a : Fin 48) (y : VSrc) (m : Option (Fin 12)) (q : Nat → Nat) : Prop :=
  let e := s.env
  let r (k : Nat) : Nat × Flags := op.elem (s.ag s.cur).fp e y k (s.el a e.w k) (q k) (s.el d e.w k)
  s.VecWrites i d e.g e.w ((s.act m).map (fun k => (k, (r k).1))) (flagsIn ((s.act m).map (fun k => (r k).2)))
    (isF e.ty && op.rounds && decide ((s.ag s.cur).fp.effRM 0 = .sr))

/-- A trap of an instruction that its strip's type does not suit (R74, R108). -/
def State.IllType (s : State) (sub : Nat) : TrapInfo :=
  { cause := 2, sub := sub, val := BitVec.ofNat 64 (s.ag s.cur).strip.vtypeReg }

end Sys2Proof.Machine

/-! ### Vector arithmetic (R105, R111-R113) -/

/-- Every operation on two vectors writes, for each active element, the operation's result on the elements of its sources, read before
anything is written; the destination's other elements, the other registers, the masks and the scalar side are unchanged. -/
def Claim.VectorVectorResults : Prop :=
  ∀ (s : State) (op : VOp) (d a b : Fin 48) (m : Option (Fin 12)) (h : Bool), s.VecCalm (op.vv d a b m h) →
    s.Accepts op.types [d, a, b] → s.Elementwise (op.vv d a b m h) op d a (.vec b) m (s.el b s.env.w)

/-- The same with a scalar second operand, narrowed to the element width, in either order (R111). -/
def Claim.VectorScalarResults : Prop :=
  ∀ (s : State) (op : VOp) (d a : Fin 48) (b : Fin 32) (x : Bool) (m : Option (Fin 12)) (h : Bool), s.VecCalm (op.vs d a b x m h) →
    s.Accepts op.types [d, a] →
    s.Elementwise (op.vs d a b x m h) op d a (.sca b x) m (fun _ => ((s.ag s.cur).rs b).toNat % 2 ^ s.env.w)

/-- The same with an immediate, extended by its PFX words; under a float type only VADD and VSUB have this form (R111). -/
def Claim.VectorImmediateResults : Prop :=
  ∀ (s : State) (op : VOp) (d a : Fin 48) (k : BitVec 6) (m : Option (Fin 12)) (h : Bool) (i : Instr), op.vi d a k m h = some i →
    s.VecCalm i → let v := wideInt (s.ag s.cur).regs.pfx 6 k.toNat
    s.Accepts (op.formTypes (.imm v)) [d, a] → s.Elementwise i op d a (.imm v) m (fun _ => (v % 2 ^ s.env.w).toNat)

/-- The unary operations (R113). -/
def Obligations.VectorUnaryResults : Prop :=
  ∀ (s : State) (op : UOp) (d a : Fin 48) (m : Option (Fin 12)) (h : Bool), s.VecCalm (op.instr d a m h) → s.Accepts op.types [d, a] →
    let e := s.env
    let r (k : Nat) : Nat × Flags := op.elem (s.ag s.cur).fp e k (s.el a e.w k)
    s.VecWrites (op.instr d a m h) d e.g e.w ((s.act m).map (fun k => (k, (r k).1))) (flagsIn ((s.act m).map (fun k => (r k).2)))
      (op.rounds && decide ((s.ag s.cur).fp.effRM 0 = .sr))

/-- The types that the operations of R111 and R113 accept, by R109's table, I being the codes below 4, N 4 to 7, F 8 to 13, Q 14 and 15;
a VI form accepts F for VADD and VSUB alone (R111). -/
def Claim.TypeTables : Prop :=
  ∀ t < 16,
    (∀ op ∈ [VOp.add, .sub, .mul, .min, .max, .mac, .nmac, .div], op.types t = decide (t < 14))
    ∧ (∀ op ∈ [VOp.mulh, .rem, .and, .or, .xor, .shl, .shr, .sra], op.types t = decide (t < 8))
    ∧ (∀ (op : VOp) (k : Int), op.formTypes (.imm k) t = (op.types t && (decide (t < 8) || decide (op = .add ∨ op = .sub))))
    ∧ UOp.neg.types t = decide (t < 14) ∧ UOp.abs.types t = decide (t < 4 ∨ 8 ≤ t ∧ t < 14)
    ∧ (∀ op ∈ [UOp.sqrt, .exp2, .log2], op.types t = decide (8 ≤ t ∧ t < 14))
    ∧ (∀ op ∈ [UOp.clz, .popc], op.types t = decide (t < 8)) ∧ UOp.mv.types t = true
    ∧ tyINF t = decide (t < 14) ∧ tyIN t = decide (t < 8) ∧ tyAny t = true

/-- Vector operations on two vectors, a vector and a scalar, a vector and an immediate (R105, R111, R112), and the types that they and the
unary operations accept (R109). -/
def Obligations.VectorBinaryResults : Prop := Claim.VectorVectorResults ∧ Claim.VectorScalarResults ∧ Claim.VectorImmediateResults ∧ Claim.TypeTables

/-- The integer column of R112's table and the integer rows of R113, as an element of the instructions takes them: operands of `w` bits
read signed under a type I and unsigned under a type N, exchanged by x = 1 of a VS form; no flag is raised. -/
def Obligations.IntegerElementResults : Prop :=
  ∀ (fp : FpRegs) (e : VEnv) (src : VSrc) (k p q d : Nat), isF e.ty = false → 0 < e.w → p < 2 ^ e.w → q < 2 ^ e.w → d < 2 ^ e.w →
    let w := e.w
    let swap : Bool := match src with | .sca _ x => x | .vec _ => false | .imm _ => false
    let x := if swap then q else p
    let y := if swap then p else q
    let rd (v : Nat) : Int := if isI e.ty = true ∧ 2 ^ (w - 1) ≤ v then (v : Int) - 2 ^ w else v
    let tr (v : Int) : Nat := (v % 2 ^ w).toNat
    let gives (op : VOp) (v : Nat) : Prop := op.elem fp e src k p q d = (v, 0)
    let one (op : UOp) (v : Nat) : Prop := op.elem fp e k p = (v, 0)
    gives .add (tr (rd x + rd y)) ∧ gives .sub (tr (rd x - rd y)) ∧ gives .mul (tr (rd x * rd y)) ∧ gives .mulh (tr (rd x * rd y / 2 ^ w))
    ∧ (y = 0 → gives .div (2 ^ w - 1) ∧ gives .rem x)
    ∧ (y ≠ 0 → ∃ z : Int, z.natAbs = (rd x).natAbs / (rd y).natAbs ∧ (z = 0 ∨ (0 < z ↔ (0 < rd x ↔ 0 < rd y)))
        ∧ gives .div (tr z) ∧ gives .rem (tr (rd x - rd y * z)))
    ∧ gives .min (if rd x ≤ rd y then x else y) ∧ gives .max (if rd x ≤ rd y then y else x)
    ∧ gives .mac (tr (rd d + rd x * rd y)) ∧ gives .nmac (tr (rd d - rd x * rd y))
    ∧ gives .and (x &&& y) ∧ gives .or (x ||| y) ∧ gives .xor (x ^^^ y)
    ∧ gives .shl (x * 2 ^ (y % w) % 2 ^ w) ∧ gives .shr (x / 2 ^ (y % w))
    ∧ gives .sra (tr ((if 2 ^ (w - 1) ≤ x then (x : Int) - 2 ^ w else x) / 2 ^ (y % w)))
    ∧ one .neg ((2 ^ w - p) % 2 ^ w) ∧ one .mv p ∧ one .abs (if 2 ^ (w - 1) ≤ p then 2 ^ w - p else p)
    ∧ one .popc ((List.range w).filter (fun j => p.testBit j)).length
    ∧ ∃ z, z ≤ w ∧ p < 2 ^ (w - z) ∧ (p ≠ 0 → 2 ^ (w - 1 - z) ≤ p) ∧ one .clz z

/-! ### Words of the statements: floating point (R125, R126, R131) -/

namespace Sys2Proof.Machine

/-- The width, the precision p, the bias and the greatest finite value of a float type, by R125's table. -/
def floatRow (t : Nat) : Nat × Nat × Int × Rat :=
  match t with
  | 8 => (8, 4, 7, 448)
  | 9 => (8, 3, 15, 57344)
  | 10 => (16, 11, 15, 65504)
  | 11 => (16, 8, 127, (2 - 2 ^ (-7 : Int)) * 2 ^ 127)
  | 12 => (32, 24, 127, (2 - 2 ^ (-23 : Int)) * 2 ^ 127)
  | _ => (64, 53, 1023, (2 - 2 ^ (-52 : Int)) * 2 ^ 1023)

/-- The canonical NaN of a float type, by R125's table. -/
def nanOf (t : Nat) : Nat :=
  match t with
  | 8 => 0x7F | 9 => 0x7E | 10 => 0x7E00 | 11 => 0x7FC0 | 12 => 0x7FC00000 | _ => 0x7FF8000000000000

/-- A float datum: NaN, an infinity, or a sign and a magnitude. -/
inductive Datum where
  | nan
  | inf (neg : Bool)
  | num (neg : Bool) (mag : Rat)
deriving DecidableEq

/-- What a pattern is under a float type (R126, R127). -/
def datum (t x : Nat) : Datum :=
  let r := floatRow t
  let neg := decide (x / 2 ^ (r.1 - 1) % 2 = 1)
  let e := x / 2 ^ (r.2.1 - 1) % 2 ^ (r.1 - r.2.1)
  let f := x % 2 ^ (r.2.1 - 1)
  if t ≠ 8 ∧ e = 2 ^ (r.1 - r.2.1) - 1 then (if f = 0 then .inf neg else .nan)
  else if t = 8 ∧ e = 15 ∧ f = 7 then .nan
  else if e = 0 then .num neg (f * 2 ^ (2 - r.2.2.1 - r.2.1 : Int))
  else .num neg ((f + 2 ^ (r.2.1 - 1) : Nat) * 2 ^ (e - r.2.2.1 - r.2.1 + 1 : Int))

/-- The number of a datum with its sign. -/
def Datum.val (x : Datum) : Rat :=
  match x with
  | .num neg a => if neg then -a else a
  | .nan | .inf _ => 0

/-- The datum with its sign inverted. -/
def Datum.opp (x : Datum) : Datum :=
  match x with
  | .nan => .nan | .inf s => .inf (!s) | .num s a => .num (!s) a

/-- The exact product of two data (R112): NaN for a NaN and for 0 × ∞. -/
def Datum.times (x y : Datum) : Datum :=
  match x, y with
  | .nan, _ => .nan
  | _, .nan => .nan
  | .inf a, .inf b => .inf (a != b)
  | .inf a, .num s v => if v = 0 then .nan else .inf (a != s)
  | .num s v, .inf a => if v = 0 then .nan else .inf (s != a)
  | .num s v, .num s' v' => .num (s != s') (v * v')

/-- 0 × ∞. -/
def Datum.invalidProduct (x y : Datum) : Prop := (∃ a s, x = .inf a ∧ y = .num s 0) ∨ ∃ a s, x = .num s 0 ∧ y = .inf a

/-- The order of R112's VMIN and VMAX, −0 below +0, between data that are not NaN. -/
def Datum.below (x y : Datum) : Bool :=
  match x, y with
  | .inf a, .inf b => a && !b
  | .inf a, _ => a
  | _, .inf b => !b
  | .num s a, .num s' b => decide ((Datum.num s a).val < (Datum.num s' b).val) || (decide (a = 0 ∧ b = 0) && s && !s')
  | _, _ => false

/-- Whether two data are equal (R114): the zeros are, NaN equals nothing. -/
def Datum.same (x y : Datum) : Bool :=
  match x, y with
  | .inf a, .inf b => a == b
  | .num s a, .num s' b => decide ((Datum.num s a).val = (Datum.num s' b).val)
  | _, _ => false

/-- Whether a datum is less than another (R114): the zeros are not ordered, nor is NaN with anything. -/
def Datum.less (x y : Datum) : Bool :=
  match x, y with
  | .inf a, .inf b => a && !b
  | .inf a, .num _ _ => a
  | .num _ _, .inf b => !b
  | .num s a, .num s' b => decide ((Datum.num s a).val < (Datum.num s' b).val)
  | _, _ => false

/-- The multiple `m` of the unit `u` that a magnitude rounds to (R131), and whether it is exact. The magnitude is known by what it is no
less than, `le`, and what it equals, `eq`; `R` is the output of the Aster generator. -/
def RoundsUnit (mode : RMode) (R : Nat) (neg : Bool) (le eq : Rat → Prop) (u : Rat) (m : Nat) (ex : Bool) : Prop :=
  ∃ (n : Nat) (up : Bool), le (n * u) ∧ ¬ le ((n + 1) * u) ∧ (ex = true ↔ eq (n * u)) ∧ m = (if up then n + 1 else n)
    ∧ (up = true ↔ ex = false ∧ match mode with
      | .rne => le ((n + 1 / 2) * u) ∧ (eq ((n + 1 / 2) * u) → n % 2 = 1)
      | .rmm => le ((n + 1 / 2) * u)
      | .rtz => False
      | .rup => neg = false
      | .rdn => neg = true
      | .sr => ∃ D : Nat, le ((n + D / 2 ^ 32) * u) ∧ ¬ le ((n + (D + 1) / 2 ^ 32) * u) ∧ 2 ^ 32 ≤ D + R / 2 ^ 32)

/-- Round of a magnitude above zero with a sign to a float type (R131): the pattern and the flags INX 2, OFL 4, UFL 8. -/
def RoundsTo (t : Nat) (mode : RMode) (R : Nat) (neg : Bool) (le eq : Rat → Prop) (out : Nat × Flags) : Prop :=
  let r := floatRow t
  ∃ (L : Int) (m : Nat) (ex : Bool), le (2 ^ L) ∧ ¬ le (2 ^ (L + 1)) ∧
    let emin := 1 - r.2.2.1
    let u : Rat := 2 ^ (max L emin - r.2.1 + 1)
    RoundsUnit mode R neg le eq u m ex ∧ out.1 < 2 ^ r.1
    ∧ if r.2.2.2 < m * u then
        out.2 = 6 ∧ datum t out.1 = (if t = 8 then .num neg 448 else match mode with
          | .rne | .rmm | .sr => .inf neg
          | .rup => if neg then .num neg r.2.2.2 else .inf neg
          | .rdn => if neg then .inf neg else .num neg r.2.2.2
          | .rtz => .num neg r.2.2.2)
      else out.2 = (if ex then 0 else if L < emin then 10 else 2) ∧ datum t out.1 = .num neg (m * u)

/-- Round of an exact number to a float type; a zero has the sign `zero`. -/
def RoundsRat (t : Nat) (mode : RMode) (R : Nat) (zero : Bool) (v : Rat) (out : Nat × Flags) : Prop :=
  if v = 0 then out.2 = 0 ∧ out.1 < 2 ^ (floatRow t).1 ∧ datum t out.1 = .num zero 0
  else let a := if v < 0 then -v else v
    RoundsTo t mode R (decide (v < 0)) (fun r => r ≤ a) (fun r => r = a) out

/-- Round of an exact number to an integer (the format Z of R131): the integer and the flags. -/
def RoundsZ (mode : RMode) (R : Nat) (v : Rat) (m : Int) (fl : Flags) : Prop :=
  let a := if v < 0 then -v else v
  if v = 0 then m = 0 ∧ fl = 0
  else ∃ k ex, RoundsUnit mode R (decide (v < 0)) (fun r => r ≤ a) (fun r => r = a) 1 k ex ∧ m = (if v < 0 then -(k : Int) else k)
    ∧ fl = if ex then 0 else 2

/-- Round of an infinity to a float type, with flags raised before (R131): f8e4 gives its greatest finite value and raises INX and OFL. -/
def RoundsInf (t : Nat) (neg : Bool) (fl : Flags) (out : Nat × Flags) : Prop :=
  out.1 < 2 ^ (floatRow t).1 ∧ if t = 8 then datum t out.1 = .num neg 448 ∧ out.2 = fl ||| 6 else datum t out.1 = .inf neg ∧ out.2 = fl

/-- The canonical NaN, with or without IVO. -/
def GivesNan (t : Nat) (ivo : Bool) (out : Nat × Flags) : Prop := out = (nanOf t, if ivo then 1 else 0)

/-- The sum of two addends, rounded (R112): ∞ − ∞ is invalid, and a zero sum has the sign of two zeros of one sign, else of the mode. -/
def RoundsSum (t : Nat) (mode : RMode) (R : Nat) (x y : Datum) (out : Nat × Flags) : Prop :=
  match x, y with
  | .nan, _ => GivesNan t false out
  | _, .nan => GivesNan t false out
  | .inf a, .inf b => if a = b then RoundsInf t a 0 out else GivesNan t true out
  | .inf a, _ => RoundsInf t a 0 out
  | _, .inf b => RoundsInf t b 0 out
  | .num s a, .num s' b => RoundsRat t mode R (if a = 0 ∧ b = 0 ∧ s = s' then s else decide (mode = .rdn)) ((Datum.num s a).val + (Datum.num s' b).val) out

/-- A datum rounded; a zero keeps its sign. -/
def RoundsDatum (t : Nat) (mode : RMode) (R : Nat) (x : Datum) (out : Nat × Flags) : Prop :=
  match x with
  | .nan => GivesNan t false out
  | .inf a => RoundsInf t a 0 out
  | .num s a => RoundsRat t mode R s (Datum.num s a).val out

/-- The product of two data, rounded (R112). -/
def RoundsProduct (t : Nat) (mode : RMode) (R : Nat) (x y : Datum) (out : Nat × Flags) : Prop :=
  (x.invalidProduct y → GivesNan t true out) ∧ (¬ x.invalidProduct y → RoundsDatum t mode R (x.times y) out)

/-- A pattern with a NaN made canonical (R121, R122). -/
def canonOf (t x : Nat) : Nat := if datum t x = .nan then nanOf t else x

/-- The running sums of R122 from `acc` on, the roundings numbered from `n`, with the flags. -/
def SumsFrom (t : Nat) (mode : RMode) (R : Nat → Nat) : Nat → Nat → List Nat → List Nat → Flags → Prop
  | _, acc, [], out, fl => out = [acc] ∧ fl = 0
  | n, acc, x :: xs, out, fl => ∃ y f rest fl', RoundsSum t mode (R n) (datum t acc) (datum t x) (y, f)
      ∧ SumsFrom t mode R (n + 1) y xs rest fl' ∧ out = acc :: rest ∧ fl = f ||| fl'

/-- The sequential sums of segments, whose roundings are numbered segment after segment (R122). -/
def SegSums (t : Nat) (mode : RMode) (R : Nat → Nat) (xs : Nat → Nat) : Nat → List (List Nat) → List (List Nat) → Flags → Prop
  | _, [], out, fl => out = [] ∧ fl = 0
  | _, [] :: _, _, _ => False
  | n, (i :: is) :: gs, out, fl => ∃ o rest f fl', SumsFrom t mode R n (canonOf t (xs i)) (is.map xs) o f
      ∧ SegSums t mode R xs (n + is.length) gs rest fl' ∧ out = o :: rest ∧ fl = f ||| fl'

/-- One level of R121's tree, its roundings numbered from `n` up to `n'`. -/
def TreeLevel (t : Nat) (mode : RMode) (R : Nat → Nat) : Nat → List (Option Nat) → List (Option Nat) → Nat → Flags → Prop
  | n, [], out, n', fl => out = [] ∧ n' = n ∧ fl = 0
  | n, [a], out, n', fl => out = [a.map (canonOf t)] ∧ n' = n ∧ fl = 0
  | n, some x :: some y :: l, out, n', fl => ∃ z f rest fl', RoundsSum t mode (R n) (datum t x) (datum t y) (z, f)
      ∧ TreeLevel t mode R (n + 1) l rest n' fl' ∧ out = some z :: rest ∧ fl = f ||| fl'
  | n, some x :: none :: l, out, n', fl => ∃ rest, TreeLevel t mode R n l rest n' fl ∧ out = some (canonOf t x) :: rest
  | n, none :: y :: l, out, n', fl => ∃ rest, TreeLevel t mode R n l rest n' fl ∧ out = y.map (canonOf t) :: rest

/-- R121's tree in at most `k` levels: its result, the number of the next rounding, the flags. -/
def TreeTo (t : Nat) (mode : RMode) (R : Nat → Nat) : Nat → Nat → List (Option Nat) → Nat → Nat → Flags → Prop
  | _, n, [a], r, n', fl => a.map (canonOf t) = some r ∧ n' = n ∧ fl = 0
  | k + 1, n, l, r, n', fl => ∃ l' n1 f fl', TreeLevel t mode R n l l' n1 f ∧ TreeTo t mode R k n1 l' r n' fl' ∧ fl = f ||| fl'
  | 0, _, _, _, _, _ => False

/-- The tree sums of segments over the positions below `vl`, numbered segment after segment (R121, R122). -/
def SegTrees (t : Nat) (mode : RMode) (R : Nat → Nat) (vl : Nat) (xs : Nat → Nat) : Nat → List (List Nat) → List Nat → Flags → Prop
  | _, [], out, fl => out = [] ∧ fl = 0
  | n, g :: gs, out, fl => ∃ k r n1 f rest fl',
      TreeTo t mode R k n ((List.range vl).map (fun p => if p ∈ g then some (xs p) else none)) r n1 f
      ∧ SegTrees t mode R vl xs n1 gs rest fl' ∧ out = r :: rest ∧ fl = f ||| fl'

/-- The generator's output for the element `i` of an instruction (R110, R132). -/
def FpRegs.asterAt (fp : FpRegs) (i : Nat) : Nat := aster fp.srseed (fp.srbase + BitVec.ofNat 64 i) fp.srstep

end Sys2Proof.Machine

/-- The float column of R112's table with its specials, under every float type and mode, and the float rows of R113; VEXP2 and VLOG2 are
stated for their specials and where the exact result is a power of two or an integer (elsewhere log entry 7). -/
def Obligations.FloatElementResults : Prop :=
  ∀ (fp : FpRegs) (e : VEnv) (src : VSrc) (i p q d : Nat), isF e.ty = true → e.w = (floatRow e.ty).1 → p < 2 ^ e.w → q < 2 ^ e.w → d < 2 ^ e.w →
    let t := e.ty
    let mode := RMode.ofCode fp.frm.toNat
    let R := fp.asterAt i
    let swap : Bool := match src with | .sca _ x => x | .vec _ => false | .imm _ => false
    let P := datum t p
    let Q := match src with | .imm k => Datum.num (decide (k < 0)) k.natAbs | .vec _ => datum t q | .sca _ _ => datum t q
    let D := datum t d
    let x := if swap then Q else P
    let y := if swap then P else Q
    let out (op : VOp) : Nat × Flags := op.elem fp e src i p q d
    let one (op : UOp) : Nat × Flags := op.elem fp e i p
    let extreme (op : VOp) (z : Datum) : Prop := (out op).2 = 0 ∧ (out op).1 < 2 ^ e.w ∧ datum t (out op).1 = z
    RoundsSum t mode R x y (out .add) ∧ RoundsSum t mode R x y.opp (out .sub) ∧ RoundsProduct t mode R x y (out .mul)
    ∧ (match x, y with
      | .nan, _ => GivesNan t false (out .div)
      | _, .nan => GivesNan t false (out .div)
      | .inf _, .inf _ => GivesNan t true (out .div)
      | .inf a, .num s _ => RoundsInf t (a != s) 0 (out .div)
      | .num s _, .inf a => RoundsRat t mode R (s != a) 0 (out .div)
      | .num s a, .num s' b =>
        if b = 0 then (if a = 0 then GivesNan t true (out .div) else RoundsInf t (s != s') 16 (out .div))
        else RoundsRat t mode R (s != s') ((Datum.num s a).val / (Datum.num s' b).val) (out .div))
    ∧ (x.invalidProduct y → GivesNan t true (out .mac) ∧ GivesNan t true (out .nmac))
    ∧ (¬ x.invalidProduct y → RoundsSum t mode R D (x.times y) (out .mac) ∧ RoundsSum t mode R D (x.times y).opp (out .nmac))
    ∧ ((∀ k, src ≠ .imm k) →
        (x = .nan → y = .nan → GivesNan t false (out .min) ∧ GivesNan t false (out .max))
        ∧ (x = .nan → y ≠ .nan → extreme .min y ∧ extreme .max y) ∧ (x ≠ .nan → y = .nan → extreme .min x ∧ extreme .max x)
        ∧ (x ≠ .nan → y ≠ .nan → extreme .min (if y.below x then y else x) ∧ extreme .max (if x.below y then y else x)))
    ∧ one .mv = (p, 0)
    ∧ (P = .nan → ∀ op ∈ [UOp.abs, .neg, .sqrt, .exp2, .log2], GivesNan t false (one op))
    ∧ (P ≠ .nan → one .abs = (p % 2 ^ (e.w - 1), 0) ∧ one .neg = (if p < 2 ^ (e.w - 1) then p + 2 ^ (e.w - 1) else p - 2 ^ (e.w - 1), 0))
    ∧ (P = .inf false → RoundsInf t false 0 (one .sqrt) ∧ RoundsInf t false 0 (one .exp2) ∧ RoundsInf t false 0 (one .log2))
    ∧ (P = .inf true → GivesNan t true (one .sqrt) ∧ GivesNan t true (one .log2) ∧ RoundsRat t mode R false 0 (one .exp2))
    ∧ ∀ s a, P = .num s a →
        (a = 0 → one .sqrt = (p, 0) ∧ RoundsInf t true 16 (one .log2)) ∧ (a ≠ 0 → s = true → GivesNan t true (one .sqrt) ∧ GivesNan t true (one .log2))
        ∧ (a ≠ 0 → s = false → RoundsTo t mode R false (fun r => r * r ≤ a) (fun r => r * r = a) (one .sqrt))
        ∧ (∀ k : Int, P.val = k → RoundsRat t mode R false (2 ^ k) (one .exp2))
        ∧ ∀ k : Int, s = false → a = 2 ^ k → RoundsRat t mode R false k (one .log2)

/-! ### Compares and masks (R114-R116) -/

/-- Each compare writes, for each active element, whether the relation holds; under an integer type by value, the two N forms unsigned;
under a float type by R114's column, with +0 equal to −0, NaN unequal to everything and ordered with nothing, and IVO for a NaN under
the four ordered relations alone; the mask's other bits are unchanged. -/
def Obligations.CompareResults : Prop :=
  ∀ (s : State) (r : VRel) (d : Fin 12) (a b : Fin 48) (m : Option (Fin 12)) (h : Bool), s.VecCalm (r.instr d a b m h) →
    s.Accepts tyINF [a, b] →
    let e := s.env
    let x (k : Nat) : Bool × Flags := r.elem e (s.el a e.w k) (s.el b e.w k)
    s.MaskWrites (r.instr d a b m h) d ((s.act m).map (fun k => (k, (x k).1))) (flagsIn ((s.act m).map (fun k => (x k).2)))
    ∧ (isF e.ty = false → ∀ k, (x k).1 =
        let v (q : Nat) : Int := if isI e.ty = true ∧ r ≠ .ltn ∧ r ≠ .gen then sext e.w q else (q % 2 ^ e.w : Nat)
        let p := v (s.el a e.w k)
        let q := v (s.el b e.w k)
        match r with
        | .eq => decide (p = q) | .ne => decide (p ≠ q) | .lt => decide (p < q) | .le => decide (p ≤ q)
        | .gt => decide (q < p) | .ge => decide (q ≤ p) | .ltn => decide (p < q) | .gen => decide (q ≤ p))
    ∧ (isF e.ty = true → ∀ k, x k =
        let p := datum e.ty (s.el a e.w k)
        let q := datum e.ty (s.el b e.w k)
        let un : Bool := decide (p = .nan ∨ q = .nan)
        let ivo : Flags := if un then 1 else 0
        match r with
        | .eq => (p.same q, 0) | .ne => (!p.same q, 0) | .lt => (p.less q, ivo) | .le => (p.less q || p.same q, ivo)
        | .gt => (q.less p, ivo) | .ge => (q.less p || p.same q, ivo) | .ltn => (un || p.less q, 0) | .gen => (un || q.less p || p.same q, 0))

/-- The mask operations: the logic of R115 bit by bit on the active elements, the two break forms, the count and the first of R116. -/
def Obligations.MaskResults : Prop :=
  ∀ (s : State) (d a b : Fin 12) (e : Fin 32) (m : Option (Fin 12)) (h : Bool), s.VecCalm (.mset d m h) →
    let bit (k : Fin 12) (j : Nat) : Bool := ((s.ag s.cur).mreg k).getLsbD j
    let set (i : Instr) (f : Nat → Bool) : Prop := s.MaskWrites i d ((s.act m).map (fun k => (k, f k))) 0
    let on : List Nat := (s.act m).filter (bit a)
    set (.mand d a b m h) (fun k => bit a k && bit b k) ∧ set (.mor d a b m h) (fun k => bit a k || bit b k)
    ∧ set (.mxor d a b m h) (fun k => bit a k != bit b k) ∧ set (.mandn d a b m h) (fun k => bit a k && !bit b k)
    ∧ set (.mset d m h) (fun _ => true) ∧ set (.mclr d m h) (fun _ => false)
    ∧ set (.mbrkb d a m h) (fun k => on.all (fun j => decide (k < j))) ∧ set (.mbrki d a m h) (fun k => on.all (fun j => decide (k ≤ j)))
    ∧ s.Scalar (.mcnt e a m h) e (BitVec.ofNat 64 on.length)
    ∧ s.Scalar (.mfirst e a m h) e (match on with | [] => 0xFFFFFFFFFFFFFFFF | j :: _ => BitVec.ofNat 64 j)

/-! ### Permutations (R117, R118) -/

/-- Moving elements: broadcast, insert, extract, last, index, slides, permutation, compress, expand, merge, each from the old elements. -/
def Obligations.PermutationResults : Prop :=
  ∀ (s : State) (d a b : Fin 48) (e x : Fin 32) (m : Option (Fin 12)) (h : Bool), s.VecCalm (.vidx d m h) →
    let v := s.env
    let w := v.w
    let puts (i : Instr) (ups : List (Nat × Nat)) : Prop := s.VecWrites i d v.g w ups 0 false
    let act := s.act m
    let rx := ((s.ag s.cur).rs x).toNat
    let re := ((s.ag s.cur).rs e).toNat
    let out (p : Nat) : Word := if isI v.ty then BitVec.ofInt 64 (sext w p) else BitVec.ofNat 64 p
    (s.Accepts tyINF [d] → puts (.vbcast d x m h) (act.map (fun k => (k, rx % 2 ^ w)))
        ∧ puts (.vins d x e h) (if re < v.vl then [(re, rx % 2 ^ w)] else []))
    ∧ (s.Accepts tyINF [a] → s.Scalar (.vext e a x h) e (if rx < v.vl then out (s.el a w rx) else 0)
        ∧ s.Scalar (.vlast e a m h) e (match act.getLast? with | some k => out (s.el a w k) | none => (s.ag s.cur).rs e))
    ∧ (s.Accepts tyIN [d] → puts (.vidx d m h) (act.map (fun k => (k, k % 2 ^ w))))
    ∧ (s.Accepts tyINF [d, a] →
        puts (.vslup d a x m h) ((act.filter (fun k => decide (rx ≤ k))).map (fun k => (k, s.el a w (k - rx))))
        ∧ puts (.vsldn d a x m h) (act.map (fun k => (k, if k + rx < v.vl then s.el a w (k + rx) else 0)))
        ∧ puts (.vcmpr d a m h) (act.zipIdx.map (fun p => (p.2, s.el a w p.1)))
        ∧ puts (.vexpd d a m h) (act.zipIdx.map (fun p => (p.1, s.el a w p.2))))
    ∧ (s.Accepts tyINF [d, a, b] →
        puts (.vperm d a b m h) (act.map (fun k => (k, if s.el b w k < v.vl then s.el a w (s.el b w k) else 0))))
    ∧ (s.Accepts tyAny [d, a, b] →
        puts (.vmerge d a b m h) ((List.range v.vl).map (fun k => (k, if act.contains k then s.el a w k else s.el b w k))))

/-! ### Reductions, conversions, dependences (R119-R122, R139-R150) -/

/-- The reductions and the scan over the segments of R119: a segment begins at the first active element and, with segm.SEGON set, at
every active one whose bit of m[segm.SMASK] is set. VREDSUM, VREDOSUM, VREDMIN and VREDMAX write element k for segment k, VSCAN every
active element. Under an integer type sums are exact and narrowed; under a float type VREDSUM is R121's tree over the positions below
VL, VREDOSUM and VSCAN are R122's sums in order, each addition with the specials of R112 and rounded once under frm, the roundings
numbered segment after segment; least and greatest order −0 below +0, ignore NaN elements and give the canonical NaN where there is no
other. -/
def Obligations.ReductionResults : Prop :=
  ∀ (s : State) (d a : Fin 48) (m : Option (Fin 12)) (h : Bool) (segs : List (List Nat)), s.VecCalm (.vscan d a m h) → s.Accepts tyINF [d, a] →
    let e := s.env
    let x := s.el a e.w
    let segm := (s.ag s.cur).strip.segm
    let heads (i : Nat) : Prop := (s.act m).head? = some i
      ∨ segm.getLsbD 4 = true ∧ ∃ k : Fin 12, segm.toNat % 16 = k.val ∧ ((s.ag s.cur).mreg k).getLsbD i = true
    segs.flatten = s.act m → (∀ g ∈ segs, g ≠ []) → (∀ g ∈ segs, ∀ i ∈ g, (g.head? = some i ↔ heads i)) →
    let rd (x : Nat) : Int := if isI e.ty then sext e.w x else x
    let writes (i : Instr) (ups : List (Nat × Nat)) (fl : Flags) (sr : Bool) : Prop := s.VecWrites i d e.g e.w ups fl sr
    let each (i : Instr) (best : List Nat → Nat → Prop) : Prop := ∃ vs : List Nat, vs.length = segs.length
      ∧ (∀ k < segs.length, best (segs.getD k []) (vs.getD k 0)) ∧ writes i (vs.zipIdx.map (fun v => (v.2, v.1))) 0 false
    (isF e.ty = false →
      writes (.vredsum d a m h) (segs.zipIdx.map (fun g => (g.2, (g.1.map x).sum % 2 ^ e.w))) 0 false
      ∧ writes (.vredosum d a m h) (segs.zipIdx.map (fun g => (g.2, (g.1.map x).sum % 2 ^ e.w))) 0 false
      ∧ each (.vredmin d a m h) (fun g v => ∃ j ∈ g, v = x j ∧ ∀ i ∈ g, rd (x j) ≤ rd (x i))
      ∧ each (.vredmax d a m h) (fun g v => ∃ j ∈ g, v = x j ∧ ∀ i ∈ g, rd (x i) ≤ rd (x j))
      ∧ writes (.vscan d a m h) (segs.flatMap (fun g => g.zipIdx.map (fun p => (p.1, ((g.take (p.2 + 1)).map x).sum % 2 ^ e.w)))) 0 false)
    ∧ (isF e.ty = true →
      let t := e.ty
      let fp := (s.ag s.cur).fp
      let mode := RMode.ofCode fp.frm.toNat
      let sr := decide (mode = .sr)
      let z (i : Nat) : Datum := datum t (x i)
      let least (g : List Nat) (v : Nat) (le : Datum → Datum → Bool) : Prop :=
        ((∀ i ∈ g, z i = .nan) → v = nanOf t)
        ∧ ((∃ i ∈ g, z i ≠ .nan) → ∃ j ∈ g, z j ≠ .nan ∧ v = x j ∧ ∀ i ∈ g, z i ≠ .nan → le (z i) (z j) = false)
      (∃ vs fl, SegTrees t mode fp.asterAt e.vl x 0 segs vs fl ∧ writes (.vredsum d a m h) (vs.zipIdx.map (fun v => (v.2, v.1))) fl sr)
      ∧ (∃ vs fl, SegSums t mode fp.asterAt x 0 segs vs fl
          ∧ writes (.vredosum d a m h) (vs.zipIdx.map (fun v => (v.2, v.1.getLastD 0))) fl sr
          ∧ writes (.vscan d a m h) ((segs.zip vs).flatMap (fun p => p.1.zip p.2)) fl sr)
      ∧ each (.vredmin d a m h) (fun g v => least g v Datum.below) ∧ each (.vredmax d a m h) (fun g v => least g v (fun p q => q.below p)))

/-- VCVT writes each active element converted to the type of its field, into a group sized by that type, by R141's table (R140, R141). -/
def Obligations.ConvertResults : Prop :=
  ∀ (s : State) (d a : Fin 48) (r : BitVec 2) (t : BitVec 4) (m : Option (Fin 12)) (h : Bool), s.VecCalm (.vcvt d a r t m h) →
    t.toNat < 14 → let e := s.env
    let wt := elemBits t.toNat
    let gd := max 1 (e.g * wt / e.w)
    let mode := (s.ag s.cur).fp.effRM r.toNat
    let x (k : Nat) : Nat × Flags := cvtElem (s.ag s.cur).fp e mode t.toNat k (s.el a e.w k)
    s.Accepts tyINF [a] → e.g ∈ [1, 2, 4] → gd ≤ 4 → d.val % gd = 0 →
    s.VecWrites (.vcvt d a r t m h) d gd wt ((s.act m).map (fun k => (k, (x k).1))) (flagsIn ((s.act m).map (fun k => (x k).2)))
      (((isF t.toNat && decide (t.toNat ≠ e.ty)) || (isF e.ty && !isF t.toNat)) && decide (mode = .sr))
    ∧ (isF e.ty = false → isF t.toNat = false → ∀ k, (x k) =
        let v : Int := if isI e.ty then sext e.w (s.el a e.w k) else s.el a e.w k
        let lo : Int := if isI t.toNat then -2 ^ (wt - 1) else 0
        let hi : Int := if isI t.toNat then 2 ^ (wt - 1) - 1 else 2 ^ wt - 1
        (((max lo (min hi v)) % 2 ^ wt).toNat, 0))
    ∧ ∀ k, let p := s.el a e.w k
        let R := (s.ag s.cur).fp.asterAt k
        let P := datum e.ty p
        let lo : Int := if isI t.toNat then -2 ^ (wt - 1) else 0
        let hi : Int := if isI t.toNat then 2 ^ (wt - 1) - 1 else 2 ^ wt - 1
        let int (v : Int) : Nat := (v % 2 ^ wt).toNat
        (isF e.ty = false → isF t.toNat = true →
          RoundsRat t.toNat mode R false ((if isI e.ty then sext e.w p else (p : Int)) : Int) (x k))
        ∧ (isF e.ty = true → isF t.toNat = true → e.ty ≠ t.toNat → RoundsDatum t.toNat mode R P (x k))
        ∧ (isF e.ty = true → e.ty = t.toNat → if P = .nan then GivesNan e.ty false (x k) else x k = (p, 0))
        ∧ (isF e.ty = true → isF t.toNat = false → match P with
          | .nan => x k = (0, 1)
          | .inf neg => x k = (int (if neg then lo else hi), 1)
          | .num _ _ => ∃ m fl, RoundsZ mode R P.val m fl ∧ x k = (if lo ≤ m ∧ m ≤ hi then (int m, fl) else (int (max lo (min hi m)), 1)))

/-- VQNT and VDQNT code and decode each active element with the scale and the zero point of its block, from the two parameter registers,
as R142's pseudocode says, with NaN, infinities and clamped codes; neither runs with qparm.PEN clear (R138, R140, R142). The sign of
VDQNT's zero under a negative scale is the model's choice, log entry 81. -/
def Obligations.QuantizeResults : Prop :=
  ∀ (s : State) (d a : Fin 48) (r : BitVec 2) (q : Bool) (k : BitVec 2) (m : Option (Fin 12)) (h : Bool), k ≠ 0 →
    s.VecCalm (.vqnt d a r q k m h) →
    let e := s.env
    let fp := (s.ag s.cur).fp
    let b := if q then 8 else 4
    let mode := fp.effRM r.toNat
    let reg := fp.qparm.toNat % 64
    let block (j : Nat) : Nat := (fp.qparm.toNat / 2 ^ 8 % 2 ^ 7 + j) / (16 * 2 ^ k.toNat)
    let sc (j : Nat) : Val := f16.read (s.el reg 16 (block j))
    let z (j : Nat) : Nat := s.el (reg + 1) 8 (block j)
    let x (j : Nat) : Nat × Flags := qntElem fp mode b j ((fmtOf e.ty).read (s.el a e.w j)) (sc j) (z j)
    let y (j : Nat) : Nat × Flags := fp.roundTo (fmtOf e.ty) mode j (Val.mul (sc j) (Val.ofInt ((s.el a b j : Int) - z j)))
    let X (j : Nat) : Datum := datum e.ty (s.el a e.w j)
    let S (j : Nat) : Datum := datum 10 (s.el reg 16 (block j))
    let fits (j : Nat) : Prop := X j ≠ .nan ∧ ∃ g c, c ≠ 0 ∧ S j = .num g c
    let delta (j : Nat) : Int := (s.el a b j : Int) - z j
    s.Accepts isF [d, a] → reg + 1 < 48 →
    (fp.qparm.getLsbD 6 = true →
      s.VecWrites (.vqnt d a r q k m h) d e.g b ((s.act m).map (fun j => (j, (x j).1))) (flagsIn ((s.act m).map (fun j => (x j).2)))
        (decide (mode = .sr))
      ∧ s.VecWrites (.vdqnt d a r q k m h) d e.g e.w ((s.act m).map (fun j => (j, (y j).1)))
        (flagsIn ((s.act m).map (fun j => (y j).2))) (decide (mode = .sr)))
    ∧ (fp.qparm.getLsbD 6 = false → s.Traps (.vqnt d a r q k m h) (s.IllType 7) ∧ s.Traps (.vdqnt d a r q k m h) (s.IllType 7))
    ∧ ∀ j, (¬ fits j → x j = (z j % 2 ^ b, 1))
        ∧ (fits j → match X j, S j with
          | .inf g, .num g' _ => x j = (if g = g' then 2 ^ b - 1 else 0, 1)
          | .num _ _, .num _ _ => ∃ v fl, RoundsZ mode (fp.asterAt j) ((X j).val / (S j).val) v fl
              ∧ x j = ((max 0 (min (2 ^ b - 1 : Int) (v + z j))).toNat, fl)
          | _, _ => True)
        ∧ RoundsProduct e.ty mode (fp.asterAt j) (S j) (.num (decide (delta j < 0)) (delta j).natAbs) (y j)

/-- VTOPK and VTOPK.ABS under an integer type, with no segment mask: a bit for each active element that fewer than k active ones stand above
or, being equal, before (R143). Under any accepted type they complete and write nothing but bits of the mask. -/
def Claim.TopKResults : Prop :=
  ∀ (s : State) (d : Fin 12) (a : Fin 48) (b : Fin 32) (m : Option (Fin 12)) (h : Bool), s.VecCalm (.vtopk d a b m h) →
    s.Accepts tyINF [a] →
    let e := s.env
    let rd (x : Nat) : Int := if isI e.ty then sext e.w x else x
    let k := ((s.ag s.cur).rs b).toNat
    let key (abs : Bool) (j : Nat) : Int := if abs then (rd (s.el a e.w j)).natAbs else rd (s.el a e.w j)
    let bits (abs : Bool) : List (Nat × Bool) := (s.act m).map (fun i =>
      (i, decide (((s.act m).filter (fun j => decide (key abs i < key abs j ∨ (key abs i = key abs j ∧ j < i)))).length < k)))
    (isF e.ty = false → (s.ag s.cur).strip.segm.getLsbD 4 = false →
      s.MaskWrites (.vtopk d a b m h) d (bits false) 0 ∧ s.MaskWrites (.vtopkAbs d a b m h) d (bits true) 0)
    ∧ ∃ p q, s.MaskWrites (.vtopk d a b m h) d p 0 ∧ s.MaskWrites (.vtopkAbs d a b m h) d q 0

/-- The dependence instructions (R147-R150): the nearest earlier equal element, the bits and the end of the run that a start begins, and
the rows that fit in the length. -/
def Claim.DependenceResults : Prop :=
  ∀ (s : State) (d a : Fin 48) (p : Fin 12) (e b : Fin 32) (m : Option (Fin 12)) (h : Bool), s.VecCalm (.vconf d a m h) →
    let v := s.env
    let x (j : Nat) : Nat := s.el a v.w j
    let none_ := 2 ^ v.w - 1
    let start := ((s.ag s.cur).rs b).toNat
    let stop := if v.vl ≤ start then v.vl else
      (((s.act m).filter (fun j => decide (start < j ∧ x j ≠ none_ ∧ start ≤ x j))).head?).getD v.vl
    (s.Accepts (fun t => !isQ t) [d, a] → v.vl ≤ none_ →
      s.VecWrites (.vconf d a m h) d v.g v.w ((s.act m).map (fun i =>
        (i, match ((s.act m).filter (fun j => decide (j < i ∧ x j = x i))).getLast? with | some j => j | none => none_))) 0 false)
    ∧ (s.Accepts (fun t => !isQ t) [a] →
        s.MaskWrites (.vpart p a b m h) p ((List.range v.vl).map (fun j => (j, (s.act m).contains j && decide (start ≤ j ∧ j < stop)))) 0
        ∧ s.Scalar (.vparte e a b m h) e (BitVec.ofNat 64 stop)
        ∧ ∃ t rows vl, exec (.vsegl e a p h) s = .next t ∧ s.OnlyAgent t ∧ (s.ag s.cur).Retired (t.ag s.cur) s.after
            ∧ (s.ag s.cur).ScalarIs (t.ag s.cur) e (BitVec.ofNat 64 rows) ∧ (s.ag s.cur).AddressKept (t.ag s.cur)
            ∧ (t.ag s.cur).strip = { (s.ag s.cur).strip with mark := .none, vl := BitVec.ofNat 32 vl, segm := BitVec.ofNat 5 (16 + p.val) }
            ∧ rows ≤ v.vl ∧ ((0 < rows ∨ v.vl = 0) → vl = ((List.range rows).map x).sum ∧ vl ≤ v.vl
                ∧ (rows < v.vl → v.vl < ((List.range (rows + 1)).map x).sum))
            ∧ (rows = 0 → 0 < v.vl → vl = v.vl ∧ v.vl < x 0)
            ∧ ∀ r, r < 48 → (t.ag s.cur).vreg r = (s.ag s.cur).vreg r)

/-- The selection and dependence instructions (R143, R147-R150). -/
def Obligations.DependenceResults : Prop := Claim.TopKResults ∧ Claim.DependenceResults

/-- A vector instruction with no strip open traps NOSTRIP; with one open, OPTYPE for a type it does not accept, before GROUPALIGN for a
misplaced group (R108). -/
def Claim.VectorTypeTraps : Prop :=
  ∀ (s : State) (op : VOp) (d a b : Fin 48) (m : Option (Fin 12)) (h : Bool), s.Ready (op.vv d a b m h) →
    isPilot s.cur = false → (s.ag s.cur).strip.susp = false →
    ((s.ag s.cur).strip.shut = true → s.Traps (op.vv d a b m h) (s.IllType 3))
    ∧ ((s.ag s.cur).strip.shut = false → op.types s.env.ty = false → s.Traps (op.vv d a b m h) (s.IllType 5))
    ∧ ((s.ag s.cur).strip.shut = false → op.types s.env.ty = true → (∃ v ∈ [d, a, b], v.val % s.env.g ≠ 0) →
        s.Traps (op.vv d a b m h) (s.IllType 4))

/-! ### Strips (R76-R79) -/

/-- VSETL and VSETLR open a strip, after ending the one that is open: with a legal type and the hart's lease as it stands, the length is
the least of the request and the type's maximum, in whole blocks for a block type, sd and VL take it, PAD what was added; the checkpoint
stands at the instruction (R77, R86). -/
def Claim.StripOpens : Prop :=
  ∀ (s : State) (d a b : Fin 32) (i : BitVec 13) (vmax : Nat), isPilot s.cur = false → (s.ag s.cur).status = .run →
    let x := s.ag s.cur
    x.strip.susp = false → x.strip.buf = [] → x.strip.ppend = false → x.strip.lpend = false → x.marks.clear = x.marks →
    x.task.qmin = popCount x.strip.quads.toNat 8 → x.task.qpref = x.task.qmin → s.lanesOf (quayOf s.cur) x.strip.quads.toNat = x.strip.live →
    (s.qy (quayOf s.cur)).retired = 0 → (s.qy (quayOf s.cur)).leaseq = [] →
    let opens (j : Instr) (t : Nat) : Prop := vtLegal t = true → ({ x.strip with cap := x.strip.vlcap } : Strip).vlmaxOf t = some vmax →
      let avl := (x.rs a).toNat
      let vl := if 14 ≤ vtType t then min ((avl + vtBlock t - 1) / vtBlock t * vtBlock t) vmax else min avl vmax
      ∃ u, exec j s = .next u ∧ x.Retired (u.ag s.cur) s.after ∧ (∀ g, g ≠ s.cur → u.ag g = s.ag g)
        ∧ x.ScalarIs (u.ag s.cur) d (BitVec.ofNat 64 vl) ∧ x.AddressKept (u.ag s.cur)
        ∧ (u.ag s.cur).strip.vl = BitVec.ofNat 32 vl ∧ (u.ag s.cur).strip.vtype = BitVec.ofNat 8 t
        ∧ (u.ag s.cur).strip.shut = false ∧ (u.ag s.cur).strip.isOpen = true ∧ (u.ag s.cur).strip.segm = 0
        ∧ (u.ag s.cur).strip.pad = BitVec.ofNat 7 (if 14 ≤ vtType t then vl - min avl vl else 0)
        ∧ (u.ag s.cur).strip.spc = x.regs.pc ∧ (u.ag s.cur).strip.ckpt.s = x.regs.s ∧ (u.ag s.cur).strip.ckpt.a = x.regs.a
        ∧ (u.ag s.cur).strip.live = x.strip.live
        ∧ (u.ag s.cur).fp = { x.fp with srstep := 0, srbase := x.fp.srbase + (if x.strip.isOpen then x.strip.vl.setWidth 64 else 0) } ∧ u.mem = s.mem ∧ u.fw = s.fw ∧ u.work = s.work
    opens (.vsetl d a i) (wideNat x.regs.pfx 13 i.toNat) ∧ (x.regs.pfx = [] → opens (.vsetlr d a b) (x.rs b).toNat)

/-- An illegal type operand traps ILLTYPE with the operand, and the strip that is open stays as it was (R76, R77). -/
def Claim.IllegalTypeTraps : Prop :=
  ∀ (s : State) (d a b : Fin 32) (i : BitVec 13), isPilot s.cur = false → (s.ag s.cur).strip.susp = false →
    let x := s.ag s.cur
    let bad (j : Instr) (t : Nat) : Prop := vtLegal t = false → s.Traps j { cause := 2, sub := 1, val := BitVec.ofNat 64 t }
    bad (.vsetl d a i) (wideNat x.regs.pfx 13 i.toNat) ∧ (x.regs.pfx = [] → bad (.vsetlr d a b) (x.rs b).toNat)

/-- VEND ends the strip: VL is 0, the type is shut, srbase has advanced by the length, and the buffer is committed: it is empty, the
queue has gained the pieces that hold its bytes, and the hart's view of memory and memory itself are as before. VCUT keeps the strip
open, commits in the same way and moves the restart point past itself without counting; outside a strip both do nothing (R77, R79, R83,
R87). -/
def Claim.StripEndsAndCuts : Prop :=
  ∀ (s : State), isPilot s.cur = false → s.Ready .vend → (s.ag s.cur).strip.susp = false → (s.tile (quayOf s.cur)).watched = [] →
    ((s.ag s.cur).strip.buf.map (·.place)).Nodup →
    let x := s.ag s.cur
    let commits (t : State) : Prop := (t.ag s.cur).strip.buf = [] ∧ (t.ag s.cur).mem.wc = x.mem.wc ∧ (∀ r, t.seen s.cur r = s.seen s.cur r)
      ∧ (∀ r, t.byte r = s.byte r) ∧ ∃ ps, (t.ag s.cur).mem.queue = x.mem.queue ++ ps ∧ (ps = [] ↔ x.strip.buf = [])
        ∧ ∀ r, lastByte r (ps.flatMap (·.bytes)) = (x.strip.buf.find? (fun b => decide (b.place = r))).map (·.byte)
    (x.strip.isOpen = false → s.Idle .vend ∧ s.Idle .vcut)
    ∧ (x.strip.isOpen = true →
        (∃ t, exec .vend s = .next t ∧ s.OnlyAgent t ∧ x.Retired (t.ag s.cur) s.after ∧ x.ScalarKept (t.ag s.cur) ∧ x.AddressKept (t.ag s.cur)
          ∧ (t.ag s.cur).strip = { x.strip with vl := 0, pad := 0, shut := true, isOpen := false, noabort := false, mark := .none, buf := [] }
          ∧ (t.ag s.cur).fp = { x.fp with srbase := x.fp.srbase + x.strip.vl.setWidth 64 } ∧ (t.ag s.cur).vec = x.vec ∧ commits t)
        ∧ (∃ t, exec .vcut s = .next t ∧ s.OnlyAgent t ∧ x.Retired (t.ag s.cur) s.after ∧ x.ScalarKept (t.ag s.cur)
          ∧ x.AddressKept (t.ag s.cur) ∧ (t.ag s.cur).vec = x.vec ∧ (t.ag s.cur).fp = x.fp
          ∧ (t.ag s.cur).strip.spc = s.after ∧ (t.ag s.cur).strip.cutcnt = x.strip.cutcnt ∧ (t.ag s.cur).strip.vl = x.strip.vl
          ∧ (t.ag s.cur).strip.vtype = x.strip.vtype ∧ (t.ag s.cur).strip.ckpt.map = some x.vec.map ∧ (t.ag s.cur).strip.ckpt.s = x.regs.s
          ∧ (t.ag s.cur).strip.ckpt.a = x.regs.a ∧ (t.ag s.cur).strip.isOpen = true ∧ commits t))

/-- What opens, ends and cuts a strip (R76-R79, R86, R87). -/
def Obligations.StripResults : Prop := Claim.StripOpens ∧ Claim.StripEndsAndCuts

/-! ### Words of the statements: vector memory and copies -/

namespace Sys2Proof.Machine

/-- Nothing has changed but the current agent, the translations that are cached and the counters of free values. -/
def State.OnlyAgentCacheFree (s t : State) : Prop :=
  t = { s with agents := t.agents, tlb := t.tlb, frees := t.frees } ∧ ∀ g, g ≠ s.cur → t.ag g = s.ag g

/-- A vector load completes: the elements listed are written, nothing else of the vector and scalar registers, and one more load is out. -/
def State.VecLoads (s : State) (i : Instr) (d : Fin 48) (vl : BitVec 32) (ups : List (Nat × Nat)) : Prop :=
  ∃ t, exec i s = .next t ∧ s.OnlyAgentCacheFree t ∧ (s.ag s.cur).Retired (t.ag s.cur) s.after
    ∧ (s.ag s.cur).ScalarKept (t.ag s.cur) ∧ (s.ag s.cur).AddressKept (t.ag s.cur) ∧ (t.ag s.cur).fp = (s.ag s.cur).fp
    ∧ (t.ag s.cur).strip = { (s.ag s.cur).strip with mark := .none, vl := vl }
    ∧ (t.ag s.cur).mem = { (s.ag s.cur).mem with loadsOut := (s.ag s.cur).mem.loadsOut + 1 }
    ∧ (s.ag s.cur).ElementsAre (t.ag s.cur) d s.env.g s.env.w ups

/-- The address of an element in each mode (R175). -/
def State.elemAddr (s : State) (mode : VMode) (a : Fin 16) (i : Nat) : Addr :=
  let w := s.env.w
  (s.ag s.cur).ra a + BitVec.ofInt 72 (match mode with
    | .unit b => ((s.ag s.cur).rs b).toInt + (i * w / 8 : Nat)
    | .stride b => (i : Int) * ((s.ag s.cur).rs b).toInt
    | .index b scale => sext w (s.el b w i) * (if scale then (w / 8 : Nat) else 1))

/-- The bytes of an element's access: a q4 element shares its byte (R175). -/
def accBytes (w : Nat) : Nat := if w ≤ 8 then 1 else w / 8

/-- What a byte holds for a q4 element, else the value itself. -/
def nibbleOf (w i x : Nat) : Nat := if w = 4 then (if i % 2 = 0 then x % 16 else x / 16 % 16) else x

/-- The stores of a vector store: the bytes of each unit at its place, in order. -/
def storedBytes (us : List StoreUnit) (hs : List Hit) : List (Place × Byte) :=
  (us.zip hs).flatMap (fun x => placeBytes x.2.place x.1.bytes)

/-- A vector store of units completes within its strip: its hart sees the last byte stored at each place, and every other place as
before; no byte of memory and no register changes (R81, R82). -/
def State.VecStores (s : State) (i : Instr) (us : List StoreUnit) (hs : List Hit) : Prop :=
  ∃ t, exec i s = .next t ∧ s.OnlyAgentCacheFree t ∧ (s.ag s.cur).Retired (t.ag s.cur) s.after
    ∧ (s.ag s.cur).ScalarKept (t.ag s.cur) ∧ (s.ag s.cur).AddressKept (t.ag s.cur) ∧ (t.ag s.cur).fp = (s.ag s.cur).fp
    ∧ (t.ag s.cur).vec = (s.ag s.cur).vec ∧ (t.ag s.cur).mem = (s.ag s.cur).mem
    ∧ (t.ag s.cur).strip = { (s.ag s.cur).strip with mark := .none, buf := (t.ag s.cur).strip.buf }
    ∧ (∀ r : Place, t.seen s.cur r = (lastByte r (storedBytes us hs)).getD (s.seen s.cur r)) ∧ ∀ r, t.byte r = s.byte r

/-- A vector store can be made: its units are known, each passes its check on a page that is not a device's, and no cut is needed. -/
def State.VecStoreReady (s : State) (units : Issue → M (List StoreUnit)) (n al : Nat) (us : List StoreUnit) (hs : List Hit) : Prop :=
  units s.issue (s.begin_ s.issue) = .ok (us, s.begin_ s.issue)
  ∧ (s.begin_ s.issue).checkElems s.issue n al Acc.store (us.map (·.elem)) = .ok hs
  ∧ (∀ h ∈ hs, h.mtype ≠ 2) ∧ (s.vstoreRule units).cut = false ∧ (s.vstoreRule units).pre = false

/-- Memory as a function of the place, changed by one atomic of `n` bytes. -/
def putAtom (n : Nat) (p : Place) (v : Nat) (f : Place → Byte) : Place → Byte :=
  fun r => if r.space = p.space ∧ p.addr ≤ r.addr ∧ r.addr < p.addr + n then byteOf v (r.addr - p.addr) else f r

/-- Atomics one after another (R185): the old values in order, and the memory they leave. -/
def atomRun (n : Nat) (new : Nat → Nat → Nat) : List (Nat × Place) → (Place → Byte) → List (Nat × Nat) × (Place → Byte)
  | [], f => ([], f)
  | x :: t, f =>
    let old := leNat ((x.2.span n).map f)
    let r := atomRun n new t (putAtom n x.2 (new x.1 old) f)
    ((x.1, old) :: r.1, r.2)

/-- The new value of an atomic of `w` bits (R58, R184). -/
def atomNew (op : AtomOp) (w : Nat) (signed : Bool) (old x y : Nat) : Nat :=
  let v (z : Nat) : Int := if signed then sext w z else (z : Int)
  match op with
  | .add => (old + x) % 2 ^ w | .swp => x | .cas => if old = x then y else old
  | .min => if v x < v old then x else old | .max => if v old < v x then x else old
  | .and => old &&& x | .or => old ||| x | .xor => old ^^^ x

/-- The vector instruction of an atomic. -/
def AtomOp.vector (op : AtomOp) (d : Fin 48) (a : Fin 16) (b : Fin 48) (m : Option (Fin 12)) (o : MOrd) : Instr :=
  match op with
  | .add => .vamoadd d a b m o | .swp => .vamoswp d a b m o | .cas => .vamocas d a b m o | .min => .vamomin d a b m o
  | .max => .vamomax d a b m o | .and => .vamoand d a b m o | .or => .vamoor d a b m o | .xor => .vamoxor d a b m o

/-- An instruction that cuts can begin: the strip is open, its buffer is empty, and nothing becomes due at the cut (R87, R92). -/
def State.CutReady (s : State) : Prop :=
  (s.ag s.cur).strip.buf = [] ∧ (s.ag s.cur).strip.isOpen = true ∧ ((s.cutBefore s.issue).atGroup s.issue).due s.cur = false

/-- A cut-forcing vector instruction has completed: the strip stands at the cut after it; the scalar side is as it was (R87, R88). -/
def State.CutCompleted (s t : State) : Prop :=
  (∀ g, g ≠ s.cur → t.ag g = s.ag g) ∧ (s.ag s.cur).Retired (t.ag s.cur) s.after ∧ (s.ag s.cur).ScalarKept (t.ag s.cur)
  ∧ (s.ag s.cur).AddressKept (t.ag s.cur) ∧ (t.ag s.cur).strip.isOpen = true ∧ (t.ag s.cur).strip.vl = (s.ag s.cur).strip.vl
  ∧ (t.ag s.cur).strip.vtype = (s.ag s.cur).strip.vtype ∧ (t.ag s.cur).strip.live = (s.ag s.cur).strip.live
  ∧ (t.ag s.cur).strip.spc = s.after ∧ (t.ag s.cur).strip.ckpt.map = some (t.ag s.cur).vec.map ∧ (t.ag s.cur).fp = (s.ag s.cur).fp

/-- The trap of a berth (R229). -/
def berthMisuse (n : Fin 16) (sub : Nat) : TrapInfo := { cause := 0x11, sub := sub, val := BitVec.ofNat 64 n.val, detail := n.val }

/-- The berth a push leaves: its expected count has grown, and a copy of some elements waits behind the earlier ones (R226, R233). -/
def Berth.Pushed (b c : Berth) (cp : Copy) : Prop :=
  c = { b with expect := b.expect + cp.count, copies := if cp.count = 0 then b.copies else b.copies ++ [{ cp with base := b.expect }] }

end Sys2Proof.Machine

/-! ### Vector loads and stores (R173-R183) -/

/-- VLD, VLDS, VLDX and VLDFF write each active element from the bytes the hart sees at the element's address, when every element passes
its check and meets no poison. -/
def Claim.VectorLoadResults : Prop :=
  ∀ (s : State) (d b : Fin 48) (a : Fin 16) (x : Fin 32) (m : Option (Fin 12)) (n c : Bool) (hs : List Hit),
    let w := s.env.w
    let nb := accBytes w
    let act := s.act m
    let loads (i : Instr) (ok : Nat → Bool) (mode : VMode) : Prop := s.VecCalm i → s.NoErrors → s.Accepts ok (d :: mode.regs) →
      s.checkElems s.issue nb nb Acc.vload (act.map (fun k => ⟨k, s.elemAddr mode a k⟩)) = .ok hs →
      (∀ h ∈ hs, s.badSeen s.cur h.place nb = none) →
      s.VecLoads i d (s.ag s.cur).strip.vl ((act.zip hs).map (fun p => (p.1, nibbleOf w p.1 (s.seenNat s.cur p.2.place nb))))
    loads (.vld d a x m n) tyAny (.unit x) ∧ loads (.vlds d a x m n) tyINF (.stride x) ∧ loads (.vldx d a b m n c) tyINF (.index b c)
    ∧ loads (.vldff d a x m n) tyINF (.unit x)

/-- VLDFF whose first element passes and a later one fails its check (but for a watch or a device page): the elements before it are
written and VL becomes its index; an element above it on a device page still traps (R179). -/
def Claim.FaultOnlyFirst : Prop :=
  ∀ (s : State) (d : Fin 48) (a : Fin 16) (x : Fin 32) (m : Option (Fin 12)) (n : Bool) (p q : List Nat) (k : Nat) (hs : List Hit) (t : TrapInfo),
    let nb := accBytes s.env.w
    let at_ (j : Nat) : Elem := ⟨j, s.elemAddr (.unit x) a j⟩
    let device (j : Nat) (u : TrapInfo) : Prop := s.check s.issue (at_ j).addr nb nb Acc.vload j = .bad u ∧ u.cause = 0x0A ∧ u.sub = 7
    s.VecCalm (.vldff d a x m n) → s.NoErrors → s.Accepts tyINF [d] → s.act m = p ++ k :: q → p ≠ [] →
    s.checkElems s.issue nb nb Acc.vload (p.map at_) = .ok hs → (∀ h ∈ hs, s.badSeen s.cur h.place nb = none) →
    s.check s.issue (at_ k).addr nb nb Acc.vload k = .bad t → t.cause ≠ 0x31 → ¬ (t.cause = 0x0A ∧ t.sub = 7) →
    ((∀ j ∈ q, ∀ u, ¬ device j u) →
      s.VecLoads (.vldff d a x m n) d (BitVec.ofNat 32 k) ((p.zip hs).map (fun y => (y.1, s.seenNat s.cur y.2.place nb))))
    ∧ ∀ q1 j q2 u, q = q1 ++ j :: q2 → (∀ i ∈ q1, ∀ v, ¬ device i v) → device j u → s.Traps (.vldff d a x m n) u

/-- VST, VSTS, VSTX and VSTC hand the bytes of their units to the strip store buffer. VST, VSTS and VSTX store each active element at
its address: a q4 element the byte of its pair, a padding element of a q type the zero point of its block (R176, R177). VSTC stores
R181's packed block whole, the active elements that are not zero with their mask, and traps where its address is no multiple of 8 or the
block is larger than its capacity (R182). -/
def Obligations.VectorStoreResults : Prop :=
  ∀ (s : State) (d b : Fin 48) (a : Fin 16) (x : Fin 32) (m : Option (Fin 12)) (n c : Bool) (us : List StoreUnit) (hs : List Hit),
    let w := s.env.w
    let nb := accBytes w
    let ty := s.env.ty
    let vl := s.env.vl
    let st := (s.ag s.cur).strip
    let qp := (s.ag s.cur).fp.qparm.toNat
    let code (k : Nat) : Nat := if isQ ty = true ∧ st.pad ≠ 0 ∧ vl - st.pad.toNat ≤ k
      then s.el (qp % 64 + 1) 8 ((qp / 2 ^ 8 % 2 ^ 7 + k) / (16 * 2 ^ (st.vtype.toNat / 64 % 4))) % 2 ^ w else s.el d w k
    let val (k : Nat) : Nat := if w = 4 then code (k / 2 * 2) + 16 * code (k / 2 * 2 + 1) else code k
    let stores (i : Instr) (ok : Nat → Bool) (mode : VMode) : Prop := s.VecCalm i → s.Accepts ok (d :: mode.regs) →
      s.VecStoreReady (vstUnits ok mode d a m) nb nb us hs → s.VecStores i us hs
        ∧ us.map (fun u => (u.elem.addr, u.bytes)) = (s.act m).map (fun k => (s.elemAddr mode a k, (List.range nb).map (byteOf (val k))))
    stores (.vst d a x m n) tyAny (.unit x) ∧ stores (.vsts d a x m n) tyINF (.stride x) ∧ stores (.vstx d a b m n c) tyINF (.index b c)
    ∧ (s.VecCalm (.vstc d a x m n) → s.Accepts tyINF [d] →
        let base := (s.ag s.cur).ra a
        let kept := (s.act m).filter (fun k => decide (s.el d w k ≠ 0))
        let ms := 8 * ((vl + 63) / 64)
        let size := 8 + ms + 8 * ((kept.length * w + 63) / 64)
        let bs := us.flatMap (fun u => u.bytes)
        (s.VecStoreReady (vstcUnits d a x m) 8 8 us hs → s.VecStores (.vstc d a x m n) us hs
          ∧ us.map (fun u => (u.elem.addr, u.bytes.length)) = (List.range (size / 8)).map (fun j => (base + BitVec.ofNat 72 (8 * j), 8))
          ∧ leNat (bs.take 4) = kept.length % 2 ^ 32 ∧ leNat ((bs.drop 4).take 4) = (ty + vl * 2 ^ 8) % 2 ^ 32
          ∧ (∀ i, (leNat ((bs.drop 8).take ms)).testBit i = decide (i ∈ kept))
          ∧ leNat (bs.drop (8 + ms)) < 2 ^ (kept.length * w)
          ∧ ∀ j < kept.length, leNat (bs.drop (8 + ms)) / 2 ^ (j * w) % 2 ^ w = s.el d w (kept.getD j 0))
        ∧ (base.toNat % 8 ≠ 0 → s.Traps (.vstc d a x m n) { cause := 0x08, val := base.setWidth 64, win := base.toNat / 2 ^ 64 })
        ∧ (base.toNat % 8 = 0 → ((s.ag s.cur).rs x).toNat < size →
            s.Traps (.vstc d a x m n) { cause := 0x10, sub := 1, val := BitVec.ofNat 64 size }))

/-- VLDC writes each active element from the packed block at its address: the next stored value where the block's mask has a bit, else
zero (R181, R183). The block's parts are read as they stand. -/
def Claim.PackedLoadResults : Prop :=
  ∀ (s s1 s2 s3 : State) (d : Fin 48) (a : Fin 16) (x : Fin 32) (m : Option (Fin 12)) (n : Bool) (hdr mask vals : Nat),
    let e := s.env
    let base := (s.ag s.cur).ra a + BitVec.ofInt 72 ((s.ag s.cur).rs x).toInt
    let cnt := hdr / 2 ^ 40
    s.VecCalm (.vldc d a x m n) → s.NoErrors → s.Accepts tyINF [d] → base.toNat % 8 = 0 → hdr < 2 ^ 64 → hdr / 2 ^ 32 % 16 = e.ty → hdr / 2 ^ 36 % 16 = 0 →
    mask < 2 ^ cnt → popCount mask cnt = hdr % 2 ^ 32 →
    packedPart s.issue base 8 (s.begin_ s.issue) = .ok (hdr, s1) →
    packedPart s.issue (base + 8) (8 * ((cnt + 63) / 64)) s1 = .ok (mask, s2) →
    packedPart s.issue (base + 8 + BitVec.ofNat 72 (8 * ((cnt + 63) / 64))) (8 * ((hdr % 2 ^ 32 * e.w + 63) / 64)) s2 = .ok (vals, s3) →
    s.VecLoads (.vldc d a x m n) d (s.ag s.cur).strip.vl ((s.act m).map (fun i =>
      (i, if mask.testBit i then vals / 2 ^ (popCount mask i * e.w) % 2 ^ e.w else 0)))

/-- Vector loads, their fault-only-first form and the packed load (R173-R183). -/
def Obligations.VectorLoadResults : Prop := Claim.VectorLoadResults ∧ Claim.FaultOnlyFirst ∧ Claim.PackedLoadResults

/-- Every VAMO on plain memory whose home is here performs its elements one by one in element order, each as R58's atomic at the element
width, and writes the old values to the active elements (R184, R185); one whose first element has its home on another module asks that for
it (R380). -/
def Claim.VectorAtomicResults : Prop :=
  ∀ (s : State) (op : AtomOp) (d b : Fin 48) (a : Fin 16) (m : Option (Fin 12)) (o : MOrd) (hs : List Hit),
    let e := s.env
    let act := s.act m
    let nb := e.w / 8
    let els : List Elem := act.map (fun k => ⟨k, (s.ag s.cur).ra a + BitVec.ofInt 72 (sext e.w (s.el b e.w k))⟩)
    let y (k : Nat) : Nat := if op = .cas then s.el (d.val + e.g) e.w k else s.el d e.w k
    let r := atomRun nb (fun k old => atomNew op e.w (isI e.ty) old (s.el d e.w k) (y k)) (act.zip (hs.map (·.place))) s.byte
    s.MemoryOk → s.VecCalm (op.vector d a b m o) → s.AllQuiet → s.CutReady → (e.ty = 2 ∨ e.ty = 3 ∨ e.ty = 6 ∨ e.ty = 7) →
    d.val % e.g = 0 → b.val % e.g = 0 → (op = .cas → d.val + 2 * e.g ≤ 48) →
    s.checkElems s.issue nb nb op.acc els = .ok hs → (∀ h ∈ hs, h.place.Plain ∧ s.badRead h.place nb = none) →
    ((∀ h ∈ hs, s.away h.place = false) → ∃ t, exec (op.vector d a b m o) s = .next t ∧ s.CutCompleted t
      ∧ (s.ag s.cur).ElementsAre (t.ag s.cur) d e.g e.w r.1 ∧ ∀ p, t.byte p = r.2 p)
    ∧ ∀ k ks h hs', act = k :: ks → hs = h :: hs' → s.away h.place = true → s.Asks (op.vector d a b m o) k (h.place.addr / 2 ^ 44)
        (fun t => .amo t (op.number (isI e.ty)) (writerOf s.cur).1 (writerOf s.cur).2 (quayOf s.cur) h.place.addr nb (s.el d e.w k) (y k))

/-- VAMOCASW compares and swaps pairs of 64-bit elements: the even active elements whose partner lies below VL, each 16 bytes at once
(R187). -/
def Claim.PairAtomicResults : Prop :=
  ∀ (s : State) (d b : Fin 48) (a : Fin 16) (m : Option (Fin 12)) (o : MOrd) (hs : List Hit),
    let e := s.env
    let act := (s.act m).filter (fun k => decide (k % 2 = 0 ∧ k + 1 < e.vl))
    let els : List Elem := act.map (fun k => ⟨k, (s.ag s.cur).ra a + BitVec.ofInt 72 (sext e.w (s.el b e.w k))⟩)
    let pair (v k : Nat) : Nat := s.el v e.w k + s.el v e.w (k + 1) * 2 ^ 64
    let r := atomRun 16 (fun k old => if old = pair d k then pair (d.val + e.g) k else old) (act.zip (hs.map (·.place))) s.byte
    s.MemoryOk → s.VecCalm (.vamocasw d a b m o) → s.AllQuiet → s.CutReady → (e.ty = 3 ∨ e.ty = 7) →
    d.val % e.g = 0 → b.val % e.g = 0 → d.val + 2 * e.g ≤ 48 →
    s.checkElems s.issue 16 16 { r := true, w := true } els = .ok hs → (∀ h ∈ hs, h.place.Plain ∧ s.badRead h.place 16 = none) →
    ((∀ h ∈ hs, s.away h.place = false) → ∃ t, exec (.vamocasw d a b m o) s = .next t ∧ s.CutCompleted t
      ∧ (s.ag s.cur).ElementsAre (t.ag s.cur) d e.g e.w (r.1.flatMap (fun x => [(x.1, x.2 % 2 ^ 64), (x.1 + 1, x.2 / 2 ^ 64)]))
      ∧ ∀ p, t.byte p = r.2 p)
    ∧ ∀ k ks h hs', act = k :: ks → hs = h :: hs' → s.away h.place = true → s.Asks (.vamocasw d a b m o) k (h.place.addr / 2 ^ 44)
        (fun t => .amo t 2 (writerOf s.cur).1 (writerOf s.cur).2 (quayOf s.cur) h.place.addr 16 (pair d k) (pair (d.val + e.g) k))

/-- Vector atomics, of elements and of pairs of elements (R184-R187). -/
def Obligations.VectorAtomicResults : Prop := Claim.VectorAtomicResults ∧ Claim.PairAtomicResults

/-! ### Berths and copies (R224-R239) -/

/-- BRST takes a berth that nobody else owns and resets its counts, BRST.FREE gives it up, BAVL reads what is available; the wrong owner
traps BERTH_MISUSE with nothing changed (R229, R232, R237). -/
def Claim.BerthResults : Prop :=
  ∀ (s : State) (n : Fin 16) (d : Fin 32), isPilot s.cur = false → s.Ready (.brst n) →
    let q := quayOf s.cur
    let b := s.berth q n
    let leaves (i : Instr) (c : Berth) : Prop := ∃ t, exec i s = .next t ∧ (s.ag s.cur).Retired (t.ag s.cur) s.after
      ∧ (∀ g, g ≠ s.cur → t.ag g = s.ag g) ∧ (s.ag s.cur).KeptAside (t.ag s.cur) ∧ (s.ag s.cur).ScalarKept (t.ag s.cur)
      ∧ (s.ag s.cur).AddressKept (t.ag s.cur) ∧ t = { s with agents := t.agents, quays := t.quays }
      ∧ t.berth q n = c ∧ (∀ k : Fin 16, k ≠ n → t.berth q k = s.berth q k) ∧ ∀ j, j ≠ q → t.qy j = s.qy j
    (b.owner = none ∨ b.owner = some s.cur → b.copies = [] →
        leaves (.brst n) { b with owner := some s.cur, expect := 0, avail := 0, ahead := [], fault := none })
    ∧ (b.owner ≠ none → b.owner ≠ some s.cur → s.Traps (.brst n) (berthMisuse n 2))
    ∧ (b.owner = some s.cur → b.copies = [] → leaves (.brstFree n) { b with owner := none })
    ∧ (b.owner ≠ some s.cur → s.Traps (.brstFree n) (berthMisuse n 1) ∧ s.Traps (.bavl d n) (berthMisuse n 1))
    ∧ (b.owner = some s.cur → b.fault = none → s.Scalar (.bavl d n) d (BitVec.ofNat 64 b.avail))

/-- BCPY, GTHW, SCTW, GTHV and GTHV.FF push a copy behind the berth's earlier ones with what the push captures, when the berth is the
hart's and without a fault, its configuration is legal and a copy slot is free (R225, R233, R235). -/
def Obligations.PushResults : Prop :=
  ∀ (s : State) (n a k : Fin 16) (d v : Fin 48) (c : Fin 32) (m : Option (Fin 12)) (p : BitVec 2) (ff : Bool),
    let q := quayOf s.cur
    let b := s.berth q n
    let x := s.ag s.cur
    let e := s.env
    let base := x.ra a
    let slots : Addr := BitVec.ofNat 72 (2 * 2 ^ 64 + b.bcfg.toNat / 2 ^ 16 % 2 ^ 22)
    let sst := sext 32 b.bstr.toNat
    let size := 8 * (b.bcfg.toNat % 2 ^ 13)
    let rows (m : Option (Fin 12)) : List Int := (s.act m).map (fun i => sext e.w (s.el v e.w i))
    let cp (kd : CopyKind) (l : List Int) : Copy := { kind := kd, agent := s.cur, serial := x.mem.nextCopy, base := 0, count := l.length, rows := l }
    let may (kd : CopyKind) (cnt : Nat) : Prop := b.owner = some s.cur ∧ b.fault = none ∧ configBad kd b.bcfg cnt = false
      ∧ b.expect + cnt < 2 ^ 32 ∧ (s.qy q).copyCount < 64 ∧ s.AllQuiet
    let strip (i : Instr) (kd : CopyKind) (cnt : Nat) : Prop :=
      may kd cnt ∧ s.VecCalm i ∧ s.CutReady ∧ tyINF e.ty = true ∧ v.val % e.g = 0
    let done (i : Instr) (y : Copy) : Prop := ∃ t, exec i s = .next t ∧ s.CutCompleted t ∧ b.Pushed (t.berth q n) y
      ∧ (t.ag s.cur).mem = { x.mem with nextCopy := x.mem.nextCopy + 1 }
    (strip (.gthw n a v m p) .gthw (rows m).length → done (.gthw n a v m p)
        { cp .gthw (rows m) with src := base, dst := slots, sstr := sst, dstr := (wStr b.bcfg : Int), bytes := size })
    ∧ (strip (.sctw n a v m p) .sctw (rows m).length → done (.sctw n a v m p)
        { cp .sctw (rows m) with src := slots, dst := base, sstr := sst, dstr := (wStr b.bcfg : Int), bytes := size })
    ∧ (let i := if ff then Instr.gthvFf d a v n p else Instr.gthv d a v n p
       strip i (.gthv ff) (rows none).length → d.val % e.g = 0 → ∃ t new, exec i s = .next t ∧ s.CutCompleted t
        ∧ b.Pushed (t.berth q n)
            { cp (.gthv ff) (rows none) with src := base, sstr := sst, bytes := e.w / 8, width := e.w, vlen := x.strip.vlen, phys := new }
        ∧ new.length = e.g ∧ new.Nodup ∧ (∀ r ∈ new, r ∈ s.freePhys s.cur ∨ r ∈ (s.cutBefore s.issue).freePhys s.cur)
        ∧ (∀ r, r < 48 → (t.ag s.cur).vreg r = x.vreg r)
        ∧ (∀ j, j < e.g → ((t.ag s.cur).physOf (d.val + j)).val = new.getD j 0))
    ∧ (isPilot s.cur = false → s.Ready (.bcpy n a c k p) → x.inStrip = false → may .bcpy (x.rs c).toNat →
        ∃ t, exec (.bcpy n a c k p) s = .next t ∧ (∀ g, g ≠ s.cur → t.ag g = s.ag g) ∧ x.Retired (t.ag s.cur) s.after
          ∧ x.ScalarKept (t.ag s.cur) ∧ x.AddressKept (t.ag s.cur)
          ∧ b.Pushed (t.berth q n) { cp .bcpy [] with
              count := (x.rs c).toNat, src := base, dst := x.ra k, sstr := sst, dstr := sext 32 (b.bstr.toNat / 2 ^ 32), bytes := size }
          ∧ (t.ag s.cur).mem = { x.mem with nextCopy := x.mem.nextCopy + 1 })

/-- WAITC completes exactly when each of its four counts is within its limit, where 31 is no limit; otherwise the agent stays at it
(R238). -/
def Claim.WaitcResults : Prop :=
  ∀ (s : State) (l n c t : BitVec 5), s.Ready (.waitc l n c t) →
    let w := s.waitCounts s.cur
    let ok (k : Nat) (x : BitVec 5) : Prop := x = 31 ∨ k ≤ x.toNat
    let all := ok (s.ag s.cur).mem.loadsOut l ∧ ok w.1 n ∧ ok w.2.1 c ∧ ok w.2.2 t
    (all → s.Idle (.waitc l n c t))
    ∧ (¬ all → ∃ u, exec (.waitc l n c t) s = .next u ∧ s.OnlyAgent u ∧ (u.ag s.cur).regs = (s.ag s.cur).regs ∧ (u.ag s.cur).marks.stall = true)

/-- Berths, and the wait for copies (R229, R232, R237, R238). -/
def Obligations.BerthResults : Prop := Claim.BerthResults ∧ Claim.WaitcResults

/-! ### Words of the statements: control registers, traps, orders -/

namespace Sys2Proof.Machine

/-- An agent has gone on past an instruction, whatever has become of its other registers. -/
def Agent.Goes (a b : Agent) (pc : Word) : Prop :=
  b.status = .run ∧ b.regs.pc = pc ∧ b.regs.pfx = [] ∧ b.regs.instret = a.regs.instret + 1 ∧ b.marks.stall = false

/-- Every other agent, and every byte of memory, is as before. -/
def State.OthersKept (s t : State) : Prop := (∀ g, g ≠ s.cur → t.ag g = s.ag g) ∧ ∀ p, t.byte p = s.byte p

/-- The current agent may reach a control register: privilege, its kind, its berth (R62, R63, R229). -/
def State.CsrMay (s : State) (n : Nat) (writes : Bool) : Prop :=
  (csrPriv n = true → s.sysAt (s.ag s.cur).part (s.ag s.cur).wordAddr = true)
  ∧ (if isPilot s.cur then csrHartOnly n = false else csrPilotOnly n = false ∧ (writes = true → csrPilotWrite n = false))
  ∧ (0x300 ≤ n ∧ n ≤ 0x31F → ((s.qy (quayOf s.cur)).berths.toList.getD (n % 16) {}).owner = some s.cur)

/-- The control registers that hold the bits written to them, whatever those are. -/
def csrPlain (n : Nat) : Bool :=
  decide ((0x020 ≤ n ∧ n ≤ 0x023) ∨ n = 0x026 ∨ n = 0x028 ∨ n = 0x104 ∨ n = 0x107 ∨ (0x201 ≤ n ∧ n ≤ 0x204) ∨ (0x300 ≤ n ∧ n ≤ 0x31F)
    ∨ n = 0x323 ∨ n = 0x401 ∨ n = 0x402 ∨ (0x410 ≤ n ∧ n ≤ 0x417) ∨ n = 0x500 ∨ (0x510 ≤ n ∧ n ≤ 0x51F) ∨ n = 0x603
    ∨ (0x700 ≤ n ∧ n ≤ 0x707))

/-- A control register instruction writes `v` to register `n` outside a strip and gives the old value (R63, R10). -/
def State.CsrTakes (s : State) (i : Instr) (d : Fin 32) (n : Nat) (v : Word) : Prop :=
  let g := s.cur
  let a := s.ag g
  let mask : Word := BitVec.ofNat 64 (csrMask n)
  let old := s.csr g n
  let does (new : Word) (count : Word) : Prop := ∃ t, exec i s = .next t ∧ s.OthersKept t ∧ a.Goes (t.ag g) s.after ∧ a.AddressKept (t.ag g)
    ∧ a.ScalarIs (t.ag g) d old ∧ (t.ag g).vec = a.vec ∧ (t.ag g).mem = a.mem ∧ t.csr g n = new ∧ t.csr g 0x720 = s.csr g 0x720 + count
    ∧ ∀ m, m ≠ n → m ∉ [0x011, 0x027, 0x708, 0x720] → t.csr g m = s.csr g m
  s.Ready i → a.inStrip = false → s.CsrMay n true →
    (csrPlain n = true → does (v &&& mask) (if v &&& ~~~mask = 0 then 0 else 1))
    ∧ (n = 0x200 → does (if v &&& mask = 6 ∨ v &&& mask = 7 then old else v &&& mask)
        ((if v &&& ~~~mask = 0 then 0 else 1) + if v &&& mask = 6 ∨ v &&& mask = 7 then 1 else 0))
    ∧ (n = 0x027 → does (if v.getLsbD 1 then old &&& ~~~2 else old) (if v.toNat / 4 = 0 then 0 else 1))
    ∧ (csrAssigned n = true → csrReadOnly n = true → s.Scalar i d old)
    ∧ (csrAssigned n = false → does 0 1)

/-- A release has performed every store of the current agent: memory holds what the agent saw. -/
def State.Releases (s : State) (i : Instr) : Prop :=
  ∃ t, exec i s = .next t ∧ (∀ g, g ≠ s.cur → t.ag g = s.ag g) ∧ (s.ag s.cur).Retired (t.ag s.cur) s.after
    ∧ (s.ag s.cur).ScalarKept (t.ag s.cur) ∧ (s.ag s.cur).AddressKept (t.ag s.cur)
    ∧ (t.ag s.cur).mem = { (s.ag s.cur).mem with queue := [] } ∧ ∀ p : Place, (p.Plain → t.byte p = s.seen s.cur p) ∧ (¬ p.Plain → t.byte p = s.byte p)

/-- The agent's committed stores lie in plain memory, and nothing else of it waits: a release performs them and does nothing more. -/
def State.PlainQueue (s : State) : Prop :=
  (∀ p ∈ (s.ag s.cur).mem.queue, ∀ x ∈ p.bytes, x.1.Plain) ∧ (s.ag s.cur).strip.buf = [] ∧ (s.ag s.cur).mem.wc = [] ∧ s.link.relaxed = 0
  ∧ (s.tile (quayOf s.cur)).watched = [] ∧ (s.tile (quayOf s.cur)).feeds = []

/-- The agent stays at its instruction and tries again. -/
def State.Stays (s : State) (i : Instr) : Prop :=
  ∃ t, exec i s = .next t ∧ s.OthersKept t ∧ (t.ag s.cur).regs = { (s.ag s.cur).regs with pfx := [] } ∧ (t.ag s.cur).marks.stall = true

/-- The causes of R335's table whose disposition is Local. -/
def localCause (c : Nat) : Bool :=
  [0x01, 0x02, 0x03, 0x04, 0x05, 0x08, 0x0A, 0x0B, 0x0C, 0x0D, 0x0F, 0x10, 0x11, 0x12, 0x13, 0x14, 0x18, 0x21, 0x28, 0x33, 0x3B].contains c
/-- The causes of R335's table whose disposition is Local, or Debug when a debugger is attached: BRK and WATCH. -/
def debugCause (c : Nat) : Bool := c = 0x30 || c = 0x31

end Sys2Proof.Machine

/-! ### Control registers (R62-R64) -/

/-- CSRR, and CSRS and CSRC with s0, read a control register and write nothing (R63). -/
def Claim.CsrReads : Prop :=
  ∀ (s : State) (d : Fin 32) (c : BitVec 12), s.CsrMay c.toNat false →
    let reads (i : Instr) : Prop := s.Ready i → s.Scalar i d (s.csr s.cur c.toNat)
    reads (.csrr d c) ∧ reads (.csrs d 0 c) ∧ reads (.csrc d 0 c)

/-- CSRW, CSRS and CSRC write the source, the old value with its bits set, or with its bits cleared; bits that the register does not
hold are counted in rsvacc and dropped, a read-only register is left, an unassigned one is counted; ipend accepts a one that clears its
bit 1 and counts a non-zero write to its bits [63:2] (R10, R63, R339). That a write of frm is counted once for its RZ bits and once more
for a value of 6 or 7 is the model's choice (log entry 75). -/
def Claim.CsrWrites : Prop :=
  ∀ (s : State) (d a : Fin 32) (c : BitVec 12),
    let n := c.toNat
    let v := (s.ag s.cur).rs a
    s.CsrTakes (.csrw d a c) d n v
    ∧ (a ≠ 0 → s.CsrTakes (.csrs d a c) d n (s.csr s.cur n ||| v) ∧ s.CsrTakes (.csrc d a c) d n (s.csr s.cur n &&& ~~~v))

/-- What reading a control register gives and what writing one leaves (R10, R62, R63). -/
def Obligations.CsrResults : Prop := Claim.CsrReads ∧ Claim.CsrWrites

/-- PRIV outside a system segment, AGENT for the other kind of agent, each before any effect: a control register instruction reports the
register, the others their word (R33, R62, R63). -/
def Claim.PrivilegeTraps : Prop :=
  ∀ (s : State) (d a : Fin 32) (c : BitVec 12) (k : Fin 8) (n : Fin 16) (im : BitVec 13) (sc : Scope),
    let x := s.ag s.cur
    let sys := s.sysAt x.part x.wordAddr
    let bad (i : Instr) (cause sub : Nat) (v : Nat) : Prop := s.Ready i → s.Traps i { cause := cause, sub := sub, val := BitVec.ofNat 64 v }
    let word (i : Instr) : Nat := (encodeNat i).getD 0
    (csrPriv c.toNat = true → sys = false → bad (.csrr d c) 3 0 c.toNat ∧ bad (.csrw d a c) 3 0 c.toNat ∧ bad (.csrs d a c) 3 0 c.toNat
      ∧ bad (.csrc d a c) 3 0 c.toNat)
    ∧ (sys = false → bad .eret 3 0 (word .eret) ∧ bad .halt 3 0 (word .halt))
    ∧ (isPilot s.cur = true → csrHartOnly c.toNat = true → bad (.csrr d c) 5 1 c.toNat)
    ∧ (isPilot s.cur = false → csrPilotOnly c.toNat = true → bad (.csrr d c) 5 1 c.toNat)
    ∧ (isPilot s.cur = false → bad (.tzero k) 5 1 (word (.tzero k)) ∧ bad (.tdrop k) 5 1 (word (.tdrop k)))
    ∧ (isPilot s.cur = true → bad (.vsetl d a im) 5 1 (word (.vsetl d a im)) ∧ bad (.lease d a) 5 1 (word (.lease d a))
      ∧ bad (.vlsync sc) 5 1 (word (.vlsync sc)) ∧ bad (.brst n) 5 1 (word (.brst n)))

/-- Traps before any effect: a misaligned address (R55), a type the instruction does not take or a misplaced group (R108), an illegal type
operand (R76, R77), a word that the segment or the kind of agent does not admit (R33, R62). -/
def Obligations.InstructionTraps : Prop := Claim.MisalignedTraps ∧ Claim.VectorTypeTraps ∧ Claim.IllegalTypeTraps ∧ Claim.PrivilegeTraps

/-! ### System instructions and exceptions -/

/-- NOP and PREF do nothing; TRCM appends its record to the memory ring; SVC and BRK take their trap; ERET returns; HALT stops the agent
under a debugger, which gets its record, and otherwise posts a Report and saves the halted task (R65-R67, R338, R354, R356). -/
def Obligations.SystemResults : Prop :=
  ∀ (s : State) (h : Bool) (a : Fin 16) (o : BitVec 13) (r : Fin 32) (c : BitVec 12),
    let g := s.cur
    let x := s.ag g
    let sys := s.sysAt x.part x.wordAddr
    (s.Ready .nop → s.Idle .nop) ∧ (s.Ready (.pref h a o) → s.Idle (.pref h a o))
    ∧ (s.Ready (.trcm r c) → ∃ t, exec (.trcm r c) s = .next t ∧ s.OnlyAgent t ∧ x.Retired (t.ag g) s.after ∧ x.KeptAside (t.ag g)
        ∧ x.ScalarKept (t.ag g) ∧ x.AddressKept (t.ag g)
        ∧ (t.ag g).trace = { x.trace with
            mhead := (x.trace.mhead + 1) % 64
            memory := Assoc.set (x.trace.mhead % 64)
              ⟨x.rs r, BitVec.ofNat 64 (6 * 2 ^ 8 + c.toNat * 2 ^ 16 + (s.cycleOf g).toNat % 2 ^ 32 * 2 ^ 32)⟩ x.trace.memory })
    ∧ (x.inStrip = false → s.Ready .nop →
        s.Traps (.svc c) { cause := 0x33, val := c.setWidth 64, tepc := some s.after, suspends := true }
        ∧ s.Traps (.brk c) { cause := 0x30, val := c.setWidth 64, tepc := some x.regs.pc, suspends := true })
    ∧ (s.Ready .eret → sys = true → x.trap.inh = false → s.Jumps .eret x.trap.tepc 3 none)
    ∧ (s.Ready .eret → sys = true → x.trap.inh = true → x.strip.buf = [] → ∃ t, exec .eret s = .next t ∧ s.OnlyAgent t
        ∧ x.Goes (t.ag g) x.trap.tepc ∧ x.ScalarKept (t.ag g) ∧ x.AddressKept (t.ag g) ∧ x.RingIs (t.ag g) x.trap.tepc 3
        ∧ (t.ag g).trap = { x.trap with inh := false, wsup := x.trap.wsup && decide (x.trap.wsupc ≠ x.regs.pc) }
        ∧ (t.ag g).strip.susp = false ∧ (t.ag g).strip.isOpen = x.strip.isOpen ∧ (t.ag g).strip.vl = x.strip.vl
        ∧ (if x.strip.isOpen = true ∧ x.strip.susp = true ∧ x.trap.tepc ≠ x.strip.spc
            then (t.ag g).strip.spc = x.trap.tepc ∧ (t.ag g).strip.ckpt.s = x.regs.s ∧ (t.ag g).strip.ckpt.a = x.regs.a
            else (t.ag g).strip.spc = x.strip.spc ∧ (t.ag g).strip.ckpt = x.strip.ckpt))
    ∧ (s.Ready .halt → sys = true → x.inStrip = false → (s.ctx x.ctx).debugger = true → ∃ t r, exec .halt s = .next t ∧ s.OthersKept t
        ∧ (t.ctx x.ctx).records = (s.ctx x.ctx).records ++ [r] ∧ r.cause = 0x3A ∧ r.sub = 2 ∧ r.flags = 1 ∧ r.pc = x.regs.pc
        ∧ (t.ag g).status = .halted ∧ (t.ag g).regs = { x.regs with pc := s.after, pfx := [], instret := x.regs.instret + 1 }
        ∧ (t.ag g).trap.tepc = s.after ∧ (t.ag g).marks.reason = 0x3A)
    ∧ (s.Ready .halt → sys = true → x.inStrip = false → (s.ctx x.ctx).debugger = false → s.AllQuiet → s.copiesDone g = true →
        ∃ t y r, exec .halt s = .next t ∧ s.OthersKept t ∧ (t.ag g).status = .absent ∧ (t.task x.tkey).state = .halted
        ∧ (t.task x.tkey).saved = some y ∧ y.status = .halted ∧ y.regs = { x.regs with pc := s.after, pfx := [], instret := x.regs.instret + 1 }
        ∧ y.trap.tepc = s.after ∧ r.cause = 0x3A ∧ r.sub = 2 ∧ r.flags = 8 ∧ t.part x.part = (s.part x.part).postOrHold r 3)

/-- A local trap enters the agent's handler: the record goes to the agent's slot of the trap page, tepc, tcause, tval and trec are
written, INH is set and the PC goes to tvec. Within a strip a trap that does not suspend it restarts the strip first; one that does
leaves it suspended. With INH set, or tvec zero, the trap is fatal. So does each cause that R335 calls Local, and BRK and WATCH without
a debugger; with one those two halt the agent, and the record goes to the debugger (R335, R337, R340). -/
def Obligations.TrapEntry : Prop :=
  ∀ (s : State) (i : TrapInfo),
    let g := s.cur
    let x := s.ag g
    let u := s.takeTrap s.issue i
    let y := u.ag g
    let slot := s.recordSlot g
    let enters (tepc : Word) : Prop := y.status = x.status ∧ y.regs.pc = x.trap.tvec ∧ y.regs.pfx = [] ∧ y.trap.tepc = tepc
      ∧ y.trap.tcause = BitVec.ofNat 64 (i.sub * 2 ^ 8 + i.cause) ∧ y.trap.tval = i.val ∧ y.trap.trec = slot.setWidth 64 ∧ y.trap.inh = true
      ∧ y.trap.tvec = x.trap.tvec ∧ y.trap.ien = x.trap.ien ∧ (∀ j, j ≠ g → u.ag j = s.ag j) ∧ (∀ p, u.byte p = s.byte p)
    let dbg := (s.ctx x.ctx).debugger
    (debugCause i.cause = true → dbg = true → y.status = .halted ∧ y.regs = { x.regs with pfx := [] } ∧ y.trap.tepc = i.tepc.getD x.regs.pc
      ∧ y.trap.tval = i.val ∧ y.trap.inh = x.trap.inh ∧ y.strip.susp = (x.strip.susp || x.strip.isOpen) ∧ y.vec = x.vec
      ∧ (u.ctx x.ctx).records = (s.ctx x.ctx).records ++ [s.record s.issue i 1] ∧ (∀ j, j ≠ g → u.ag j = s.ag j) ∧ (∀ p, u.byte p = s.byte p))
    ∧ (localCause i.cause = true ∨ (debugCause i.cause = true ∧ dbg = false) →
    (∀ h, x.trap.inh = false → x.trap.tvec ≠ 0 → s.xlate (s.actor g) slot Acc.store = .ok h → h.mtype ≠ 2 →
        (s.tile (quayOf g)).watched = [] →
      (x.inStrip = false → x.strip.buf = [] → enters (i.tepc.getD x.regs.pc) ∧ x.ScalarKept y ∧ x.AddressKept y
        ∧ (∀ k < 64, u.seen g (h.place.plus k) = (s.record s.issue i 1).bytes.getD k 0)
        ∧ (∀ r : Place, r.space ≠ h.place.space ∨ r.addr < h.place.addr ∨ h.place.addr + 64 ≤ r.addr → u.seen g r = s.seen g r))
      ∧ (x.inStrip = true → i.suspends = false → enters x.strip.spc ∧ y.regs.s = x.strip.ckpt.s ∧ y.regs.a = x.strip.ckpt.a
        ∧ y.strip.buf = [] ∧ y.strip.isOpen = !x.strip.ckpt.shut ∧ y.strip.vl = x.strip.ckpt.vl)
      ∧ (x.inStrip = true → i.suspends = true → enters (i.tepc.getD x.regs.pc) ∧ x.ScalarKept y ∧ x.AddressKept y
        ∧ y.strip = { x.strip with susp := true, held := x.strip.mark, mark := .none }))
    ∧ (x.trap.inh = true ∨ x.trap.tvec = 0 → ∃ r, y.status = .fatal r ∧ r.cause = i.cause ∧ r.sub = i.sub ∧ r.value = i.val ∧ r.pc = x.regs.pc
        ∧ r.flags.testBit 2 = true ∧ r.flags.testBit 7 = x.trap.inh ∧ y.regs.pc = x.regs.pc ∧ x.ScalarKept y))

/-! ### Orders and memory control -/

/-- FENCE without a release, or at the scope of a hart, and VLSYNC at that scope, only go on (an acquire of a Pilot once its tile loads
have been read); the others perform the agent's stores (R217, R218). -/
def Obligations.OrderResults : Prop :=
  ∀ (s : State) (o : MOrd) (sc : Scope), (s.ag s.cur).inStrip = false → s.MemoryOk →
    (s.Ready (.fence o sc) → (ordRel o = false ∧ (isPilot s.cur = false ∨ o ≠ .acquire ∨ (s.tile (quayOf s.cur)).watched = []))
        ∨ (sc = .hart ∧ isPilot s.cur = false) → s.Idle (.fence o sc))
    ∧ (s.Ready (.fence o sc) → ordRel o = true → sc ≠ .hart → s.PlainQueue → s.Releases (.fence o sc))
    ∧ (s.Ready (.vlsync sc) → isPilot s.cur = false → if sc = .hart then s.Idle (.vlsync sc) else s.PlainQueue → s.Releases (.vlsync sc))

/-- BARV arrives at its level's barrier once the phase of the last arrival has passed, BARW goes on then; before that each stays. A
level that the issuer takes no part in traps AGENT LEVEL (R328, R329). -/
def Obligations.BarrierResults : Prop :=
  ∀ (s : State) (l : Fin 8),
    let g := s.cur
    let x := s.ag g
    let k := x.tkey
    let grp := s.groupOf k l.val
    let part_ (y : Level) : Prop := (s.task k).levels[l.val]? = some y ∧ (isPilot g = true → y.domain ≠ 0)
    s.Ready (.barv l) → x.inStrip = false →
    ((∀ y, ¬ part_ y) → s.Traps (.barv l) { cause := 5, sub := 3, val := BitVec.ofNat 64 l.val }
      ∧ s.Traps (.barw l) { cause := 5, sub := 3, val := BitVec.ofNat 64 l.val })
    ∧ ∀ y, part_ y →
      (grp.any (fun z => !z.2.passed k) = true → s.Stays (.barv l) ∧ s.Stays (.barw l))
      ∧ (grp.any (fun z => !z.2.passed k) = false → s.Idle (.barw l)
        ∧ (s.AllQuiet → s.link.relaxed = 0 → ∃ t, exec (.barv l) s = .next t ∧ s.OthersKept t ∧ x.Retired (t.ag g) s.after ∧ x.ScalarKept (t.ag g)
          ∧ x.AddressKept (t.ag g) ∧ (t.ag g).task = { x.task with phases := x.task.phases.set l (x.task.phases[l] + 1) }
          ∧ t.work = { s.work with groups := match grp with
              | some z => s.work.groups.modify z.1 (fun w => w.arrive k x.task.bartime.toNat)
              | none => s.work.groups }))

/-- SEAL enters its region of SEALABLE pages in the table of each home module of them and drops the translations of its pages, UNSEAL
removes it, FLUSH brings the agent's stores to a line to its home; the traps of their operands come with nothing changed (R189, R191,
R193). -/
def Obligations.SealResults : Prop :=
  ∀ (s : State) (d : Fin 32) (a : Fin 16) (o : BitVec 13) (pages : List Nat) (h : Hit),
    let g := s.cur
    let x := s.ag g
    let b := x.ra a
    let len := (x.rs d).toNat
    let mine (z : Seal) : Bool := decide (z.part = x.part ∧ z.base = b)
    let homes := (pages.map (fun p => p / 2 ^ 28)).dedup
    let line : Place := ⟨.fabric, h.place.addr / 64 * 64⟩
    let bad (i : Instr) (c sub : Nat) : Prop := s.Traps i { cause := c, sub := sub, val := b.setWidth 64, win := b.toNat / 2 ^ 64 }
    let goes (i : Instr) (t : State) : Prop := exec i s = .next t ∧ s.OthersKept t ∧ x.Retired (t.ag g) s.after ∧ x.KeptAside (t.ag g)
      ∧ x.ScalarKept (t.ag g) ∧ x.AddressKept (t.ag g)
    s.Ready (.flush a o) → x.inStrip = false →
    (s.Ready (.seal d a) → x.marks.clear = x.marks →
      (b.toNat % 2 ^ 16 ≠ 0 ∨ len % 2 ^ 16 ≠ 0 ∨ len = 0 → bad (.seal d a) 8 0)
      ∧ (b.toNat % 2 ^ 16 = 0 → len % 2 ^ 16 = 0 → len ≠ 0 → (b.toNat / 2 ^ 64 ≠ 0 → bad (.seal d a) 0x0A 9)
        ∧ (b.toNat / 2 ^ 64 = 0 → s.sealPages s.issue b (len / 2 ^ 16) = .ok pages →
          (pages.any (fun p => s.fw.seals.any (fun z => z.pages.contains p)) = true → bad (.seal d a) 0x0A 0x0B)
          ∧ (pages.any (fun p => s.fw.seals.any (fun z => z.pages.contains p)) = false →
            ((∃ m ∈ homes, 256 ≤ (s.fw.seals.filter (fun z => z.home = m)).length) → bad (.seal d a) 0x0A 0x0A)
            ∧ ((∀ m ∈ homes, (s.fw.seals.filter (fun z => z.home = m)).length < 256) →
              (∀ e ∈ s.agents, e.2.mem.queue = [] ∧ e.2.strip.buf = []) → ∃ t, goes (.seal d a) t
              ∧ t.fw = { s.fw with seals := s.fw.seals ++ homes.map (fun m => ⟨x.part, b, m, pages.filter (fun p => p / 2 ^ 28 = m)⟩) }
              ∧ t.tlb = (s.dropPages pages).tlb)))))
    ∧ (s.Ready (.unseal a) → if s.fw.seals.any mine then ∃ t, goes (.unseal a) t
        ∧ t.fw = { s.fw with seals := s.fw.seals.filter (fun z => !mine z) } else bad (.unseal a) 0x0A 0x0C)
    ∧ (s.xlate (s.actor g) (s.eaddr a o 64) Acc.load = .ok h →
      (h.place.space ≠ .host → x.mem.queue = [] → ∃ t, goes (.flush a o) t ∧ s.OnlyAgentAndCache t)
      ∧ (h.place.space = .fabric → h.mtype = 0 → s.MemoryOk → s.PlainQueue → (∀ k < 64, (line.plus k).Plain) → ∃ t, exec (.flush a o) s = .next t
        ∧ (∀ j, j ≠ g → t.ag j = s.ag j) ∧ x.Retired (t.ag g) s.after ∧ x.ScalarKept (t.ag g) ∧ x.AddressKept (t.ag g)
        ∧ (∀ k < 64, t.byte (line.plus k) = s.seen g (line.plus k)) ∧ (∀ p, t.seen g p = s.seen g p)))

/-! ### Words of the statements: tiles -/

namespace Sys2Proof.Machine

/-- The tile state of the current agent's Quay. -/
def State.tiles (s : State) : TileState := s.tile (quayOf s.cur)

/-- The instruction of the Pilot completes and changes nothing of its agent; what it does to its Quay is said apart. -/
def State.PilotGoes (s : State) (i : Instr) (t : State) : Prop :=
  exec i s = .next t ∧ s.OthersKept t ∧ (s.ag s.cur).Retired (t.ag s.cur) s.after ∧ (s.ag s.cur).KeptAside (t.ag s.cur)
  ∧ (t.ag s.cur).trace = (s.ag s.cur).trace ∧ (s.ag s.cur).ScalarKept (t.ag s.cur) ∧ (s.ag s.cur).AddressKept (t.ag s.cur)
  ∧ ∀ q, q ≠ quayOf s.cur → t.qy q = s.qy q

/-- The Pilot can append a version of a register: no transfer waits to be written, and there is room for one node and the segments. -/
def State.TileRoom (s : State) (i : Instr) (d : Fin 8) : Prop :=
  s.Ready i ∧ isPilot s.cur = true ∧ s.tiles.feeds = [] ∧ s.tiles.nodes.length + 1 ≤ 192
  ∧ s.tiles.segs + (s.tiles.shapeReg d).segs ≤ 192 ∧ (s.tiles.shapeReg d).legal = true

/-- A register has a value of the shape that its shape register holds. -/
def TileState.holds (t : TileState) (r : Fin 8) : Prop :=
  (t.shapeReg r).legal = true ∧ ∃ v, t.cur[r] = some v ∧ (t.ver v).shape = t.shapeReg r

/-- The instruction appends a node: the register's current version is a new one of the register's shape with nothing computed, which
names the operation, the PC, the rounding mode, the versions of its sources and the captured scalars; the other registers keep their
versions (R245, R246). -/
def State.TileAppends (s : State) (i : Instr) (d : Fin 8) (srcs : List (Fin 8)) (op : TileOp) (scalar : Word) (addr : Addr) (stride : Int) : Prop :=
  let T := s.tiles
  let sh := T.shapeReg d
  let mode := RMode.ofCode (s.ag s.cur).fp.frm.toNat
  ∃ t n, s.PilotGoes i t
    ∧ (t.tile (quayOf s.cur)).ver T.nextId = ⟨sh.ty, sh.rows, sh.cols,
        some ⟨n, T.nextId, op, (s.ag s.cur).regs.pc, if mode = .sr then .rne else mode, srcs.map (fun r => T.cur[r].getD 0), scalar, addr, stride⟩, 0, []⟩
    ∧ (t.tile (quayOf s.cur)).cur = T.cur.set d (some T.nextId)
    ∧ (∀ (r : Fin 8) (v : Nat), r ≠ d → T.cur[r] = some v → v ≠ T.nextId → (t.tile (quayOf s.cur)).ver v = T.ver v)
    ∧ (t.tile (quayOf s.cur)).tshp = T.tshp ∧ (t.tile (quayOf s.cur)).tflags = T.tflags
    ∧ (t.tile (quayOf s.cur)).nextId = T.nextId + 1 ∧ (t.tile (quayOf s.cur)).appended = T.appended + 1

/-- A register's version, and the rectangle of a scalar within its shape (R258). -/
def State.RectAt (s : State) (i : Instr) (d : Fin 8) (c : Fin 32) (v : Nat) : Prop :=
  s.Ready i ∧ isPilot s.cur = true ∧ s.tiles.feeds = [] ∧ s.tiles.cur[d] = some v ∧ (s.tiles.ver v).shape.legal = true
  ∧ (rectOf ((s.ag s.cur).rs c)).row0 + (rectOf ((s.ag s.cur).rs c)).rows ≤ (s.tiles.ver v).rows
  ∧ (rectOf ((s.ag s.cur).rs c)).col0 + (rectOf ((s.ag s.cur).rs c)).cols ≤ (s.tiles.ver v).cols

/-- One accumulate of R135: the exact product of two data added to an f32 pattern and rounded RNE; 0 × ∞ is invalid whatever the pattern
is. -/
def AddsProduct (acc : Nat) (p : Datum × Datum) (out : Nat × Flags) : Prop :=
  (p.1.invalidProduct p.2 → GivesNan 12 true out) ∧ (¬ p.1.invalidProduct p.2 → RoundsSum 12 .rne 0 (datum 12 acc) (p.1.times p.2) out)

/-- The accumulates of a list of products, in order, with their flags. -/
def Accumulates : Nat → List (Datum × Datum) → Nat × Flags → Prop
  | acc, [], out => out = (acc, 0)
  | acc, p :: ps, out => ∃ y z, AddsProduct acc p y ∧ Accumulates y.1 ps z ∧ out = (z.1, y.2 ||| z.2)

/-- TRED's sum (R135, R263): each further datum added with a rounding to the type, and the result rounded once more. -/
def ReducesSum (t : Nat) (mode : RMode) : Datum → List Datum → Nat × Flags → Prop
  | acc, [], out => RoundsDatum t mode 0 acc out
  | acc, x :: xs, out => ∃ y z, RoundsSum t mode 0 acc x y ∧ ReducesSum t mode (datum t y.1) xs z ∧ out = (z.1, y.2 ||| z.2)

/-- The greater or the lesser of two data, −0 below +0, a NaN ignored (R112). -/
def Datum.pick (greater : Bool) (x y : Datum) : Datum :=
  if x = .nan then y else if y = .nan then x else if (if greater then x.below y else y.below x) then y else x

/-- The number of an integer as a datum. -/
def Datum.ofInt (k : Int) : Datum := .num (decide (k < 0)) k.natAbs

/-- The types of a node's version and of its sources, in operand order (R247, R262, R39). -/
def TileOp.Typed (op : TileOp) (t : Nat) (srcs : List Nat) : Prop :=
  let fl (x : Nat) : Prop := 8 ≤ x ∧ x ≤ 12
  match op with
  | .tld | .tzero => srcs = []
  | .tmma => t = 12 ∧ ∃ a b, srcs = [12, a, b] ∧ fl a ∧ fl b
  | .tqmma _ => t = 12 ∧ ∃ a b, srcs = [12, a, b, 16, 16]
  | .tew _ => fl t ∧ ∃ a b, srcs = [a, b] ∧ fl a ∧ fl b
  | .tact _ | .tred _ _ => fl t ∧ ∃ a, srcs = [a] ∧ fl a
  | .tview => srcs = [t]
  | .tmmas => t = 12 ∧ ∃ a b, srcs = [12, a, b, 4] ∧ fl a ∧ fl b

/-- The value of element (i, j) of a node's version and the flags it raises, by the table of R263 with R135, R40 and R262; `mem` is what
a TLD reads. TACT exp2 is stated for its specials and where the result is a power of two (elsewhere log entry 7); an integer sum of zero
in TQMMA is +0 (log entry 84). -/
def NodeValue (T : TileState) (mem : Nat → Nat → Nat) (V : Version) (n : Node) (i j : Nat) (out : Nat × Flags) : Prop :=
  let src (k : Nat) : Version := T.ver (n.srcs.getD k 0)
  let x (k r c : Nat) : Datum := datum (src k).ty ((src k).get r c)
  let t := V.ty
  let line : List Datum := match n.op with
    | .tred _ true => (List.range (src 0).rows).map (fun r => x 0 r j)
    | _ => (List.range (src 0).cols).map (x 0 i)
  let ordinary (d : Datum) : Prop := RoundsDatum t n.mode 0 d out
  match n.op with
  | .tzero => out = (0, 0)
  | .tld => out.2 = 0 ∧ (∀ y, V.present i j = some y → out.1 = y) ∧ (V.present i j = none → out.1 = mem i j)
  | .tmma => Accumulates ((src 0).get i j) ((List.range (src 1).cols).map (fun k => (x 1 i k, x 2 k j))) out
  | .tmmas =>
    let meta_ (g : Nat) : Nat := (src 3).get i g
    let bad (g : Nat) : Prop := meta_ g / 16 ≠ 0 ∨ meta_ g / 4 % 4 ≤ meta_ g % 4
    let gs := List.range ((src 2).rows / 4)
    ∃ y, Accumulates ((src 0).get i j) (gs.flatMap (fun g => if bad g then [] else
        [(x 1 i (2 * g), x 2 (4 * g + meta_ g % 4) j), (x 1 i (2 * g + 1), x 2 (4 * g + meta_ g / 4 % 4) j)])) y
      ∧ out = (canonOf 12 y.1, y.2 ||| (if ∃ g ∈ gs, bad g then 1 else 0))
  | .tqmma G =>
    let qa (g : Nat) : Nat := (src 3).get i g
    let qb (g : Nat) : Nat := (src 4).get g j
    let isum (g : Nat) : Int := ((List.range G).map (fun k => (((src 1).get i (G * g + k) : Int) - (qa g / 2 ^ 16 % 2 ^ 8 : Nat))
      * (((src 2).get (G * g + k) j : Int) - (qb g / 2 ^ 16 % 2 ^ 8 : Nat)))).sum
    let sa (g : Nat) : Datum := datum 10 (qa g % 2 ^ 16)
    let sb (g : Nat) : Datum := datum 10 (qb g % 2 ^ 16)
    let gs := List.range ((src 1).cols / G)
    ∃ (y : Nat × Flags) (e : Flags), Accumulates ((src 0).get i j) (gs.map (fun g => ((sa g).times (sb g), Datum.ofInt (isum g)))) y
      ∧ ((∃ g ∈ gs, (sa g).invalidProduct (sb g)) → e = 1) ∧ ((∀ g ∈ gs, ¬ (sa g).invalidProduct (sb g)) → e = 0) ∧ out = (y.1, y.2 ||| e)
  | .tew 0 => RoundsSum t n.mode 0 (x 0 i j) (x 1 i j) out
  | .tew 1 => RoundsSum t n.mode 0 (x 0 i j) (x 1 i j).opp out
  | .tew 2 => RoundsProduct t n.mode 0 (x 0 i j) (x 1 i j) out
  | .tew 3 => ordinary (Datum.pick true (x 0 i j) (x 1 i j))
  | .tew 4 => ordinary (Datum.pick false (x 0 i j) (x 1 i j))
  | .tew _ => True
  | .tact 0 => match x 0 i j with
    | .nan => GivesNan t false out
    | .inf true => RoundsRat t n.mode 0 false 0 out
    | .inf false => RoundsInf t false 0 out
    | .num s a => ∀ k : Int, (Datum.num s a).val = k → RoundsRat t n.mode 0 false (2 ^ k) out
  | .tact 1 => match x 0 i j with
    | .nan => GivesNan t false out
    | d => ordinary (if Datum.less (.num false 0) d then d else .num false 0)
  | .tact 2 => ordinary (x 0 i j).opp
  | .tact 3 => RoundsProduct t n.mode 0 (x 0 i j) (datum 12 (n.scalar.toNat % 2 ^ 32)) out
  | .tact 4 => match x 0 i j with
    | .nan => GivesNan t false out
    | .inf s => RoundsRat t n.mode 0 s 0 out
    | .num s a => if a = 0 then RoundsInf t s 16 out else RoundsRat t n.mode 0 s (1 / (Datum.num s a).val) out
  | .tact _ => True
  | .tred 0 _ => match line with
    | [] => True
    | d :: ds => ReducesSum t n.mode d ds out
  | .tred 1 _ => ordinary (line.foldl (Datum.pick true) .nan)
  | .tred 2 _ => ordinary (line.foldl (Datum.pick false) .nan)
  | .tred _ _ => True
  | .tview =>
    let m := n.scalar.toNat
    let co (k : Nat) : Int := if m / 2 ^ k % 4 = 1 then 1 else if m / 2 ^ k % 4 = 3 then -1 else 0
    let off (k : Nat) : Int := sext 8 (m / 2 ^ k % 2 ^ 8)
    out = ((src 0).get (co 0 * i + co 2 * j + off 8).toNat (co 4 * i + co 6 * j + off 16).toNat, 0)

end Sys2Proof.Machine

/-! ### Tiles (R38-R41, R243-R268) -/

/-- Each instruction of TILE-MATH, TLD, TZERO and TMMAS appends its node when the shapes, values, types and dimensions of its registers pass
(R247, R255, R259, R261, R262, R39). -/
def Obligations.TileAppendResults : Prop :=
  ∀ (s : State) (d a b p q m : Fin 8) (g : BitVec 2) (o : BitVec 3) (o2 : BitVec 2) (col : Bool) (base : Fin 16) (c : Fin 32),
    let T := s.tiles
    let x := s.ag s.cur
    let S (r : Fin 8) : Shape := T.shapeReg r
    let w := max 1 (tileBits (S d).ty / 8)
    let gs := if g = 1 then 32 else if g = 2 then 64 else 128
    let fl (r : Fin 8) : Prop := 8 ≤ (S r).ty ∧ (S r).ty ≤ 12
    let same (r t : Fin 8) : Prop := (S r).rows = (S t).rows ∧ (S r).cols = (S t).cols
    let image (i j : Int) : Prop := let z := viewImage (x.rs c) i j; 0 ≤ z.1 ∧ z.1 < (S a).rows ∧ 0 ≤ z.2 ∧ z.2 < (S a).cols
    (s.TileRoom (.tld d base c) d → T.watched.length < 64 → (x.ra base).toNat % w = 0 → (x.rs c).toInt % (w : Int) = 0 →
      s.TileAppends (.tld d base c) d [] .tld 0 (x.ra base) (x.rs c).toInt)
    ∧ (s.TileRoom (.tzero d) d → s.TileAppends (.tzero d) d [] .tzero 0 0 0)
    ∧ (s.TileRoom (.tmma d a b) d → T.holds d → T.holds a → T.holds b → (S d).ty = 12 → fl a → fl b →
        ((S a).ty = (S b).ty ∨ ((S a).ty < 10 ∧ (S b).ty < 10)) → (S d).rows = (S a).rows → (S d).cols = (S b).cols → (S b).rows = (S a).cols →
      s.TileAppends (.tmma d a b) d [d, a, b] .tmma 0 0 0)
    ∧ (s.TileRoom (.tqmma d a b g q p) d → T.holds d → T.holds a → T.holds b → T.holds p → T.holds q → (S d).ty = 12 →
        ((S a).ty = 14 ∨ (S a).ty = 15) → ((S b).ty = 14 ∨ (S b).ty = 15) → (S p).ty = 16 → (S q).ty = 16 →
        (S d).rows = (S a).rows → (S d).cols = (S b).cols → (S b).rows = (S a).cols → (S a).cols % gs = 0 →
        (S p).rows = (S a).rows → (S p).cols = (S a).cols / gs → (S q).rows = (S a).cols / gs → (S q).cols = (S b).cols →
      s.TileAppends (.tqmma d a b g q p) d [d, a, b, p, q] (.tqmma gs) 0 0 0)
    ∧ (s.TileRoom (.tew d a b o) d → T.holds a → T.holds b → fl d → fl a → fl b → same d a → same b a →
      s.TileAppends (.tew d a b o) d [a, b] (.tew o.toNat) 0 0 0)
    ∧ (s.TileRoom (.tact d a c o) d → T.holds a → fl d → fl a → same d a →
      s.TileAppends (.tact d a c o) d [a] (.tact o.toNat) (x.rs c) 0 0)
    ∧ (s.TileRoom (.tred d a o2 col) d → T.holds a → fl d → fl a →
        (S d).rows = (if col then 1 else (S a).rows) → (S d).cols = (if col then (S a).cols else 1) →
      s.TileAppends (.tred d a o2 col) d [a] (.tred o2.toNat col) 0 0 0)
    ∧ (s.TileRoom (.tview d a c) d → T.holds a → (S d).ty = (S a).ty →
        (∀ k ∈ [0, 2, 4, 6], (x.rs c).toNat / 2 ^ k % 4 ≠ 2) → image 0 0 → image 0 ((S d).cols - 1) → image ((S d).rows - 1) 0 →
        image ((S d).rows - 1) ((S d).cols - 1) →
      s.TileAppends (.tview d a c) d [a] .tview (x.rs c) 0 0)
    ∧ (s.TileRoom (.tmmas d a b m) d → T.holds d → T.holds a → T.holds b → T.holds m → (S d).ty = 12 →
        ((S a).ty = 10 ∨ (S a).ty = 11) → (S b).ty = (S a).ty → (S m).ty = 4 → (S d).rows = (S a).rows → (S m).rows = (S a).rows →
        (S d).cols = (S b).cols → (S b).rows % 4 = 0 → 2 * (S a).cols = (S b).rows → 4 * (S m).cols = (S b).rows →
      s.TileAppends (.tmmas d a b m) d [d, a, b, m] .tmmas 0 0 0)

/-- TFORCE computes the units of its rectangle that are not computed, each element as its node says (R263, R135, R40) from the versions
of its sources, here ones that are computed already; the flags go to tflags and BLOCKS counts the units; the other elements stand, and a
version computed whole loses its node (R246, R249-R251, R263). What a TLD reads is the memory at the element's address, the nibble of
its byte for q4 (R255). -/
def Obligations.TileForceResults : Prop :=
  ∀ (s : State) (d : Fin 8) (c : Fin 32) (v : Nat) (n : Node) (mem : Nat → Nat → Nat),
    let T := s.tiles
    let q := quayOf s.cur
    let V := T.ver v
    let b := tileBits V.ty
    let r := rectOf ((s.ag s.cur).rs c)
    let todo (i j : Nat) : Prop := (∃ k < r.col0 + r.cols, r.col0 ≤ k ∧ j / 16 = k / 16) ∧ r.row0 ≤ i ∧ i < r.row0 + r.rows
      ∧ V.computed.testBit (8 * i + j / 16) = false
    s.RectAt (.tforce d c) d c v → s.NoErrors → V.node = some n → n.mode ≠ .sr → n.op.Typed V.ty (n.srcs.map (fun x => (T.ver x).ty)) →
    (∀ x ∈ n.srcs, (T.ver x).node = none ∧ ∀ i j, (T.ver x).get i j < 2 ^ tileBits (T.ver x).ty) →
    (n.op = .tld → ∀ i j, i < V.rows → j < V.cols → todo i j → V.present i j = none →
      ∃ h, s.xlate (s.tileActor q) (n.addr + BitVec.ofInt 72 ((i : Int) * n.stride + (j * b / 8 : Nat))) Acc.vload = .ok h
        ∧ s.heldAt h.place = false ∧ s.badRead h.place (max 1 (b / 8)) = none
        ∧ mem i j = (let y := leNat ((List.range (max 1 (b / 8))).map (fun k => s.seen s.cur (h.place.plus k)))
            if b = 4 then (if j % 2 = 1 then y / 16 else y % 16) else y)) →
    ∃ (t : State) (F : Nat → Nat → Nat × Flags), s.PilotGoes (.tforce d c) t ∧ (t.tile q).cur = T.cur
      ∧ (∀ i j, i < V.rows → j < V.cols → (todo i j → NodeValue T mem V n i j (F i j) ∧ ((t.tile q).ver v).get i j = (F i j).1)
          ∧ (¬ todo i j → ((t.tile q).ver v).get i j = V.get i j))
      ∧ (t.tile q).tflags = (List.range V.rows).foldl (fun fl i => (List.range V.cols).foldl (fun fl j => if todo i j then fl ||| (F i j).2 else fl) fl) T.tflags
      ∧ (t.tile q).blocks = T.blocks
        + BitVec.ofNat 64 ((List.range V.rows).map (fun i => ((List.range 8).filter (fun k => decide (16 * k < V.cols ∧ todo i (16 * k)))).length)).sum
      ∧ ((∃ i j, i < V.rows ∧ j < V.cols ∧ todo i j) →
          (∀ i j, i < V.rows → j < V.cols → todo i j ∨ V.computed.testBit (8 * i + j / 16) = true) →
          ((t.tile q).ver v).node = none)

/-- TFORCE.A accepts a force of its rectangle, TDROP takes the register's value away and TST stores the elements of its rectangle, here
of a version that is computed, in ascending row and column, nibbles each into its byte as it stands (at once, which is log entry 86);
without a value each traps NOVALUE, and a rectangle outside the shape traps BOUNDS (R251, R258-R260). -/
def Claim.TileRegisterResults : Prop :=
  ∀ (s : State) (d : Fin 8) (c k : Fin 32) (a : Fin 16) (v : Nat) (hs : List Hit) (s1 : State),
    let T := s.tiles
    let q := quayOf s.cur
    let x := s.ag s.cur
    let r := rectOf (x.rs c)
    let bad (i : Instr) (sub : Nat) : Prop := s.Ready i → isPilot s.cur = true → s.Traps i { cause := 0x13, sub := sub, val := BitVec.ofNat 64 d.val }
    let ty := (T.ver v).ty
    let w := max 1 (tileBits ty / 8)
    let els := r.elems
    let addr (e : Nat × Nat) : Addr := (tileAddr (x.ra a) (x.rs k).toInt (tileBits ty) e.1 e.2).1
    let at_ := els.zip hs
    let bytes (e : Nat × Nat) : List Byte := (List.range (tileBits ty / 8)).map (byteOf ((T.ver v).get e.1 e.2))
    let nibble (p : Place) (b : Nat) (z : (Nat × Nat) × Hit) : Nat := if z.2.place ≠ p then b
      else if z.1.2 % 2 = 1 then b % 16 + (T.ver v).get z.1.1 z.1.2 % 16 * 16 else b / 16 * 16 + (T.ver v).get z.1.1 z.1.2 % 16
    (T.cur[d] = none → bad (.tforce d c) 2 ∧ bad (.tforceA d c) 2 ∧ bad (.tdrop d) 2 ∧ bad (.tst d a k c) 2)
    ∧ (T.cur[d] = some v → T.feeds = [] → (T.ver v).rows < r.row0 + r.rows ∨ (T.ver v).cols < r.col0 + r.cols →
        bad (.tforce d c) 6 ∧ bad (.tforceA d c) 6 ∧ bad (.tst d a k c) 6)
    ∧ (s.Ready (.tdrop d) → isPilot s.cur = true → T.cur[d] = some v → ∃ t, s.PilotGoes (.tdrop d) t ∧ (t.tile q).cur = T.cur.set d none
        ∧ ∀ (j : Fin 8) (y : Nat), j ≠ d → T.cur[j] = some y → (t.tile q).ver y = T.ver y)
    ∧ (s.RectAt (.tforceA d c) d c v → ∃ t, exec (.tforceA d c) s = .next t ∧ s.OthersKept t ∧ x.Retired (t.ag s.cur) s.after
        ∧ x.ScalarKept (t.ag s.cur) ∧ x.AddressKept (t.ag s.cur) ∧ (t.ag s.cur).mem = { x.mem with nextTile := x.mem.nextTile + 1 }
        ∧ t.tile q = { T with asyncs := T.asyncs ++ [⟨s.cur, x.mem.nextTile, v, (T.ver v).shape.rect r.row0 r.rows r.col0 r.cols, none, none⟩] })
    ∧ (s.RectAt (.tst d a k c) d c v → (T.ver v).node = none → T.watched = [] → T.reads = [] → x.strip.buf = [] → (x.ra a).toNat % w = 0 →
        (x.rs k).toInt % (w : Int) = 0 → checkEach s.issue w (els.map addr) ((s.begin_ s.issue).setTile q T) = .ok (hs, s1) →
      (tileBits ty ≠ 4 → (∀ h ∈ hs, h.mtype ≠ 2) → ∃ t, exec (.tst d a k c) s = .next t ∧ s.OthersKept t ∧ x.Retired (t.ag s.cur) s.after
          ∧ x.ScalarKept (t.ag s.cur) ∧ x.AddressKept (t.ag s.cur) ∧ t.tile q = T ∧ (t.ag s.cur).mem.nextOp = x.mem.nextOp + 1
          ∧ ∀ p, t.seen s.cur p = (lastByte p (at_.flatMap (fun z => placeBytes z.2.place (bytes z.1)))).getD (s.seen s.cur p))
      ∧ (tileBits ty = 4 → s.MemoryOk → x.mem.queue = [] → x.mem.wc = [] → (∀ h ∈ hs, h.mtype ≠ 2 ∧ h.place.Plain) →
        ∃ t, exec (.tst d a k c) s = .next t ∧ (∀ j, j ≠ s.cur → t.ag j = s.ag j) ∧ x.Retired (t.ag s.cur) s.after ∧ x.ScalarKept (t.ag s.cur)
          ∧ x.AddressKept (t.ag s.cur) ∧ t.tile q = T ∧ (t.ag s.cur).mem = x.mem
          ∧ ∀ p, t.byte p = BitVec.ofNat 8 (at_.foldl (nibble p) (s.byte p).toNat)))

/-- TFEED accepts a row for its register, which a first row creates with zeros; TDRAIN gives the row's elements to its vector register,
here of a version that is computed; TSTAT reads the counters and the number of units not computed, by selectors 0 to 7 (R265-R267). -/
def Claim.TileTransferResults : Prop :=
  ∀ (s : State) (d : Fin 8) (c : Fin 32) (v : Fin 48) (l : BitVec 4) (y : Nat),
    let T := s.tiles
    let q := quayOf s.cur
    let x := s.ag s.cur
    let e := s.env
    let row := (x.rs c).toNat
    let sh := if T.cur[d] = none then T.shapeReg d else (T.ver y).shape
    let vals := (List.range e.vl).map (fun i => s.el v e.w i)
    let fits : Prop := tyINF e.ty = true ∧ v.val % e.g = 0 ∧ e.ty = sh.ty ∧ row < sh.rows ∧ e.vl ≤ sh.cols
    let fed (new : Nat) : Prop := ∃ t, exec (.tfeed d c v) s = .next t ∧ s.CutCompleted t ∧ (∀ p, t.byte p = s.byte p)
      ∧ (t.tile q).feeds = T.feeds ++ [⟨s.cur, x.mem.nextTile, new, row, vals⟩] ∧ (t.tile q).cur = T.cur.set d (some new)
      ∧ (t.tile q).ver new = (if T.cur[d] = none then ⟨sh.ty, sh.rows, sh.cols, none, 0, []⟩ else T.ver new)
      ∧ (t.ag s.cur).mem = { x.mem with nextTile := x.mem.nextTile + 1 }
    (s.VecCalm (.tfeed d c v) → s.CutReady → fits → T.cur[d] = none → sh.legal = true → T.nodes.length ≤ 192 → T.segs + sh.segs ≤ 192 →
        fed T.nextId)
    ∧ (s.VecCalm (.tfeed d c v) → s.CutReady → fits → T.cur[d] = some y → (T.ver y).node = none → (∀ p ∈ T.nodes, y ∉ p.2.srcs) → fed y)
    ∧ (s.VecCalm (.tdrain d c v) → fits → T.cur[d] = some y → (T.ver y).node = none → T.feeds = [] → T.reads = [] →
        ∃ t, exec (.tdrain d c v) s = .next t ∧ s.OthersKept t ∧ x.Retired (t.ag s.cur) s.after ∧ x.KeptByVector (t.ag s.cur)
          ∧ (t.ag s.cur).fp = x.fp ∧ t.tile q = T
          ∧ x.ElementsAre (t.ag s.cur) v e.g e.w ((List.range e.vl).map (fun j => (j, (T.ver y).get row j))))
    ∧ (s.Ready (.tstat d c l) → l.toNat < 8 →
        (l ≠ 6 → s.Scalar (.tstat d c l) c (if l = 0 then BitVec.ofNat 64 T.nodes.length else if l = 1 then BitVec.ofNat 64 T.segs
          else if l = 2 then BitVec.ofNat 64 T.watched.length else if l = 3 then T.appended else if l = 4 then T.ovforce
          else if l = 5 then T.blocks else T.wforce))
        ∧ (l = 6 → T.cur[d] = none → s.Traps (.tstat d c l) { cause := 0x13, sub := 2, val := BitVec.ofNat 64 d.val })
        ∧ (l = 6 → T.cur[d] = some y → s.Scalar (.tstat d c l) c (BitVec.ofNat 64 (if (T.ver y).node = none then 0
            else ((unitsOf (T.ver y).shape.units).filter (fun u => !(T.ver y).computed.testBit u)).length))))

/-- What TFORCE.A, TDROP, TST, TFEED, TDRAIN and TSTAT do (R251, R258-R260, R265-R267). -/
def Obligations.TileRegisterResults : Prop := Claim.TileRegisterResults ∧ Claim.TileTransferResults

/-! ### Words of the statements: walkers -/

namespace Sys2Proof.Machine

/-- The walkers of the current agent's Quay. -/
def State.walks (s : State) (q : Nat) : Walkers := (s.qy q).walk

/-- What a slot holds. -/
def Walkers.at (k : Walkers) (n : Nat) : Option Walker := k.slots.toList.getD n none

/-- The status word of R281: LAST, ERR, BOUND, EOSOK, DONE, the depth, the checkpoints, the tokens. -/
def statusWord (w : Walker) (last : Nat) (e : Bool) : Word :=
  BitVec.ofNat 64 (last + w.err * 2 ^ 4 + 2 ^ 6 + (if e then 2 ^ 7 else 0) + (if w.done then 2 ^ 8 else 0) + w.stack.length * 2 ^ 9
    + w.ckpts.length * 2 ^ 20 + w.tokens % 2 ^ 32 * 2 ^ 32)

/-- A walker instruction outside a strip completes with a result code: slot `n` holds `w`, LAST of `n` is the code; the other slots, the
walker registers and the other agents are kept; `d` is the scalar register written, if any. The code asks for no trap (R281, R282). -/
def State.WalkGoes (s : State) (i : Instr) (n code : Nat) (w : Option Walker) (d : Option (Fin 32 × Word)) : Prop :=
  let q := quayOf s.cur
  code < 2 ∨ (s.walks q).gtrap.getLsbD n = false →
  ∃ t, exec i s = .next t ∧ (∀ g, g ≠ s.cur → t.ag g = s.ag g) ∧ (s.ag s.cur).Retired (t.ag s.cur) s.after ∧ (s.ag s.cur).AddressKept (t.ag s.cur)
    ∧ (match d with
      | some x => (s.ag s.cur).ScalarIs (t.ag s.cur) x.1 x.2
      | none => (s.ag s.cur).ScalarKept (t.ag s.cur))
    ∧ (t.walks q).slots = setIx (s.walks q).slots n w ∧ (t.walks q).last = setIx (s.walks q).last n code
    ∧ (t.walks q).gtrap = (s.walks q).gtrap ∧ (t.walks q).gspill = (s.walks q).gspill

/-- The same where the slot's trap bit asks for a trap: its effects stand and GRAMMAR follows it, with the resume point past it (R282). -/
def State.WalkTraps (s : State) (i : Instr) (n code : Nat) : Prop :=
  let q := quayOf s.cur
  (s.walks q).gtrap.getLsbD n = true → ∃ u : State, (u.walks q).last = setIx (s.walks q).last n code ∧ (u.walks q).slots = (s.walks q).slots
    ∧ (s.ag s.cur).Retired (u.ag s.cur) s.after
    ∧ exec i s = .next (u.takeTrap s.issue { cause := 0x18, sub := code, val := BitVec.ofNat 64 n, detail := n, tepc := some s.after })

/-- Reads of two bytes of a spill area pass, in the state in which an instruction begins and after one another, and change nothing but the
cached translations. -/
def State.SpillReadable (s : State) (as : List Addr) : Prop :=
  ∃ C : State → Prop, C (s.begin_ s.issue) ∧ (∀ u, C u → u = { s.begin_ s.issue with tlb := u.tlb })
    ∧ ∀ u, C u → ∀ a ∈ as, ∃ v, spillRead s.issue a u = .ok ((), v) ∧ C v

/-- A little-endian field of an image, whose bytes are `f`. -/
def fieldOf (f : Nat → Nat) (o n : Nat) : Nat := ((List.range n).map (fun k => f (o + k) * 256 ^ k)).sum

/-- In the states `C` a walker's reads of an image pass and find the bytes `f`, and so do its reads of a spill area; they lead to states
of `C`. -/
structure ImageReads (is : Issue) (C : State → Prop) (w : Walker) (len : Nat) (f : Nat → Nat) : Prop where
  bytes : ∀ o, f o < 256
  image : ∀ u, C u → ∀ o n, n = 1 ∨ n = 8 ∧ o % 8 = 0 → o + n ≤ len →
    ∃ v, gload is (w.image + BitVec.ofNat 72 o) n u = .ok (fieldOf f o n, v) ∧ C v
  spill : ∀ u, C u → ∀ k < w.stack.length + 255, ∃ v, spillRead is (spillSym w.spill k) u = .ok ((), v) ∧ C v

/-- The sections of an image lie within it as R271 says. -/
def GrammarHdr.Laid (h : GrammarHdr) (len : Nat) : Prop :=
  320 ≤ h.size ∧ h.size ≤ len ∧ h.oState % 8 = 0 ∧ h.oState + 16 * h.nstate ≤ h.size ∧ h.oTrans % 8 = 0 ∧ h.oTrans + 8 * h.ntrans ≤ h.size
  ∧ h.oTok % 8 = 0 ∧ h.oTok + 8 * h.ntok ≤ h.size

/-- A state entry within its limits (R272). -/
def stateFits (h : GrammarHdr) (f : Nat → Nat) (st : Nat) : Bool :=
  let o := h.oState + 16 * st
  let fl := fieldOf f (o + 6) 2
  decide (fieldOf f o 4 + fieldOf f (o + 4) 2 ≤ h.ntrans ∧ fl < 4 ∧ fieldOf f (o + 14) 2 = 0
    ∧ if fl < 2 then fieldOf f (o + 8) 4 = 0 else fieldOf f (o + 8) 4 % 8 = 0)

/-- A transition within its limits (R273). -/
def transFits (h : GrammarHdr) (f : Nat → Nat) (x : Nat) : Bool :=
  let o := h.oTrans + 8 * x
  let sym := fieldOf f (o + 2) 2
  decide (f o < h.nclass ∧ fieldOf f (o + 4) 4 < h.nstate
    ∧ (f (o + 1) = 0 ∧ sym = 0 ∨ f (o + 1) = 1 ∧ sym < h.nsym ∨ f (o + 1) = 2 ∧ (sym < h.nsym ∨ sym = 0xFFFF)))

/-- A token entry within its limits (R274). -/
def tokFits (h : GrammarHdr) (f : Nat → Nat) (t : Nat) : Bool :=
  let o := h.oTok + 8 * t
  let len := fieldOf f (o + 4) 2
  let fl := fieldOf f (o + 6) 2
  decide (len ≤ 255 ∧ fl ≤ 1 ∧ (fl = 1 → len = 0) ∧ h.oBytes + fieldOf f o 4 + len ≤ h.size)

/-- Whether a transition takes a class under a stack: a pop needs a top that its symbol names, or 0xFFFF for any (R286). -/
def transTakes (h : GrammarHdr) (f : Nat → Nat) (cls : Nat) (stk : List Nat) (x : Nat) : Bool :=
  let o := h.oTrans + 8 * x
  let sym := fieldOf f (o + 2) 2
  decide (f o = cls) && (decide (f (o + 1) ≠ 2) || match stk with | [] => false | top :: _ => decide (sym = top ∨ sym = 0xFFFF))

/-- The first transition of a state, in ascending index, that takes a class: result 1 where there is none, 3 where a malformed one is met
first (R277, R286). -/
def firstTrans (h : GrammarHdr) (f : Nat → Nat) (st cls : Nat) (stk : List Nat) : Except Nat Nat :=
  let o := h.oState + 16 * st
  match ((List.range (fieldOf f (o + 4) 2)).map (fun k => fieldOf f o 4 + k)).find? (fun x => !transFits h f x || transTakes h f cls stk x) with
  | none => .error 1
  | some x => if transFits h f x then .ok x else .error 3

/-- R286's walk over the bytes of a token: the state, the stack and the log entries of its pushes and pops, or the result that ends it. -/
def walkBytes (h : GrammarHdr) (f : Nat → Nat) : List Nat → Nat → List Nat → List Nat → Except Nat (Nat × List Nat × List Nat)
  | [], st, stk, es => .ok (st, stk, es)
  | b :: bs, st, stk, es =>
    if h.nclass ≤ f (64 + b) ∨ stateFits h f st = false then .error 3
    else match firstTrans h f st (f (64 + b)) stk with
    | .error e => .error e
    | .ok x =>
      let o := h.oTrans + 8 * x
      let next := fieldOf f (o + 4) 4
      if f (o + 1) = 1 then (if stk.length = 1024 then .error 2 else walkBytes h f bs next (fieldOf f (o + 2) 2 :: stk) (es ++ [0xFFFF]))
      else if f (o + 1) = 2 then walkBytes h f bs next stk.tail (es ++ [stk.headD 0])
      else walkBytes h f bs next stk es

/-- EOSOK of a slot; none where the entry of its state is malformed (R269, R277). -/
def eosOf (h : GrammarHdr) (f : Nat → Nat) (w : Walker) : Option Bool :=
  if w.err ≠ 0 ∨ w.done = true ∨ w.stack ≠ [] then some false
  else if stateFits h f w.st then some (decide (fieldOf f (h.oState + 16 * w.st + 6) 2 % 2 = 1)) else none

/-- Step of R286: the result and the slot after it. -/
def stepOf (h : GrammarHdr) (f : Nat → Nat) (w : Walker) (t : Nat) : Nat × Walker :=
  let o := h.oTok + 8 * t
  let len := fieldOf f (o + 4) 2
  let bad : Nat × Walker := (3, { w with err := 2 })
  if w.done = true ∨ h.ntok ≤ t then (1, w)
  else if tokFits h f t = false then bad
  else if fieldOf f (o + 6) 2 = 1 then
    match eosOf h f w with
    | none => bad
    | some true => (0, { w with done := true, tokens := (w.tokens + 1) % 2 ^ 32 })
    | some false => (1, w)
  else if len = 0 then (1, w)
  else match walkBytes h f ((List.range len).map (fun k => f (h.oBytes + fieldOf f o 4 + k))) w.st w.stack [] with
  | .error 2 => (2, { w with err := 1 })
  | .error 3 => bad
  | .error _ => (1, w)
  | .ok (st, stk, es) => (0, { (w.logStep es).1 with st := st, stack := stk, tokens := (w.tokens + 1) % 2 ^ 32 })

/-- The bytes that checked granules of 8 bytes take. -/
def granuleBytes (hs : List Hit) (bs : List Byte) : List (Place × Byte) :=
  hs.zipIdx.flatMap (fun h => placeBytes h.1.place ((bs.drop (8 * h.2)).take 8))

end Sys2Proof.Machine

/-! ### Grammar walkers (R269-R296) -/

/-- Slot numbers above 15 trap SLOTNUM; an unbound slot answers UNBOUND, with a GRAMMAR trap where the slot's trap bit asks for it
(R282, R284). -/
def Claim.WalkerSlotResults : Prop :=
  ∀ (s : State) (d a b : Fin 32) (e : Fin 16) (f : Bool) (sel : BitVec 2),
    let x := s.ag s.cur
    let n := (x.rs a).toNat
    let all (P : Instr → Prop) : Prop := P (.gstep d a b) ∧ P (.gmask e a f) ∧ P (.gckpt a) ∧ P (.groll a b) ∧ P (.gsave e a b)
    s.Ready (.gckpt a) → x.inStrip = false →
    (15 < n → let bad (i : Instr) : Prop := s.Traps i { cause := 0x18, sub := 7, val := x.rs a, detail := n % 256 }
      all bad ∧ bad (.gbind e a) ∧ bad (.gbindFree a) ∧ bad (.gfork d a) ∧ bad (.grest d a e) ∧ bad (.gstat d a sel))
    ∧ (n ≤ 15 → (s.walks (quayOf s.cur)).at n = none →
        all (fun i => s.WalkGoes i n 5 none (if i = .gstep d a b then some (d, 5) else none))
        ∧ s.WalkTraps (.gmask e a f) n 5 ∧ s.WalkTraps (.gckpt a) n 5 ∧ s.WalkTraps (.groll a b) n 5 ∧ s.WalkTraps (.gsave e a b) n 5)

/-- GBIND binds a slot to the image whose header passes, at the image's start state with an empty stack, GBIND.FREE frees it, GFORK
copies it to another slot; GSTAT reads a slot (R285, R290, R294). -/
def Claim.WalkerBindResults : Prop :=
  ∀ (s s1 : State) (d a : Fin 32) (e : Fin 16) (sel : BitVec 2) (h : GrammarHdr) (w : Walker) (ok : Bool),
    let q := quayOf s.cur
    let x := s.ag s.cur
    let k := s.walks q
    let n := (x.rs a).toNat
    let m := (x.rs d).toNat
    let img := x.ra e
    let sp (n : Nat) : Nat := (k.gspill.toList.getD n 0).toNat
    n ≤ 15 → s.Ready (.gbindFree a) →
    (x.inStrip = false →
      s.WalkGoes (.gbindFree a) n 0 none none
      ∧ (img.toNat % 64 ≠ 0 → s.Traps (.gbind e a) { cause := 8, val := img.setWidth 64, win := img.toNat / 2 ^ 64 })
      ∧ (img.toNat % 64 = 0 → sp n % 2 = 0 → s.WalkGoes (.gbind e a) n 6 (k.at n) none)
      ∧ (img.toNat % 64 = 0 → sp n % 2 = 1 → gheader s.issue img (s.begin_ s.issue) = .ok (none, s1) → s.WalkGoes (.gbind e a) n 3 (k.at n) none)
      ∧ (img.toNat % 64 = 0 → sp n % 2 = 1 → gheader s.issue img (s.begin_ s.issue) = .ok (some h, s1) →
          s.WalkGoes (.gbind e a) n 0 (some { image := img, hdr := h, spill := sp n / 2 ^ 13 * 2 ^ 13, st := h.start }) none)
      ∧ (k.at n = some w → m ≤ 15 → (sp m % 2 = 0 → s.WalkGoes (.gfork d a) n 6 (some w) none)
          ∧ (sp m % 2 = 1 → m = n → s.WalkGoes (.gfork d a) n 0 (some w) none)
          ∧ (sp m % 2 = 1 → m ≠ n → w.stack.length ≤ 64 → w.log = [] → ∃ t, exec (.gfork d a) s = .next t ∧ s.OthersKept t
              ∧ x.Retired (t.ag s.cur) s.after ∧ x.ScalarKept (t.ag s.cur) ∧ x.AddressKept (t.ag s.cur)
              ∧ (t.walks q).slots = setIx k.slots m (some { w with spill := sp m / 2 ^ 13 * 2 ^ 13 })
              ∧ (t.walks q).last = setIx (setIx k.last m 0) n 0)))
    ∧ (k.at n = none → s.Scalar (.gstat d a sel) d (if sel = 0 then BitVec.ofNat 64 (k.last.toList.getD n 0) else if sel = 2 then BitVec.allOnes 64 else 0))
    ∧ (k.at n = some w → (w.hdr.size ≠ 0 → s.NoErrors → geosok s.issue w (s.begin_ s.issue) = .ok (some ok, s1) → ∃ t, exec (.gstat d a 0) s = .next t ∧ s.OnlyAgentAndCache t
          ∧ x.Retired (t.ag s.cur) s.after ∧ x.KeptAside (t.ag s.cur) ∧ x.AddressKept (t.ag s.cur)
          ∧ x.ScalarIs (t.ag s.cur) d (statusWord w (k.last.toList.getD n 0) ok))
        ∧ s.Scalar (.gstat d a 1) d (BitVec.ofNat 64 w.st)
        ∧ s.Scalar (.gstat d a 2) d (match w.stack with | [] => BitVec.allOnes 64 | y :: _ => BitVec.ofNat 64 y)
        ∧ s.Scalar (.gstat d a 3) d (BitVec.ofNat 64 w.log.length))

/-- A walker's slot: its number, its binding, its copy and its readings (R282-R285, R290, R294). -/
def Obligations.WalkerBindResults : Prop := Claim.WalkerSlotResults ∧ Claim.WalkerBindResults

/-- A step of the automaton: the token's bytes are walked as R286 says, the first transition of the state in ascending index that the byte's
class and the stack's top admit, with pushes and pops, GOVF at 1,024 symbols, an end-of-sequence token under EOSOK alone, and GIMG where an
entry is malformed. While a checkpoint is held the step's pushes and pops are logged, without one the log is empty; the oldest checkpoint
goes with the entries below the next one's position (R280, R286). -/
def Claim.AutomatonResults : Prop :=
  ∀ (is : Issue) (C : State → Prop) (u : State) (w : Walker) (f : Nat → Nat) (len t : Nat) (es : List Nat),
    (ImageReads is C w len f → w.hdr.Laid len → w.st < w.hdr.nstate → w.stack.length ≤ 1024 → C u →
      (∃ v, geosok is w u = .ok (eosOf w.hdr f w, v) ∧ C v) ∧ (w.err = 0 → ∃ v, gstepRun is w t u = .ok (stepOf w.hdr f w t, v) ∧ C v))
    ∧ (w.ckpts = [] → (w.logStep es).1 = { w with log := [] })
    ∧ (w.ckpts ≠ [] → w.log.length + es.length ≤ 2048 → (w.logStep es).1 = { w with log := w.log ++ es })
    ∧ ∀ c d cs, w.ckpts = c :: d :: cs → w.dropOldest =
        { w with ckpts := (d :: cs).map (fun x => { x with logPos := x.logPos - d.logPos }), log := w.log.drop d.logPos }

/-- GSTEP takes a token and answers the status word; GCKPT puts a checkpoint, the sixteenth and later ones in place of the oldest; GROLL
goes back to the checkpoint it names and undoes the log down to it (R286, R288, R289). -/
def Claim.WalkerStepResults : Prop :=
  ∀ (s s1 s2 s3 : State) (d a b : Fin 32) (w w' : Walker) (code : Nat) (ok : Bool) (c : WalkCkpt),
    let q := quayOf s.cur
    let x := s.ag s.cur
    let n := (x.rs a).toNat
    let t := (x.rs b).toNat
    let es := (w.log.drop c.logPos).reverse
    n ≤ 15 → (s.walks q).at n = some w → w.hdr.size ≠ 0 → s.Ready (.gckpt a) → x.inStrip = false →
    (w.err ≠ 0 → s.WalkGoes (.gstep d a b) n (w.err + 1) (some w) (some (d, statusWord w (w.err + 1) false))
      ∧ s.WalkGoes (.gckpt a) n (w.err + 1) (some w) none)
    ∧ (w.err = 0 → w.done = true ∨ w.hdr.ntok ≤ t → geosok s.issue w (s.begin_ s.issue) = .ok (some ok, s1) →
        s.WalkGoes (.gstep d a b) n 1 (some w) (some (d, statusWord w 1 ok)))
    ∧ (w.err = 0 → gstepRun s.issue w t (s.begin_ s.issue) = .ok ((code, w'), s1) → geosok s.issue w' s1 = .ok (some ok, s2) →
        (if code = 0 then gstepSpill s.issue w t s2 = .ok ((), s3) else s3 = s2) →
        s.WalkGoes (.gstep d a b) n code (some w') (some (d, statusWord w' code ok)))
    ∧ (w.err = 0 → gstepRun s.issue w t (s.begin_ s.issue) = .ok ((code, w'), s1) → geosok s.issue w' s1 = .ok (none, s2) →
        s.WalkGoes (.gstep d a b) n 3 (some { w with err := 2 }) (some (d, statusWord { w with err := 2 } 3 false)))
    ∧ (w.err = 0 → let v := if 16 ≤ w.ckpts.length then w.dropOldest else w
        s.WalkGoes (.gckpt a) n 0 (some { v with ckpts := v.ckpts ++ [⟨v.st, v.stack.length, v.log.length, v.tokens, v.done⟩] }) none)
    ∧ (w.err = 2 → s.WalkGoes (.groll a b) n 3 (some w) none)
    ∧ (w.err ≠ 2 → w.ckpts.length ≤ t → s.WalkGoes (.groll a b) n 4 (some w) none)
    ∧ (w.err ≠ 2 → t < w.ckpts.length → w.ckpts[w.ckpts.length - 1 - t]? = some c → (undoLog es w.stack).2 = ([], []) →
        s.SpillReadable ((List.range es.length).map (fun j => spillLog w.spill (w.log.length - 1 - j))) →
        s.WalkGoes (.groll a b) n 0 (some { w with
          st := c.st, tokens := c.tokens, done := c.done, err := 0, stack := (undoLog es w.stack).1
          ckpts := w.ckpts.take (w.ckpts.length - t), log := w.log.take c.logPos }) none)

/-- Steps, checkpoints and rolling back of a walker (R277, R280, R286, R288, R289). -/
def Obligations.WalkerStepResults : Prop := Claim.AutomatonResults ∧ Claim.WalkerStepResults

/-- The mask of R287: a(t) is the cached answer of the state where the stack's top admits its bitmaps and one is set (R276), else 1 where a
step would answer OK; a(NTOK) is EOSOK; an empty mask under an error, once the slot is done, and with GIMG where a malformed entry is
read. Which entries of the trie a step reads, with which it has to agree, is the model's choice, log entry 85: here they agree. The bytes
of the mask's two forms. -/
def Claim.MaskOfTokens : Prop :=
  ∀ (is : Issue) (C : State → Prop) (u : State) (w : Walker) (f : Nat → Nat) (len : Nat) (bits : List Bool),
    let h := w.hdr
    let lenOf (t : Nat) : Nat := fieldOf f (h.oTok + 8 * t + 4) 2
    let o := h.oState + 16 * w.st
    let top := fieldOf f (o + 12) 2
    let cached : Prop := stateFits h f w.st = true ∧ 2 ≤ fieldOf f (o + 6) 2 ∧ (top = 0xFFFF ∨ w.stack.head? = some top)
    let map := fieldOf f (o + 8) 4
    let size := 8 * ((h.ntok + 63) / 64)
    let acc (t : Nat) : Bool := (f (map + t / 8)).testBit (t % 8)
    let rej (t : Nat) : Bool := (f (map + size + t / 8)).testBit (t % 8)
    let zeros := List.replicate (h.ntok + 1) false
    (ImageReads is C w len f → h.Laid len → w.st < h.nstate → w.stack.length ≤ 1024 → C u → (cached → map + 2 * size ≤ len) →
      (∀ v, C v → ∀ t < h.ntok, tokFits h f t = true → ∀ k whole, k ≤ lenOf t → (whole = true → k = lenOf t) →
        ∃ v', gtrieOk is w t k whole v = .ok (true, v') ∧ C v') →
      (w.err ≠ 0 → gmaskRun is w u = .ok ((zeros, w.err + 1, w), u)) ∧ (w.err = 0 → w.done = true → gmaskRun is w u = .ok ((zeros, 0, w), u))
      ∧ (w.err = 0 → w.done = false →
        (stateFits h f w.st = false ∨ (∃ t < h.ntok, (cached ∧ acc t = true ∧ rej t = true)
            ∨ ¬ (cached ∧ (acc t || rej t) = true) ∧ (stepOf h f w t).1 = 3) →
          ∃ v, gmaskRun is w u = .ok ((zeros, 3, { w with err := 2 }), v) ∧ C v)
        ∧ (stateFits h f w.st = true → (∀ t < h.ntok, ¬ (cached ∧ acc t = true ∧ rej t = true)
            ∧ (¬ (cached ∧ (acc t || rej t) = true) → (stepOf h f w t).1 ≠ 3)) →
          ∃ v as, gmaskRun is w u = .ok ((as ++ [decide (eosOf h f w = some true)], 0, w), v) ∧ C v ∧ as.length = h.ntok
            ∧ ∀ t < h.ntok, ((cached ∧ (acc t || rej t) = true) → as.getD t false = acc t)
              ∧ (¬ (cached ∧ (acc t || rej t) = true) → as.getD t false = decide ((stepOf h f w t).1 = 0)))))
    ∧ (maskBytes false bits).length = 8 * ((bits.length + 63) / 64)
    ∧ (∀ j, ((maskBytes false bits).getD (j / 8) 0).getLsbD (j % 8) = bits.getD j false)
    ∧ (maskBytes true bits).length = 8 * ((bits.length + 7) / 8) ∧ ∀ j, (maskBytes true bits).getD j 0 = if bits.getD j false then 1 else 0

/-- A slot record by R291's table, and what GREST takes from one. -/
def Claim.RecordLayout : Prop :=
  ∀ (w : Walker) (tag : Word), w.stack.length ≤ 1024 → w.ckpts.length ≤ 16 → w.log.length ≤ 2048 →
    let r := w.record tag
    let at_ (o n : Nat) : Nat := leNat ((r.drop o).take n)
    let f (o n v : Nat) : Prop := at_ o n = v % 2 ^ (8 * n)
    (r.length = 6464 ∧ f 0 4 0x53524C47 ∧ f 4 2 1 ∧ f 6 2 (w.err + if w.done then 4 else 0) ∧ f 8 8 (offOf w.image).toNat
      ∧ f 16 1 (winOf w.image) ∧ f 17 7 0 ∧ f 24 4 w.st ∧ f 28 2 w.stack.length ∧ f 30 1 w.ckpts.length ∧ f 31 1 0 ∧ f 32 2 w.log.length ∧ f 34 2 0
      ∧ f 36 4 w.tokens ∧ f 40 8 tag.toNat ∧ f 48 16 0 ∧ (∀ k < 1024, f (64 + 2 * k) 2 (w.stack.reverse.getD k 0))
      ∧ (∀ k < 16, match w.ckpts[k]? with
          | some c => f (2112 + 16 * k) 4 c.st ∧ f (2116 + 16 * k) 2 c.depth ∧ f (2118 + 16 * k) 2 c.logPos ∧ f (2120 + 16 * k) 4 c.tokens
              ∧ f (2124 + 16 * k) 4 (if c.done then 1 else 0)
          | none => f (2112 + 16 * k) 16 0)
      ∧ ∀ k < 2048, f (2368 + 2 * k) 2 (w.log.getD k 0))
    ∧ ∀ x h spill, walkerOf x h spill = some (w, tag) →
        w.image = mkAddr (byteField x 16 1) (byteField x 8 8) ∧ w.hdr = h ∧ w.spill = spill ∧ w.st = byteField x 24 4
        ∧ w.stack.reverse = (List.range (byteField x 28 2)).map (fun k => byteField x (64 + 2 * k) 2)
        ∧ w.log = (List.range (byteField x 32 2)).map (fun k => byteField x (2368 + 2 * k) 2)
        ∧ w.ckpts = (List.range (byteField x 30 1)).map (fun k => ⟨byteField x (2112 + 16 * k) 4, byteField x (2116 + 16 * k) 2,
            byteField x (2118 + 16 * k) 2, byteField x (2120 + 16 * k) 4, decide (byteField x (2124 + 16 * k) 1 % 2 = 1)⟩)
        ∧ w.tokens = byteField x 36 4 ∧ w.err = byteField x 6 2 % 4 ∧ w.done = decide (4 ≤ byteField x 6 2) ∧ tag = BitVec.ofNat 64 (byteField x 40 8)

/-- GMASK writes the mask of the tokens that the slot admits, in bits or in bytes, GSAVE writes the slot's record, and both are
performed when they complete; GREST gives a slot the walker of a record and the tag, and answers GIMG to a record whose fields break
their limits, before its image is read, which order is log entry 67 (R287, R292, R293). -/
def Claim.WalkerMemoryResults : Prop :=
  ∀ (s s1 s2 : State) (d a b : Fin 32) (e : Fin 16) (f : Bool) (w w' : Walker) (bits : List Bool) (code r : Nat) (hs : List Hit)
    (h : GrammarHdr) (tag : Word),
    let q := quayOf s.cur
    let x := s.ag s.cur
    let n := (x.rs a).toNat
    let dst := x.ra e
    let sp := ((s.walks q).gspill.toList.getD n 0).toNat
    let img := mkAddr (byteField r 16 1) (byteField r 8 8)
    let plain : Prop := s.MemoryOk ∧ s.AllQuiet ∧ ∀ h ∈ hs, h.mtype ≠ 2 ∧ h.place.Plain
    let writes (i : Instr) (bs : List Byte) (code : Nat) (w : Walker) : Prop :=
      code < 2 ∨ (s.walks q).gtrap.getLsbD n = false → ∃ t, exec i s = .next t ∧ (∀ g, g ≠ s.cur → t.ag g = s.ag g)
        ∧ x.Retired (t.ag s.cur) s.after ∧ x.ScalarKept (t.ag s.cur) ∧ x.AddressKept (t.ag s.cur)
        ∧ (t.walks q).slots = setIx (s.walks q).slots n (some w) ∧ (t.walks q).last = setIx (s.walks q).last n code
        ∧ ∀ p, t.byte p = (lastByte p (granuleBytes hs bs)).getD (s.byte p)
    n ≤ 15 → s.Ready (.gmask e a f) → x.inStrip = false →
    ((s.walks q).at n = some w → w.hdr.size ≠ 0 → dst.toNat % 8 = 0 →
        checkEach s.issue 8 (granuleAddrs dst (maskBytes f (List.replicate (w.hdr.ntok + 1) false)).length) (s.begin_ s.issue) = .ok (hs, s1) →
        gmaskRun s.issue w s1 = .ok ((bits, code, w'), s2) → plain →
        writes (.gmask e a f) (maskBytes f bits) code w')
    ∧ ((s.walks q).at n = some w → dst.toNat % 64 = 0 → checkEach s.issue 8 (granuleAddrs dst 6464) (s.begin_ s.issue) = .ok (hs, s1) →
        w.stack.length ≤ 64 → w.log = [] → plain → writes (.gsave e a b) (w.record (x.rs b)) 0 w)
    ∧ (dst.toNat % 64 = 0 → gloads s.issue dst 808 (s.begin_ s.issue) = .ok (r, s1) → byteField r 0 4 = 0x53524C47 → byteField r 4 2 = 1 →
        img.toNat % 64 = 0 → gheader s.issue img s1 = .ok (some h, s2) → walkerOf r h (sp / 2 ^ 13 * 2 ^ 13) = some (w, tag) → sp % 2 = 1 →
        w.stack.length ≤ 64 → w.log = [] → s.WalkGoes (.grest d a e) n 0 (some w) (some (d, tag)))
    ∧ (dst.toNat % 64 = 0 → gloads s.issue dst 808 (s.begin_ s.issue) = .ok (r, s1) → recordFits r = false ∨ img.toNat % 64 ≠ 0 →
        s.WalkGoes (.grest d a e) n 3 ((s.walks q).at n) none)

/-- GMASK with its mask, GSAVE and GREST with their record (R276, R287, R291-R293). That GREST judges the fields of a record before its
image is read is log entry 67, which entries of the trie GMASK reads log entry 85. -/
def Obligations.WalkerMemoryResults : Prop := Claim.MaskOfTokens ∧ Claim.RecordLayout ∧ Claim.WalkerMemoryResults

/-! ### Words of the statements: tasks -/

namespace Sys2Proof.Machine

/-- A future of plain memory that the current agent's access reaches. -/
def State.FutureAt (s : State) (i : Instr) (a : Fin 16) (p : Place) : Prop :=
  s.Ready i ∧ (s.ag s.cur).inStrip = false ∧ s.MemoryOk ∧ s.AllQuiet ∧ s.link.relaxed = 0 ∧ p.Plain
  ∧ s.NoErrors ∧ s.heldAt p = false ∧ s.futurePlace (s.actor s.cur) ((s.ag s.cur).ra a) = .ok p ∧ s.watchHit s.issue ((s.ag s.cur).ra a) 16 Acc.atomic = none
  ∧ s.badRead p 16 = none

/-- Memory is as before but for the bytes at a place. -/
def State.BytesAre (s t : State) (p : Place) (bs : List Byte) : Prop :=
  (∀ k < bs.length, t.byte (p.plus k) = bs.getD k 0)
  ∧ ∀ r : Place, r.space ≠ p.space ∨ r.addr < p.addr ∨ p.addr + bs.length ≤ r.addr → t.byte r = s.byte r

/-- The bytes of a number, lowest first. -/
def bytesOf (n v : Nat) : List Byte := (List.range n).map (byteOf v)

/-- The agent has left its slot and stands in its task, past its instruction. -/
def State.Saved (s t : State) (st : TaskState) : Prop :=
  let x := s.ag s.cur
  (∀ g, g ≠ s.cur → t.ag g = s.ag g) ∧ (t.ag s.cur).status = .absent ∧ (t.task x.tkey).state = st
  ∧ ∃ y, (t.task x.tkey).saved = some y ∧ y.regs = { x.regs with pc := s.after, pfx := [], instret := x.regs.instret + 1 } ∧ (x.vec.expired = [] → y.vec = x.vec)

/-- What SPAWN reads: the descriptor and the expanded record. -/
def spawnReads (is : Issue) (da xa : Addr) : M (Nat × Nat) := do
  let dh ← spanM is da 64 64 Acc.load 5
  let xh ← spanM is xa 16 16 Acc.load 7
  let dv ← readSpan is da 64 dh
  let xv ← readSpan is xa 16 xh
  return (dv, xv)

/-- Where SPAWN writes: the marker, the record, ENC, QFLAGS, TAIL and its number. -/
def spawnSpans (is : Issue) (da base : Addr) (p : SpawnPlan) : M (List Hit × List Hit × List Hit × List Hit × List Hit) := do
  let mh ← match p.marker with
    | some off => spanM is (base + BitVec.ofNat 72 off) 2 8 Acc.store 1
    | none => pure []
  let rh ← spanM is (base + BitVec.ofNat 72 p.off) 8 8 Acc.store (p.bytes.length / 8)
  let eh ← spanM is (da + 64) 8 8 Acc.store 14
  let fh ← spanM is (da + 38) 2 2 Acc.store 1
  let th ← spanM is (da + 40) 8 8 Acc.store 1
  return (mh, rh, eh, fh, th)

/-- The place of field `k` in an expanded record, and its packed size (R307). -/
def recordField (k : Nat) : Nat × Nat :=
  ([(0, 9), (16, 9), (64, 4), (68, 4), (72, 24), (96, 2), (32, 9), (48, 9), (98, 2), (100, 1), (101, 1)] : List (Nat × Nat)).getD k (0, 0)

/-- The packed form of an expanded record: the mask, its fields in ascending number, zeros to a multiple of 8 (R307). -/
def packedForm (x mask : Nat) : List Byte :=
  let bs := bytesOf 2 mask ++ ((List.range 11).filter mask.testBit).flatMap (fun k => bytesOf (recordField k).2 (byteField x (recordField k).1 (recordField k).2))
  bs ++ List.replicate ((8 - bs.length % 8) % 8) 0

/-- A queue descriptor with its size, QFLAGS, TAIL and ENC, and zeros elsewhere (R306). -/
def descriptor (size flags tail : Nat) (enc : Nat) : Nat :=
  leNat (bytesOf 32 0 ++ bytesOf 4 size ++ bytesOf 2 0 ++ bytesOf 2 flags ++ bytesOf 8 tail ++ bytesOf 16 0 ++ bytesOf 112 enc)

/-- The expanded record of the example after R309: entry 0x400000, arguments 0x1000, an index, a future, a priority. -/
def exampleRecord (i fut prio : Nat) : Nat :=
  leNat (bytesOf 16 0x400000 ++ bytesOf 16 0x1000 ++ bytesOf 16 fut ++ bytesOf 16 0 ++ bytesOf 36 i ++ bytesOf 1 prio ++ bytesOf 11 0)

/-- The bytes that checked units of `n` bytes take. -/
def unitBytes (hs : List Hit) (n : Nat) (bs : List Byte) : List (Place × Byte) := (hs.flatMap (fun h => h.place.span n)).zip bs

end Sys2Proof.Machine

/-! ### Tasks and futures (R306-R326) -/

/-- LEASE asks for quads; FSET sets an unset future and sends the wake-up of its waiters; a future of another module is asked of its
home (R316) by messages of the model's form (log entry 96); FWAIT and FGET take ST or VALUE of one that is set, both 3 of one whose
state word is malformed, and park the task on one that is not set; EXIT ends the task, YIELD gives its slot up (R316-R318, R323-R326).
-/
def Obligations.TaskResults : Prop :=
  ∀ (s : State) (d a b : Fin 32) (f : Fin 16) (sc : Scope) (p : Place) (l : Nat) (ix : List Nat),
    let g := s.cur
    let x := s.ag g
    let k := x.tkey
    let w := s.futWord p
    let v := ((s.ag s.cur).rs b).toNat
    let m := min 8 (max 1 (x.rs a).toNat)
    let ad := x.ra f
    let value (get : Bool) : Word := if w % 4 = 3 ∨ w / 8 ≠ 0 then 3 else if get then s.futValue p else BitVec.ofNat 64 (w % 4)
    let asks (i : Instr) (y : Nat → LinkMsg) : Prop := s.away p = true → s.Asks i 0 (p.addr / 2 ^ 44) y
    let waits (i : Instr) (get : Bool) : Prop := s.FutureAt i f p →
      asks i (fun t => .wait t (writerOf g).1 (writerOf g).2 (quayOf g) k p.addr (s.part x.part).group (s.part x.part).groupKey (s.copiesDone g))
      ∧ (s.away p = false → w % 4 ≠ 0 ∨ w / 8 ≠ 0 → ∃ t, exec i s = .next t ∧ s.OnlyAgentAndCache t ∧ x.Retired (t.ag g) s.after ∧ x.KeptByMemory (t.ag g)
        ∧ (t.ag g).mem = x.mem ∧ x.AddressKept (t.ag g) ∧ x.ScalarIs (t.ag g) d (value get))
      ∧ (s.away p = false → w % 4 = 0 → w / 8 = 0 → s.copiesDone g = true → (s.die (s.homeKey p.addr)).waits.length < 4096 →
        ∃ t, exec i s = .next t ∧ s.Saved t (.parked p.addr) ∧ s.BytesAre t (p.plus 8) (bytesOf 8 (w ||| 4))
          ∧ (t.die (s.homeKey p.addr)).waits = (s.die (s.homeKey p.addr)).waits ++ [(p.addr, k)]
          ∧ (t.task k).fut = ad ∧ (t.task k).get = get ∧ (t.task k).dest = d.val)
    (s.Ready (.lease a b) → isPilot g = false → ∃ t, exec (.lease a b) s = .next t ∧ s.OnlyAgent t ∧ x.Retired (t.ag g) s.after
        ∧ x.ScalarKept (t.ag g) ∧ x.AddressKept (t.ag g) ∧ (t.ag g).strip = { x.strip with lpend := true, mark := .none }
        ∧ (t.ag g).task = { x.task with qmin := m, qpref := min 8 (max m v) } ∧ (t.ag g).vec = x.vec ∧ (t.ag g).mem = x.mem)
    ∧ (s.FutureAt (.fset f b sc) f p →
        asks (.fset f b sc) (fun t => .fset t (writerOf g).1 (writerOf g).2 (quayOf g) p.addr v 1)
        ∧ (s.away p = false → w % 4 = 3 ∨ w / 8 ≠ 0 → s.Traps (.fset f b sc) { cause := 0x21, sub := 2, val := ad.setWidth 64, win := ad.toNat / 2 ^ 64 })
        ∧ (s.away p = false → w / 8 = 0 → w % 4 = 1 ∨ w % 4 = 2 → s.Traps (.fset f b sc) { cause := 0x21, sub := 1, val := ad.setWidth 64, win := ad.toNat / 2 ^ 64 })
        ∧ (s.away p = false → w / 8 = 0 → w % 4 = 0 → ∃ t, exec (.fset f b sc) s = .next t ∧ (∀ j, j ≠ g → t.ag j = s.ag j) ∧ x.Retired (t.ag g) s.after
          ∧ x.KeptByMemory (t.ag g) ∧ x.ScalarKept (t.ag g) ∧ x.AddressKept (t.ag g) ∧ s.BytesAre t p (bytesOf 8 v ++ bytesOf 8 1)
          ∧ (s.homeKey p.addr < 8 → (t.die (s.homeKey p.addr)).wakes = (s.die (s.homeKey p.addr)).wakes ++ (if w.testBit 2 then [⟨p.addr, 1, (s.ag s.cur).rs b⟩] else []))))
    ∧ waits (.fwait d f sc) false ∧ waits (.fget d f sc) true
    ∧ (s.Ready (.exit b sc) → isPilot g = false → x.strip.isOpen = false → s.AllQuiet → s.link.relaxed = 0 → s.copiesDone g = true →
        (Assoc.find? k s.work.tasks).isSome = true → (s.task k).kind = .hart l ix → 2 ≤ (s.launch l).running → s.work.jobs = [] →
        ∃ t, exec (.exit b sc) s = .next t ∧ s.OthersKept t ∧ (t.ag g).status = .absent ∧ Assoc.find? k t.work.tasks = none
          ∧ (t.launch l).running = (s.launch l).running - 1 ∧ (t.launch l).orVal = (s.launch l).orVal ||| x.rs b
          ∧ (t.launch l).failed = (s.launch l).failed ∧ ∀ n : Fin 16, (t.berth (quayOf g) n).owner ≠ some g)
    ∧ (s.Ready .yield → x.strip.isOpen = false → s.AllQuiet → s.copiesDone g = true →
        ∃ t, exec .yield s = .next t ∧ s.Saved t .ready ∧ ∀ p, t.byte p = s.byte p)

/-- What SPAWN puts into the ring: the fields that differ from the last record, all of them for the first and after a wrap, F2 when none
does; packed, at TAIL where it fits, else at offset 0 behind a marker; nothing where the bytes would reach HEAD while records remain, or
the ring lacks room for the marker (R307, R308, R322). The three records of the example after R309. -/
def Claim.SpawnRecords : Prop :=
  (∀ d x mask, mask < 2 ^ 11 →
    let size := byteField d 32 4
    let tail := byteField d 40 4
    let head := byteField d 48 4
    let remain : Prop := byteField d 44 4 ≠ byteField d 52 4
    let reach (off n : Nat) : Prop := remain ∧ off ≤ head ∧ head < off + n
    let m := if mask = 0 then 4 else mask
    let n := (packedForm x m).length
    (∀ k < 11, mask.testBit k = true ↔ (byteField d 38 2).testBit 0 = false ∨
      byteField x (recordField k).1 (recordField k).2 ≠ byteField (byteField d 64 112) (recordField k).1 (recordField k).2) →
    (tail + n ≤ size → (reach tail n → spawnPlan d x = none)
      ∧ (¬ reach tail n → spawnPlan d x = some ⟨none, tail, packedForm x m, if tail + n = size then 0 else tail + n⟩))
    ∧ (size < tail + n →
      (size < tail + 2 ∨ (remain ∧ tail ≤ head) ∨ reach 0 n ∨ reach 0 80 → spawnPlan d x = none)
      ∧ (¬ (size < tail + 2 ∨ (remain ∧ tail ≤ head) ∨ reach 0 n ∨ reach 0 80) →
          spawnPlan d x = some ⟨some tail, 0, packedForm x 0x7FF, if size = 80 then 0 else 80⟩)))
  ∧ spawnPlan (descriptor 256 0 0 0) (exampleRecord 0 0x2000 1) = some ⟨none, 0, packedForm (exampleRecord 0 0x2000 1) 0x7FF, 80⟩
  ∧ (packedForm (exampleRecord 0 0x2000 1) 0x7FF).length = 80
  ∧ spawnPlan (descriptor 256 1 (80 + 1 * 2 ^ 32) (exampleRecord 0 0x2000 1)) (exampleRecord 1 0x2010 1)
      = some ⟨none, 80, [0x44, 0x00, 1, 0, 0, 0, 0x10, 0x20, 0, 0, 0, 0, 0, 0, 0, 0], 96⟩
  ∧ spawnPlan (descriptor 256 1 (96 + 2 * 2 ^ 32) (exampleRecord 1 0x2010 1)) (exampleRecord 2 0x2020 3)
      = some ⟨none, 96, [0x44, 0x02, 2, 0, 0, 0, 0x20, 0x20, 0, 0, 0, 0, 0, 0, 0, 3], 0x70⟩

/-- SPAWN on a stopped or full queue gives all ones and writes nothing; otherwise it writes the wrap marker and the packed record into
the ring, ENC and EV, TAIL and the number of records, and gives the record's number (R322). -/
def Claim.SpawnResults : Prop :=
  ∀ (s s1 s2 : State) (d : Fin 32) (a b : Fin 16) (sc : Scope) (dv xv : Nat) (p : SpawnPlan) (mh rh eh fh th : List Hit),
    let g := s.cur
    let x := s.ag g
    let i := Instr.spawn d a b sc
    let da := x.ra a
    let base := (slotAddr dv 0).1
    let count := byteField dv 44 4
    let flags := byteField dv 38 2
    let stores := unitBytes mh 2 [0, 0] ++ unitBytes rh 8 p.bytes ++ unitBytes eh 8 (bytesOf 112 xv) ++ unitBytes fh 2 (bytesOf 2 (flags ||| 1))
      ++ unitBytes th 8 (bytesOf 4 p.next ++ bytesOf 4 ((count + 1) % 2 ^ 32))
    s.Ready i → x.inStrip = false → s.MemoryOk → s.AllQuiet → s.NoErrors → s.link.relaxed = 0 →
    spawnReads s.issue da (x.ra b) (s.begin_ s.issue) = .ok ((dv, xv), s1) →
    (flags.testBit 2 = true ∨ spawnPlan dv xv = none → ∃ t, exec i s = .next t ∧ s.OnlyAgentAndCache t ∧ x.Retired (t.ag g) s.after
      ∧ x.AddressKept (t.ag g) ∧ x.ScalarIs (t.ag g) d (BitVec.allOnes 64) ∧ (t.ag g).mem = x.mem)
    ∧ (flags.testBit 2 = false → spawnPlan dv xv = some p → spawnSpans s.issue da base p s1 = .ok ((mh, rh, eh, fh, th), s2) →
      ∃ t, exec i s = .next t ∧ (∀ j, j ≠ g → t.ag j = s.ag j) ∧ x.Retired (t.ag g) s.after ∧ x.AddressKept (t.ag g)
        ∧ x.ScalarIs (t.ag g) d (BitVec.ofNat 64 count) ∧ ∀ r, t.byte r = (lastByte r stores).getD (s.byte r))

/-- SPAWN: what it puts into the ring, and what it leaves (R307, R308, R322). -/
def Obligations.SpawnResults : Prop := Claim.SpawnRecords ∧ Claim.SpawnResults

/-! ### Words of the statements: commands -/

namespace Sys2Proof.Machine

/-- No store waits anywhere, so that a release at system scope performs nothing. -/
def State.Still (s : State) : Prop := (∀ e ∈ s.agents, e.2.mem.queue = [] ∧ e.2.mem.wc = []) ∧ s.link.relaxed = 0

/-- A new record with opcode `op` stands at the head of a function's ring, its reserved field zero, and repeats no earlier one. -/
def State.Commands (s : State) (f x op : Nat) : Prop :=
  let d := s.func f
  s.MemoryOk ∧ s.Still ∧ d.running = none ∧ d.cren = true ∧ d.crhead ≠ d.crtail ∧ d.crerr = false ∧ x = leNat (s.hostBytes d.headAt 64)
  ∧ byteField x 4 2 = op ∧ byteField x 6 2 = 0 ∧ s.replayed f x = none

/-- The command has completed: its journal record is the journal's last and holds the outcome, the record at CRHEAD holds outcome and
result, CRHEAD has advanced, and vector 0 of the function is raised (R369, R370, R373). -/
def State.Completed (s t : State) (f x outcome result : Nat) : Prop :=
  let d := s.func f
  let k := s.journalKey f
  (∃ r, t.journal k = s.journal k ++ [r] ∧ r.seq = (s.journal k).length ∧ r.func = f ∧ r.opcode = byteField x 4 2 ∧ r.cmdSeq = byteField x 0 4
    ∧ r.time = s.time ∧ r.outcome = outcome ∧ r.result = result)
  ∧ (∀ j < 8, t.byte ⟨.host, d.headAt + 56 + j⟩ = byteOf (outcome % 2 ^ 32 + result * 2 ^ 32) j)
  ∧ (t.func f).crhead = (d.crhead + 1) % 2 ^ 32 ∧ (t.func f).running = none ∧ t.link.msix = s.link.msix ++ [(f, 0)]

/-- A partition has no launches and no copies that can land, none of the other functions has a command under way, nor has the Harbour
Master an act. -/
def State.PartQuiet (s : State) (f p : Nat) : Prop :=
  s.work.jobs = [] ∧ (∀ l ∈ s.work.launches, l.2.part ≠ p) ∧ s.copiesFly p = false ∧ ∀ d ∈ s.fw.funcs, d.1 ≠ f → d.2.running = none

/-- The host's buffer holds bytes, but where the outcome of the record lies. -/
def State.BufferHolds (t : State) (buf head : Nat) (bs : List Byte) : Prop :=
  ∀ k < bs.length, buf + k < head + 56 ∨ head + 64 ≤ buf + k → t.byte ⟨.host, buf + k⟩ = bs.getD k 0

/-- A debug command `op` stands in the slot of a function for a context of its partition, which a debugger has attached unless the
command is ATTACH. -/
def State.Debugs (s : State) (f x c op : Nat) : Prop :=
  (s.func f).dbgBusy = true ∧ x = leNat (s.func f).dbgCmd.toList ∧ byteField x 0 1 = op ∧ byteField x 4 4 = c
  ∧ (s.ctx c).exists_ = true ∧ s.pagePart f = some (s.ctx c).part ∧ (op = 1 ∨ (s.ctx c).debugger = true)

/-- The command has been answered: the response slot holds status, bytes written and value under the command's TAG, the slot is free,
and vector 2 of the function is raised (R357). -/
def State.Answered (s t : State) (f x status written value : Nat) : Prop :=
  (t.func f).dbgResp.toList = bytesOf 4 status ++ bytesOf 4 written ++ bytesOf 16 value ++ List.replicate 32 0 ++ bytesOf 4 (byteField x 56 4)
    ++ List.replicate 4 0
  ∧ (t.func f).dbgBusy = false ∧ t.link.msix = s.link.msix ++ [(f, 2)]

/-- The command names one agent, which stands halted in a slot. -/
def State.NamesHalted (s : State) (x c g : Nat) : Prop :=
  byteField x 1 1 ≤ 8 ∧ (s.ctx c).quays.contains (byteField x 2 2) = true ∧ g = byteField x 2 2 * 16 + byteField x 1 1
  ∧ (s.named c (byteField x 2 2) (byteField x 1 1)).head? = some (.slot g) ∧ (s.ag g).status = .halted

end Sys2Proof.Machine

/-! ### Host commands (R369-R376) -/

/-- Each host command that meets its entry's conditions completes, is journaled, and has its effect (R348, R349, R351, R358, R365,
R371-R373, R375): with OK, but CODE_UNLOAD of code that a context stands in with BUSY (3) and CODE_LOAD that finds no memory for its
pages with NOSPACE (4), which outcome is log entry 90. That CTX_SAVE leaves the context marked saved is log entry 48, that PART_RESET
keeps loaded code and the trap queue log entry 53, and that PROXY_DONE stands for the driver's write of STATE log entry 51. -/
def Obligations.CommandResults : Prop :=
  ∀ (s : State) (f x : Nat),
    let A := argField x
    let only (l : List (Nat × Nat)) : Prop := argsClear x l = true
    let p2 := A 0 2
    let own (p : Nat) : Prop := (s.part p).exists_ = true ∧ s.own f p = true
    let head := (s.func f).headAt
    let runs (i : Instr) (op outcome result : Nat) (Q : State → Prop) : Prop := s.Commands f x op →
      ∃ t, exec i s = .next t ∧ s.Completed t f x outcome result ∧ Q t
    (∀ p, let y := leNat (s.hostBytes (A 0 8) 256)
      isPf f = true → (s.func f).part = none → only [(0, 12)] → A 0 8 % 64 = 0 → A 8 4 = 256 → s.blockLegal y = true → s.freePart = some p →
      (∀ z ∈ s.fw.parts, z.2.exists_ = true → z.2.piers &&& byteField y 0 8 = 0 ∧ z.2.vfs &&& byteField y 128 48 = 0
        ∧ (byteField y 72 4 = 0 ∨ z.2.group ≠ byteField y 72 4 ∨ z.2.groupKey ≠ byteField y 96 8)) →
      runs (.partCreate f) 0x01 0 p (fun t => (t.part p).exists_ = true ∧ (t.part p).owner = f ∧ (t.part p).piers = byteField y 0 8
        ∧ (t.part p).vfs = byteField y 128 48 ∧ (t.part p).root = byteField y 8 8 ∧ (t.part p).seq = 0 ∧ t.journal p = []
        ∧ ∀ v < 384, (byteField y 128 48).testBit v = true → (t.func (v + 1)).part = some p))
    ∧ (isPf f = true → (s.func f).part = none → only [(0, 2)] → p2 < 48 → own p2 → s.PartQuiet f p2 →
      runs (.partDestroy f) 0x02 0 0 (fun t => (t.part p2).exists_ = false ∧ (∀ e ∈ t.agents, e.2.part ≠ p2) ∧ (∀ e ∈ t.work.tasks, e.2.part ≠ p2)
        ∧ (∀ e ∈ t.fw.ctxs, e.2.part ≠ p2) ∧ (∀ e ∈ t.fw.codes, e.2.part ≠ p2) ∧ ∀ j, j ≠ p2 → t.part j = s.part j))
    ∧ (only [(0, 2)] → own p2 → s.PartQuiet f p2 →
      runs (.partReset f) 0x03 0 0 (fun t => (t.part p2).exists_ = true ∧ (t.part p2).ring = (s.part p2).ring ∧ (∀ e ∈ t.agents, e.2.part ≠ p2)
        ∧ (∀ e ∈ t.work.tasks, e.2.part ≠ p2) ∧ (∀ e ∈ t.fw.ctxs, e.2.part ≠ p2) ∧ t.fw.codes = s.fw.codes))
    ∧ (∀ gs, let y := leNat (s.hostBytes (A 0 8) (A 8 8))
      let loaded := (segmentPages (gs.map (·.1))).foldl (fun (acc : Option State) va => acc.bind (fun s => s.loadPage (A 16 2) y gs va))
        (some (s.accept f x))
      only [(0, 18)] → A 0 8 % 64 = 0 → own (A 16 2) → rcoSegments y (A 8 8) = some gs →
      ((∃ z ∈ gs, z.1.flags.testBit 3 = true) → rcoSigned y = true) → rcoStepping y = false →
      (∀ u, loaded = some u → runs (.codeLoad f) 0x04 0 s.fw.nextCode (fun t => Assoc.find? s.fw.nextCode t.fw.codes
          = some { part := A 16 2, segs := gs.map (·.1), system := gs.any (fun z => z.1.flags.testBit 3) } ∧ t.fw.nextCode = s.fw.nextCode + 1
          ∧ ∀ r : Place, r.space ≠ .host → t.byte r = u.byte r))
      ∧ (loaded = none → runs (.codeLoad f) 0x04 4 0 (fun t => t.fw.codes = s.fw.codes ∧ t.mem = s.mem)))
    ∧ (∀ c, Assoc.find? (A 0 4) s.fw.codes = some c → only [(0, 5)] → A 4 1 < 2 → s.own f c.part = true →
      ((∀ e ∈ s.fw.ctxs, s.ctxPcIn e.1 c.segs = none) → runs (.codeUnload f) 0x05 0 0 (fun t => Assoc.find? (A 0 4) t.fw.codes = none))
      ∧ (A 4 1 = 0 → (∃ e ∈ s.fw.ctxs, e.2.exists_ = true ∧ e.2.part = c.part ∧ s.ctxPcIn e.1 c.segs ≠ none) →
        runs (.codeUnload f) 0x05 3 0 (fun t => t.fw.codes = s.fw.codes))
      ∧ (A 4 1 = 1 → (∀ e ∈ s.fw.ctxs, s.ctxRuns e.1 = false) → runs (.codeUnload f) 0x05 0 0 (fun t => Assoc.find? (A 0 4) t.fw.codes = none
        ∧ ∀ e ∈ s.fw.ctxs, e.2.exists_ = true → e.2.part = c.part → ∀ pc, s.ctxPcIn e.1 c.segs = some pc → (t.ctx e.1).doomed = some pc)))
    ∧ (∀ p, let qs := quayBits (A 0 24)
      s.partOfQuays qs = some p → only [(0, 28), (32, 8)] → A 24 4 < 2 ^ 20 → A 32 8 % 4096 = 0 → s.quaysTaken qs = false → s.own f p = true →
      runs (.ctxCreate f) 0x06 0 s.fw.nextCtx (fun t => (t.ctx s.fw.nextCtx) = { exists_ := true, part := p, func := f, quays := qs, pasid := A 24 4, trapPage := BitVec.ofNat 64 (A 32 8) } ∧ t.fw.nextCtx = s.fw.nextCtx + 1
        ∧ ∀ e ∈ t.agents, quayOf e.1 ∉ qs))
    ∧ (∀ ps, let c := A 0 4
      let z := s.ctx c
      let a := (slotAddr x 16).1
      let bs := s.ctxImage c
      only [(0, 4), (8, 16)] → z.exists_ = true → (slotAddr x 16).2 = true → a.toNat % 64 = 0 → s.own f z.part = true → s.ctxRuns c = false →
      s.saving c (some f) = false → (∀ q ∈ z.quays, s.copiesOut q = false ∧ (s.tile q).feeds = []) → s.rowSide (s.hmActor z.part none) a bs.length 1 Acc.store = .ok ps →
      runs (.ctxSave f) 0x07 0 0 (fun t => (t.ctx c).saved = true ∧ ∀ r : Place, r.space ≠ .host → t.byte r = (lastByte r ((spread ps).zip bs)).getD (s.byte r)))
    ∧ (∀ p is (r : Nat × Nat × State), let qs := quayBits (A 16 24)
      let u := s.accept f x
      let a := slotAddr x 8
      s.partOfQuays qs = some p → only [(0, 48)] → a.2 = true → A 40 8 % 4096 = 0 → s.own f p = true →
      u.readImages (u.hmActor p none) qs a.1 = some is → (u.imagesSeen (u.hmActor p none) qs a.1).restoreCtx f p is (A 40 8) = r → r.1 = 0 →
      s.Commands f x 0x08 → ∃ t, exec (.ctxRestore f) s = .next t ∧ (t.ctx r.2.1).exists_ = true ∧ (t.ctx r.2.1).part = p ∧ (t.ctx r.2.1).quays = qs
        ∧ ((∃ i ∈ is, (byteField i.2 6 2).testBit 0 = true) → (t.ctx r.2.1).doomed ≠ none)
        ∧ t.work.tasks = r.2.2.work.tasks ∧ (t.func f).crhead = ((s.func f).crhead + 1) % 2 ^ 32)
    ∧ (∀ p, let q := A 4 4
      only [(0, 3), (4, 21), (32, 8)] → A 0 1 = 0 → A 1 1 < 4 → A 2 1 < 2 → A 16 8 = 0 → A 8 8 % 64 = 0 → 6 ≤ A 24 1 →
      A 24 1 ≤ 16 → A 32 8 % 4 = 0 → q < 4096 → (if A 2 1 = 0 then s.pagePart f = some p ∧ (s.lq q).owned = false
        else (s.lq q).owned = true ∧ (s.lq q).part = p ∧ (isPf f = true ∨ s.pagePart f = some p)) →
      runs (.queueCreate f) 0x09 0 q (fun t => (t.lq q).owned = true ∧ (t.lq q).func = (if A 2 1 = 0 then f else (s.lq q).func) ∧ (t.lq q).part = p
        ∧ (t.lq q).ring = A 8 8 ∧ (t.lq q).size = 2 ^ A 24 1 ∧ (t.lq q).progAddr = A 32 8 ∧ (t.lq q).prio = A 1 1 ∧ (t.lq q).progress = 0
        ∧ (t.lq q).tail = 0 ∧ (t.lq q).next = 0 ∧ ∀ l ∈ t.work.launches, ∀ n, l.2.queue ≠ some (q, n)))
    ∧ (let q := A 4 4
      only [(0, 1), (4, 4)] → A 0 1 = 0 → (s.lq q).owned = true → s.own f (s.lq q).part = true → (s.lq q).next ≤ (s.lq q).progress →
      runs (.queueDestroy f) 0x0A 0 0 (fun t => (t.lq q).owned = false))
    ∧ (only [(0, 3), (8, 8)] → A 2 1 = 0 → (s.part p2).exists_ = true → isPf f = true →
      (∃ d ∈ (s.part p2).dumps, ∃ y, d = some y ∧ y.seq = A 8 8) →
      runs (.dumpGrant f) 0x0B 0 0 (fun t => (t.part p2).dumps = (s.part p2).dumps.map (fun d => d.map (fun y =>
        if y.seq = A 8 8 then { y with granted := true } else y))))
    ∧ (let p := A 12 2
      let l := s.journal p
      only [(0, 14), (16, 8)] → A 16 8 % 64 = 0 → p ≠ 0xFFFF → own p → s.journalKey f ≠ p →
      let out := ((l.drop (l.length - 16384)).filter (fun r => decide (A 0 8 ≤ r.seq))).take (A 8 4)
      runs (.journalRead f) 0x0C 0 out.length (fun t => t.BufferHolds (A 16 8) head (out.flatMap JournalRec.bytes)))
    ∧ (only [(0, 40)] → A 32 8 % 64 = 0 → runs (.attest f) 0x0D 0 0 (fun t => t.BufferHolds (A 32 8) head (s.attestation (A 0 32))))
    ∧ (∀ p, s.pagePart f = some p → only [(0, 4)] → s.resolvable p (A 0 4) = true → s.work.jobs = [] →
      runs (.resolve f) 0x0E 0 0 (fun t => (∀ r ∈ (t.part p).ring, r.record.seq = A 0 4 → r.resolved = true)
        ∧ ∀ g, (s.ag g).part = p → (s.ag g).status = .replay (A 0 4) → (t.ag g).status = .run))
    ∧ (∀ p, let e := (s.part p).mail.toList.getD (A 0 1) {}
      s.pagePart f = some p → only [(0, 1)] → A 0 1 < 64 → e.state = 1 →
      runs (.proxyDone f) 0x0F 0 0 (fun t => ((t.part p).mail.toList.getD (A 0 1) {}).state = 2
        ∧ ∀ g, (s.ag g).part = p → (s.ag g).status = .proxy (A 0 1) → (t.ag g).status = .run
          ∧ (t.ag g).marks = (s.ag g).marks ∧ ∀ r : Place, r.space ≠ .host → t.byte r = s.byte r))
    ∧ (isPf f = true → only [(0, 4)] → A 0 1 < 8 → A 2 2 ≠ 0xFFFF → (s.part (A 2 2)).exists_ = true →
      (∀ n < 8, (A 1 1).testBit n = true → ((s.die (A 0 1)).comp.toList.getD n {}).part = none) →
      runs (.hwcAllot f) 0x10 0 0 (fun t => ∀ n < 8, ((t.die (A 0 1)).comp.toList.getD n {}).part
        = if (A 1 1).testBit n then some (A 2 2) else ((s.die (A 0 1)).comp.toList.getD n {}).part))

/-! ### Debug commands (R355-R357) -/

/-- Each debug command that its conditions admit is answered with status 0 and has its effect (that WRITE takes a PC with its low two
bits as zero is the model's choice, log entry 78); HALT sends its record to the debugger; a DFORCE that faults answers FAULT with the
record, whose FLAGS and SRC are log entry 38, or BUFSHORT; one for a context of another partition is answered DENIED and one without a
debugger NOTATTACHED, judged in the order of log entry 36 (R355, R357). -/
def Obligations.DebugResults : Prop :=
  ∀ (s : State) (f x c g : Nat),
    let q := byteField x 2 2
    let buf := byteField x 32 8
    let cls := byteField x 8 8 / 2 ^ 12 % 16
    let ix := byteField x 8 8 % 2 ^ 12
    let p := (s.ctx c).part
    let runs (i : Instr) (op written value : Nat) (Q : State → Prop) : Prop := s.Debugs f x c op →
      ∃ t, exec i s = .next t ∧ s.Answered t f x 0 written value ∧ Q t
    let goes (u : Agent) : Prop := u.status = .run ∧ u.regs.pc = (if (s.ag g).marks.byDebug then (s.ag g).regs.pc else (s.ag g).trap.tepc)
      ∧ u.regs.s = (s.ag g).regs.s
    let data (i : Instr) (op : Nat) (bs : List Byte) : Prop := buf % 64 = 0 → bs.length ≤ byteField x 40 4 → s.MemoryOk →
      runs i op bs.length 0 (fun t => s.BytesAre t ⟨.host, buf⟩ bs)
    let hartHalted : Prop := s.NamesHalted x c g ∧ isPilot g = false
    runs (.attach f) 0x01 0 0 (fun t => (t.ctx c).debugger = true ∧ t.agents = s.agents)
    ∧ ((s.haltedOf c).filter (fun t => !(s.dbgAg t).marks.byPart) = [] → runs (.detach f) 0x02 0 0 (fun t => (t.ctx c).debugger = false ∧ t.agents = s.agents))
    ∧ (byteField x 1 1 ≤ 8 → (s.ctx c).quays.contains q = true → s.named c q (byteField x 1 1) = [.slot g] → (s.ag g).haltable = true →
        (s.ag g).ctx = c → runs (.debugHalt f) 0x03 0 0 (fun t => (∃ r, (t.ctx c).records = (s.ctx c).records ++ [r] ∧ r.cause = 0x3A ∧ r.sub = 1
            ∧ r.pc = (s.ag g).regs.pc) ∧ (t.ag g).status = .halted ∧ (t.ag g).regs.pc = (s.ag g).regs.pc ∧ (t.ag g).regs.s = (s.ag g).regs.s
          ∧ (t.ag g).marks.byDebug = true ∧ ∀ j, j ≠ g → t.ag j = s.ag j))
    ∧ (s.NamesHalted x c g → s.named c q (byteField x 1 1) = [.slot g] → runs (.resume f) 0x04 0 0 (fun t => goes (t.ag g) ∧ (t.ag g).marks.stepping = false))
    ∧ (s.NamesHalted x c g → runs (.stepCmd f) 0x05 0 0 (fun t => goes (t.ag g) ∧ (t.ag g).marks.stepping = true))
    ∧ (s.NamesHalted x c g → byteField x 8 8 < 2 ^ 16 → cls = 5 → runs (.readCmd f) 0x06 0 (s.ag g).regs.pc.toNat (fun t => t.agents = s.agents))
    ∧ (∀ h : ix < 32, s.NamesHalted x c g → byteField x 8 8 < 2 ^ 16 → cls = 0 →
        runs (.readCmd f) 0x06 0 ((s.ag g).rs ⟨ix, h⟩).toNat (fun t => t.agents = s.agents)
        ∧ runs (.writeCmd f) 0x07 0 0 (fun t => (s.ag g).ScalarIs (t.ag g) ⟨ix, h⟩ (BitVec.ofNat 64 (byteField x 16 8)) ∧ ∀ j, j ≠ g → t.ag j = s.ag j))
    ∧ (s.NamesHalted x c g → byteField x 8 8 < 2 ^ 16 → cls = 5 →
        runs (.writeCmd f) 0x07 0 0 (fun t => t.ag g = (s.ag g).setPc (BitVec.ofNat 64 (byteField x 16 8 / 4 * 4)) ∧ ∀ j, j ≠ g → t.ag j = s.ag j))
    ∧ (hartHalted → data (.bufferCmd f) 0x08 (s.ag g).bufferBytes)
    ∧ ((s.ctx c).quays.contains q = true →
        runs (.freeze f) 0x09 0 0 (fun t => (t.qy q).freeze = true ∧ ∀ j, j ≠ q → t.qy j = s.qy j)
        ∧ runs (.thaw f) 0x0A 0 0 (fun t => (t.qy q).freeze = false ∧ ∀ j, j ≠ q → t.qy j = s.qy j)
        ∧ data (.nodes f) 0x0B (s.tile q).bytes
        ∧ (∀ v, let r := rectOf (BitVec.ofNat 64 (byteField x 20 4))
            let z := (s.tile q).force (s.tileRead q (s.func f).dbgFail) v (r.units ((s.tile q).ver v).shape)
            (s.func f).dbgAts = none →
            (s.tile q).cur.toList.getD (byteField x 16 1) none = some v → r.row0 + r.rows ≤ ((s.tile q).ver v).rows →
            r.col0 + r.cols ≤ ((s.tile q).ver v).cols → (z.2 = none → runs (.dforce f) 0x0C 0 0 (fun t => t.tile q = { z.1 with reads := [] }))
            ∧ ∀ e, z.2 = some e → e.cause ≠ 0 → buf % 64 = 0 → s.MemoryOk → s.Debugs f x c 0x0C → ∃ t, exec (.dforce f) s = .next t
              ∧ if byteField x 40 4 < 64 then s.Answered t f x 5 0 0
                else s.Answered t f x 4 64 0 ∧ s.BytesAre t ⟨.host, buf⟩ (s.dforceRecord q e r).bytes))
    ∧ (s.NamesHalted x c g → data (.rings f) 0x0D (s.ag g).trace.bytes)
    ∧ ((∀ e ∈ s.agents, e.2.part = p → e.2.status = .absent ∨ (s.ag e.1).status = .halted) →
        runs (.parthalt f) 0x0E 0 0 (fun t => (t.part p).halted = true ∧ t.agents = s.agents))
    ∧ ((∀ e ∈ s.agents, e.2.part = p → (s.ag e.1).marks.byPart = false) →
        runs (.partresume f) 0x0F 0 0 (fun t => (t.part p).halted = false ∧ t.agents = s.agents))
    ∧ (let dbg := s.func f
      dbg.dbgBusy = true → x = leNat dbg.dbgCmd.toList → byteField x 4 4 = c → byteField x 0 1 = 0x03 →
        (s.pagePart f ≠ some p → ∃ t, exec (.debugHalt f) s = .next t ∧ s.Answered t f x 2 0 0 ∧ t.agents = s.agents)
        ∧ (s.pagePart f = some p → (s.ctx c).exists_ = true → (s.ctx c).debugger = false →
            ∃ t, exec (.debugHalt f) s = .next t ∧ s.Answered t f x 6 0 0 ∧ t.agents = s.agents))

/-! ### The host's registers and aperture (R220, R221, R339, R342, R360-R364, R367, R370) -/

namespace Sys2Proof.Machine

/-- An access through the aperture that does not lie in the window of the proxy's mailbox (R365, log entry 51). -/
def State.OutsideMail (_s : State) (p : Nat) (a : Addr) (n : Nat) : Prop :=
  ¬ ((Config.proxyBase p).toNat ≤ (offOf a).toNat ∧ (offOf a).toNat + n ≤ (Config.proxyBase p).toNat + mailSize)

end Sys2Proof.Machine

/-- The writes of a function page's registers, the end of an invalidation, and the host's accesses through BAR2: each has the effect of
its register's entry when the value is in range. That TQCONS keeps a full count is log entry 26, what INVGO samples and which of its
bits it takes log entry 27, that a BAR2 read that fails answers without data log entry 31, that CTXIRQ's slot counts on the context's
lowest Quay log entry 35, and the request to the home of another module for a BAR2 atomic log entry 96. -/
def Obligations.HostWriteResults : Prop :=
  ∀ (s : State) (f q : Nat) (ix : Nat) (v : Word) (p off n : Nat) (a : Addr) (c k : Nat),
    let d := s.func f
    let x := v.toNat
    let goes (i : Instr) (Q : State → Prop) : Prop := ∃ t, exec i s = .next t ∧ Q t
    (x % 64 = 0 → d.cren = false → goes (.crbaseWrite f v) (fun t => t.func f = { d with crbase := x } ∧ ∀ j, j ≠ f → t.func j = s.func j))
    ∧ (d.cren = true → x % 64 = 0 → exec (.crbaseWrite f v) s = .next s)
    ∧ (x < 256 → 4 ≤ x % 64 → x % 64 ≤ 12 → (d.cren = true → x % 64 = d.crsize) → goes (.crctlWrite f v) (fun t =>
        (t.func f).crsize = x % 64 ∧ (t.func f).cren = x.testBit 6 ∧ (t.func f).crhead = (if x.testBit 6 = true ∧ d.cren = false then 0 else d.crhead)
        ∧ (t.func f).crerr = (d.crerr && !(x.testBit 6 && !d.cren)) ∧ (t.func f).crbase = d.crbase ∧ ∀ j, j ≠ f → t.func j = s.func j))
    ∧ (x < 2 ^ 32 → d.cren = true → d.crhead < 2 ^ 32 → d.crtail < 2 ^ 32 →
        let past (y : Nat) : Nat := (y + 2 ^ 32 - d.crhead) % 2 ^ 32
        goes (.crtailWrite f v) (fun t => t.func f =
          (if past x ≤ 2 ^ d.crsize ∧ past d.crtail ≤ past x then { d with crtail := x } else { d with crerr := true })))
    ∧ (x < 2 ^ 32 → s.pagePart f = some p → goes (.tqconsWrite f v) (fun t => (t.part p).tqCons % 2 ^ 32 = x
        ∧ (t.part p).tqProd % 2 ^ 32 = (s.part p).tqProd % 2 ^ 32 ∧ (t.part p).ring = (s.part p).ring))
    ∧ (x % 4 = x → x % 2 = 1 → d.inval = none → goes (.invgo f v) (fun t =>
        (t.func f).inval = some ⟨d.invaddr.toNat, d.invlen * 2 ^ 16, decide (d.invlen = 0)⟩ ∧ (t.func f).invdone = false))
    ∧ (∀ y, d.inval = some y → s.pagePart f = some p →
        (∀ e ∈ s.agents, e.2.strip.buf = [] ∧ e.2.mem.queue = [] ∧ e.2.mem.wc = [] ∧ e.2.marks.plan = []) → (∀ e ∈ s.work.tasks, e.2.saved = none) →
        goes (.invalidationDone f) (fun t => (t.func f).inval = none ∧ (t.func f).invdone = true
          ∧ (∀ e ∈ t.tlb, e ∈ s.tlb ∧ ¬ (e.part = p ∧ y.meets e.base e.size = true))))
    ∧ goes (.atomlackWrite v) (fun t => t = { s with link := { s.link with atomlack := s.link.atomlack &&& ~~~ (v.setWidth 2) } })
    ∧ (let g := (s.ctx c).quays.headD 0 * 16 + k; c < 2 ^ 32 → k ≤ 8 → x = c + k * 2 ^ 32 → (s.ctx c).exists_ = true → s.pagePart f = some (s.ctx c).part → (s.ag g).status ≠ .absent →
        goes (.ctxirq f v) (fun t => (t.ag g).trap = { (s.ag g).trap with irq := true } ∧ (t.ag g).regs = (s.ag g).regs ∧ ∀ j, j ≠ g → t.ag j = s.ag j))
    ∧ (let y := s.lq q; let tl := y.progress + (x + 2 ^ 32 - y.progress % 2 ^ 32) % 2 ^ 32; y.owned = true → y.func = f → x < 2 ^ 32 →
        let put (z : LaunchQueue) : LaunchQueue := if y.pending = true then z else { z with since := s.time }
        (y.resident = true → y.switching = false → y.tail ≤ tl → tl ≤ y.progress + y.size →
            goes (.qtail f q v) (fun t => t.lq q = put { y with tail := tl }))
        ∧ (y.resident = true → y.switching = false → ¬ (y.tail ≤ tl ∧ tl ≤ y.progress + y.size) →
            goes (.qtail f q v) (fun t => t.lq q = put { y with stopped := true }))
        ∧ (y.resident = false ∨ y.switching = true → goes (.qtail f q v) (fun t => t.lq q = put { y with mirror := y.mirror ++ [x] })))
    ∧ ((s.lq q).owned = false ∨ (s.lq q).func ≠ f → goes (.qtail f q v) (fun t => t.rsvacc = s.rsvacc + 1 ∧ t.lq q = s.lq q))
    ∧ (f < 386 → exec (.registerWrite f 0x00000 v) s = exec (.crbaseWrite f v) s ∧ exec (.registerWrite f 0x00008 v) s = exec (.crctlWrite f v) s
        ∧ exec (.registerWrite f 0x00010 v) s = exec (.crtailWrite f v) s ∧ exec (.registerWrite f 0x02008 v) s = exec (.tqconsWrite f v) s
        ∧ exec (.registerWrite f 0x03010 v) s = exec (.invgo f v) s ∧ exec (.registerWrite f 0x05000 v) s = exec (.ctxirq f v) s
        ∧ (x < 2 ^ 32 → goes (.registerWrite f 0x03008 v) (fun t => t.func f = { d with invlen := x }))
        ∧ (x % 2 ^ 16 = 0 → goes (.registerWrite f 0x03000 v) (fun t => t.func f = { d with invaddr := v })))
    ∧ (ix < 3 → v &&& 0x003FFFFF003FFFFF = v → whashLegal (whashMasks ((s.qy q).whash.toList.set ix v)) = true → s.wharfBusy q = false →
        (∀ e ∈ s.agents, e.2.mem.queue = []) → goes (.whashWrite q ix v) (fun t => (t.qy q).whash.toList = (s.qy q).whash.toList.set ix v
          ∧ (t.qy q).poison = [] ∧ (t.qy q).ue = [] ∧ (t.qy q).ce = [] ∧ ((s.qy q).hashPend = none ∨ (s.qy q).hashPend = some (ix, v) → (t.qy q).whold = false)
          ∧ ∀ r : Place, r.space ≠ .wharf q → t.byte r = s.byte r))
    ∧ (ix < 3 → v &&& 0x003FFFFF003FFFFF = v → whashLegal (whashMasks ((s.qy q).whash.toList.set ix v)) = true → s.wharfBusy q = true →
        (∀ e ∈ s.agents, e.2.mem.queue = []) → goes (.whashWrite q ix v) (fun t => (t.qy q).whash = (s.qy q).whash ∧ (t.qy q).whold = true
          ∧ (t.qy q).hashPend = some (ix, v) ∧ t.agents = s.agents ∧ ∀ r, t.byte r = s.byte r))
    ∧ (s.pagePart f = some p → (2 ^ 36 < off + n → goes (.bar2Read f off n) (fun t => t.link.barData = []))
        ∧ (off + n ≤ 2 ^ 36 → a = mkAddr 0 ((s.part p).bar2 + off) → s.OutsideMail p a n → ∀ r, s.hmRead (s.hmActor p none) a n 1 Acc.load = .ok r →
            goes (.bar2Read f off n) (fun t => t.link.barData = bytesOf n r.2 ∧ t.mem = s.mem ∧ t.agents = s.agents))
        ∧ (off + n ≤ 2 ^ 36 → a = mkAddr 0 ((s.part p).bar2 + off) →
            let o := (offOf a).toNat - (Config.proxyBase p).toNat
            (Config.proxyBase p).toNat ≤ (offOf a).toNat → o + n ≤ mailSize → s.badRead ⟨.fabric, s.mailAt p + o⟩ n = none →
            goes (.bar2Read f off n) (fun t => t.link.barData = bytesOf n (leNat (((⟨.fabric, s.mailAt p + o⟩ : Place).span n).map s.rawByte)))))
    ∧ (∀ data ps, s.pagePart f = some p → off + data.length ≤ 2 ^ 36 → a = mkAddr 0 ((s.part p).bar2 + off) → s.MemoryOk →
        s.OutsideMail p a data.length → s.rowSide (s.hmActor p none) a data.length 1 Acc.store = .ok ps → (∀ r ∈ spread ps, r.Plain) →
        goes (.bar2Write f off data) (fun t => ∀ r, t.byte r = (lastByte r ((spread ps).zip data)).getD (s.byte r)))
    ∧ (∀ data, s.pagePart f = some p → off + data.length ≤ 2 ^ 36 → a = mkAddr 0 ((s.part p).bar2 + off) → s.MemoryOk →
        let o := (offOf a).toNat - (Config.proxyBase p).toNat
        let at_ : Place := ⟨.fabric, s.mailAt p + o⟩
        (Config.proxyBase p).toNat ≤ (offOf a).toNat → o + data.length ≤ mailSize → (∀ r ∈ at_.span data.length, r.Plain) →
        goes (.bar2Write f off data) (fun t => ∀ r, t.byte r = (lastByte r ((at_.span data.length).zip data)).getD (s.byte r)))
    ∧ (∀ (op : HostOp) (w : Nat) (y z : BitVec 128) (ps : List (Place × Nat)) (old : Nat), s.pagePart f = some p → w = 4 ∨ w = 8 ∨ w = 16 ∧ op = .cas → off + w ≤ 2 ^ 36 →
        a = mkAddr 0 ((s.part p).bar2 + off) → s.OutsideMail p a w → s.MemoryOk → s.hmRead (s.hmActor p none) a w w Acc.atomic = .ok (ps, old) →
        (∀ r ∈ spread ps, r.Plain) →
        let new := match op with
          | .fetchAdd => (old + y.toNat) % 2 ^ (8 * w)
          | .swap => y.toNat % 2 ^ (8 * w)
          | .cas => if old = y.toNat % 2 ^ (8 * w) then z.toNat % 2 ^ (8 * w) else old
        (s.away ((spread ps).headD ⟨.host, 0⟩) = false → goes (.bar2Atomic f off op w y z) (fun t => t.link.barData = bytesOf w old
          ∧ ((∀ r ∈ spread ps, s.rawByte r = s.byte r) → ∀ r, t.byte r = (lastByte r ((spread ps).zip (bytesOf w new))).getD (s.byte r))))
        ∧ ∀ r rs, spread ps = r :: rs → s.away r = true →
          let fn := match op with | .fetchAdd => 0 | .swap => 1 | .cas => 2
          let m := LinkMsg.amo s.link.nextTag fn 3 0 0xFFFF r.addr w (y.toNat % 2 ^ (8 * w)) (z.toNat % 2 ^ (8 * w))
          goes (.bar2Atomic f off op w y z) (fun t => t.link.barData = [] ∧ t.link.barAsk = some m ∧ t.Sent (r.addr / 2 ^ 44) m
            ∧ ∀ r, t.byte r = s.byte r))

/-! ### The Harbour Master's events (R300-R326, R339, R341, R366-R368, R378) -/

/-- Each event of queues, waves, tasks, quads, priorities and pre-emption has its effect when its conditions hold. That a zero F0 takes
the ENTRY and the clamp of a record's lease are log entry 43, the numbers by which an event names a task, a launch or a record log entry
46, that TIMER_PENDING changes nothing log entry 47, what INSTANCE_END_REPORT counts log entry 54, and what holds a choice of the
Harbour Master back log entry 93. -/
def Obligations.SchedulerResults : Prop :=
  ∀ (s : State) (q l k g slot : Nat) (e : Nat) (code : Word),
    let x := s.lq q
    let goes (i : Instr) (Q : State → Prop) : Prop := ∃ t, exec i s = .next t ∧ Q t
    let starts (kind : Nat) : Prop := s.nextEntry q = some e ∧ e % 256 = kind ∧ s.MemoryOk ∧ s.Still ∧ s.work.jobs = [] ∧ (∀ y ∈ s.fw.lqs, y.2.waits = [])
      ∧ x.waits = [] ∧ x.progress = x.next ∧ x.doneSet = []
    let done (t : State) : Prop := (t.lq q).next = x.next + 1 ∧ (t.lq q).progress = x.next + 1
      ∧ ∀ j < 4, t.byte ⟨.host, x.progAddr + j⟩ = byteOf (x.next + 1) j
    let gone (t : State) (L : Nat) : Prop := (t.ag g).status = .absent ∧ Assoc.find? (s.ag g).tkey t.work.tasks = none
      ∧ (t.launch L).running = (s.launch L).running - 1
    (starts 0 → goes (.queueNop q) done)
    ∧ (starts 1 → let rec_ := (slotAddr e 8).1
        let u := s.modLq q (fun y => { y with next := y.next + 1 })
        ∀ z r, u.readLaunch (s.hmActor x.part none) rec_ = .ok z → launchOf z = some r → u.canPlace x.part r = true →
          goes (.queueLaunch q) (fun t => (t.lq q).next = x.next + 1 ∧ (t.launch s.work.nextLaunch).live = true
            ∧ (t.launch s.work.nextLaunch).record = r ∧ (t.launch s.work.nextLaunch).queue = some (q, x.next)
            ∧ (t.launch s.work.nextLaunch).addr = rec_ ∧ (t.launch s.work.nextLaunch).total = extents (quayLevels r.levels)))
    ∧ (starts 2 → (byteField e 24 8 ≤ (s.lq (byteField e 32 2)).progress → byteField e 32 2 ≠ q → goes (.queueWait q) done)
        ∧ ((s.lq (byteField e 32 2)).progress < byteField e 24 8 → byteField e 32 2 ≠ q → goes (.queueWait q) (fun t =>
            (t.lq q).next = x.next + 1 ∧ (t.lq q).progress = x.progress ∧ (t.lq q).waits = [(x.next, byteField e 32 2, byteField e 24 8)])))
    ∧ (starts 3 → ∀ ps, s.rowSide (s.hmActor x.part none) (slotAddr e 8).1 8 8 Acc.store = .ok ps → (∀ r ∈ spread ps, r.Plain) →
        goes (.queueSignal q) (fun t => done t
          ∧ ∀ r : Place, r.space ≠ .host → t.byte r = (lastByte r ((spread ps).zip (bytesOf 8 (byteField e 24 8)))).getD (s.byte r)))
    ∧ (q < 4096 → (x.switching = true → x.entering = true → goes (.queueSwitch q) (fun t => t.lq q =
            { x.mirror.foldl (fun y v => y.takeTail v) { x with resident := true, switching := false, entering := false } with mirror := [] }))
        ∧ (x.switching = true → x.entering = false → x.resident = true → goes (.queueSwitch q) (fun t => t.lq q = { x with resident := false }))
        ∧ (x.switching = true → x.entering = false → x.resident = false → goes (.queueSwitch q) (fun t => t.lq q = { x with switching := false }))
        ∧ (x.switching = false → s.entersNext q = true → (s.fw.lqs.filter (fun y => y.2.holdsPlace)).length < residentQueues →
            goes (.queueSwitch q) (fun t => t.lq q = { x with switching := true, entering := true }))
        ∧ (x.switching = false → s.leavesNext q = true → goes (.queueSwitch q) (fun t => t.lq q = { x with switching := true, entering := false })))
    ∧ (let y := s.launch l
        ∀ ps, y.live = true → y.placed.length < y.total → s.work.jobs = [] →
          s.nextUnit l (fun n => !s.heldBack n y.effPrio y.since (some l)) = some ps →
          goes (.waveStart l) (fun t => ∃ more, (t.launch l).placed = y.placed ++ ps ++ more))
    ∧ (let y := s.tq q
        ∀ d h r mask, y.owned = true → y.resident = true → y.stopped = false → s.work.jobs = [] → s.readDesc (s.hmActor y.part none) y.desc = .ok d →
          let base := (slotAddr d 0).1
          let n := packedSize mask
          byteField d 44 4 ≠ y.seq → base.toNat % 64 = 0 → y.off + 8 ≤ byteField d 32 4 →
          s.hmRead (s.hmActor y.part none) (base + BitVec.ofNat 72 y.off) 8 8 Acc.load = .ok h → mask = h.2 % 2 ^ 16 → mask ≠ 0 → mask < 2 ^ 11 →
          y.off + n ≤ byteField d 32 4 → s.hmRead (s.hmActor y.part none) (base + BitVec.ofNat 72 y.off) n 8 Acc.load = .ok r →
          y.seq ∉ y.doomed →
          let rec_ := (y.last.getD {}).delta (unpack r.2 mask)
          goes (.taskDecode q) (fun t => (t.tq q).seq = (y.seq + 1) % 2 ^ 32 ∧ (t.tq q).last = some rec_
            ∧ (t.tq q).off = (if y.off + n = byteField d 32 4 then 0 else y.off + n)
            ∧ (t.tq q).ready = y.ready ++ [⟨y.seq, y.off, rec_, rec_.preds - Assoc.get 0 y.seq y.credits, 0, s.work.nextReady⟩]))
    ∧ (let y := s.tq q
        ∀ (d : Decoded) (z w : Nat) (L : LaunchRecord) (h : Nat), y.owned = true → y.resident = true → s.work.jobs = [] →
          y.ready.find? (fun d => decide (d.seq = k ∧ d.preds = 0)) = some d → s.readDesc (s.hmActor y.part none) y.desc = .ok z →
          s.readLaunch (s.hmActor y.part none) (slotAddr z 16).1 = .ok w → launchOf w = some L →
          (∀ p ∈ L.levels.zip (d.record.index L.levels), p.2 < p.1.extent) → d.record.flags % 2 = 0 →
          let upper := (d.record.index L.levels).drop (hartLevels L.levels).length
          hartScopes L.levels 1 = true → s.quaysFor q L.levels upper (s.part y.part).quays true ≠ [] →
          (s.quaysFor q L.levels upper (s.heldQuays y.part) false).find?
            (fun n => s.hartRoom n (d.record.leaseOf L.levels).1 && !s.heldBack n d.effPrio d.since none) = some h →
          goes (.taskLaunch q k) (fun t => let j := h * 16 + (s.freeSlots h).headD 0
            (t.task s.work.nextTask).kind = .queued q d.seq d.record ∧ (t.task s.work.nextTask).state = .running j ∧ (t.ag j).status = .run
            ∧ (t.ag j).regs.pc = BitVec.ofNat 64 ((offOf (if d.record.entry = 0 then L.entry else d.record.entry)).toNat / 4 * 4)
            ∧ (t.ag j).ra 0 = d.record.args ∧ (t.ag j).task.qmin = (d.record.leaseOf L.levels).1 ∧ (t.ag j).task.qpref = (d.record.leaseOf L.levels).2
            ∧ ∀ y ∈ (t.tq q).ready, y.seq ≠ k))
    ∧ (∀ a, s.mayTake k slot = true → (s.task k).saved = some a → (s.task k).needs = 0 → (s.ctx (s.task k).ctx).doomed = none →
        s.noSlot k = false → s.heldBack (s.task k).quay (s.task k).effPrio (s.task k).since (s.task k).kind.launch = false →
        goes (.taskResume k slot) (fun t => let j := (s.task k).quay * 16 + slot
          (t.task k).state = .running j ∧ (t.ag j).regs = a.regs ∧ (t.ag j).status = a.status ∧ (t.ag j).vec = a.vec ∧ (t.ag j).tkey = k
          ∧ ∀ i, i ≠ j → t.ag i = s.ag i))
    ∧ (∀ (R : RemoteStart) w r c n, s.work.jobs = [] → s.readLaunch (s.hmActor R.part none) R.record = .ok w → launchOf w = some r → R.quay < 192 →
        s.ctxAt R.part R.quay = some c → s.roomFor r R.quay = true → s.work.placing.find? (fun y => decide (y.1 = R)) = some (R, n) →
        s.heldBack R.quay r.prio n none = false → s.countersFit (s.remoteGroups R r) = true → (∀ z ∈ s.work.launches, z.2.origin ≠ some (R.module, R.launch)) →
        goes (.remoteInstanceStart R) (fun t => (t.launch s.work.nextLaunch).origin = some (R.module, R.launch)
          ∧ (t.launch s.work.nextLaunch).record = r ∧ (t.launch s.work.nextLaunch).placed = [(R.index, R.quay)]))
    ∧ (2 ≤ (s.launch l).remote → s.work.jobs = [] → goes (.instanceEndReport l k code false) (fun t => (t.launch l).remote = (s.launch l).remote - 1
        ∧ (t.launch l).orVal = (s.launch l).orVal ||| code ∧ (t.launch l).failed = (s.launch l).failed))
    ∧ ((s.leaseWaits (quayOf g)).contains g = true → s.leaseAhead g = false → (s.ag g).task.qmin ≤ (s.freeQuads (quayOf g)).length →
        goes (.quadGrant g) (fun t => (t.ag g).strip.lpend = false ∧ (t.ag g).regs = (s.ag g).regs ∧ (∀ i, i ≠ g → t.ag i = s.ag i)
          ∧ (t.ag g).strip.quads = BitVec.ofNat 8 (quadSet (chooseOf (s.freeOf (s.ag g).ctx) (s.ag g).task.qmin (s.freeQuads (quayOf g))))))
    ∧ (k < 2 ^ 32 → (s.task k).state = .ready → goes (.priorityAging k) (fun t => t.task k = { s.task k with effPrio := min 3 ((s.task k).effPrio + 1) }))
    ∧ (g % 16 ≤ 8 → (s.task k).state = .running g → s.waitsFor (quayOf g) (s.task k).effPrio (s.task k).kind.launch = true →
        goes (.timeSlice k) (fun t => t.ag g = { s.ag g with strip := { (s.ag g).strip with ppend := true } } ∧ ∀ i, i ≠ g → t.ag i = s.ag i))
    ∧ ((s.ag g).strip.ppend = true → (s.ag g).inStrip = true → (s.ag g).strip.noabort = false → (s.ag g).status = .run → (s.ag g).regs.pfx = [] → s.copiesDone g = true →
        (s.ag g).mem.queue = [] → (s.ag g).mem.wc = [] →
        goes (.hardPreemptionTimeout g) (fun t => (t.ag g).status = .absent ∧ (t.task (s.ag g).tkey).state = .ready
          ∧ (∃ y, (t.task (s.ag g).tkey).saved = some y ∧ y.regs.pc = (s.ag g).strip.spc ∧ y.regs.s = (s.ag g).strip.ckpt.s
              ∧ y.strip.buf = [] ∧ y.strip.abortcnt = (s.ag g).strip.abortcnt + 1 ∧ y.strip.noabort = true)
          ∧ (∀ i, i ≠ g → t.ag i = s.ag i) ∧ ∀ r, t.byte r = s.byte r))
    ∧ exec (.timerPending g) s = .next s
    ∧ ((s.ag g).running = true → (s.ag g).atBoundary = true → s.intDue g = true → s.preDue g = false →
        let y := (s.ag g).trap.ien.toNat &&& s.ipend g
        exec (.intr g) s = .next ((s.leaveLease g).takeLocal (s.boundary g)
          { cause := 0x3B, sub := if y.testBit 0 then 1 else 2, val := BitVec.ofNat 64 y, suspends := true }))
    ∧ (∀ r L ix, (s.ag g).status = .fatal r → (s.ag g).marks.phase = 0 → (s.part (s.ag g).part).freeDump = none → s.copiesDone g = true →
        (Assoc.find? (s.ag g).tkey s.work.tasks).isSome = true → (s.task (s.ag g).tkey).kind = .hart L ix → 2 ≤ (s.launch L).running → s.work.jobs = [] →
        goes (.salvage g) (fun t => gone t L ∧ (∀ n < 16, (t.berth (quayOf g) n).owner ≠ some g) ∧ (t.qy (quayOf g)).salvage = false ∧ t.part (s.ag g).part = (s.part (s.ag g).part).postOrHold { r with flags := r.flags ||| 256 } 1
          ∧ (t.launch L).failed = some ((s.launch L).failed.getD (BitVec.ofNat 64 (r.cause + r.sub * 2 ^ 8)))))

/-! ### The events of the engines (R71, R103, R226, R234, R251, R265, R311, R351, R388) -/

/-- A row of a copy lands: of a berth's oldest copy in memory or in a vector register, or of a copy task; a TFEED transfer is written;
an asynchronous force ends; a lane retires; the hold of an ephemeral slice runs out; a comparator's oldest hit is reported. Each is said
with what it leaves of its berth, tile state, register or queue and that it changes nothing else of the agents or of memory. That the
oldest copy goes first and how BTE_ROW names a copy task are log entry 46. -/
def Obligations.EngineResults : Prop :=
  ∀ (s : State) (g q n o k d lane r sl : Nat),
    let x := s.ag g
    let T := s.tile q
    let goes (i : Instr) (Q : State → Prop) : Prop := ∃ t, exec i s = .next t ∧ Q t
    let still (t : State) : Prop := (∀ i, t.ag i = s.ag i) ∧ ∀ p : Place, t.byte p = s.byte p
    let moves (c : Copy) (row : Nat) (z : List (Place × Nat) × List (Place × Nat)) : Prop :=
      row < c.count ∧ row ∉ c.landed ∧ c.stall = none ∧ c.ats = none ∧ (s.qy q).freeze = false ∧ (s.qy q).salvage = false ∧ s.firstFail q c row = none
      ∧ s.mustFollow q c row = false ∧ s.rowCheck q c row = .ok z ∧ s.rowHeld q z = false ∧ T.watched = [] ∧ s.MemoryOk
      ∧ (∀ p ∈ spread z.2, p.space = .fabric → devAt p.addr = none)
    let copied (t : State) (z : List (Place × Nat) × List (Place × Nat)) : Prop :=
      (∀ i, t.ag i = s.ag i) ∧ ∀ p : Place, t.byte p = (lastByte p ((spread z.2).zip ((spread z.1).map s.rawByte))).getD (s.byte p)
    let landed (c : Copy) (cs : List Copy) (t : State) : Prop :=
      (t.berth q n).avail = ((s.berth q n).land o).avail ∧ (t.berth q n).ahead = ((s.berth q n).land o).ahead ∧ (t.berth q n).owner = (s.berth q n).owner
      ∧ (t.berth q n).expect = (s.berth q n).expect ∧ (t.berth q n).fault = (s.berth q n).fault
      ∧ (t.berth q n).copies = (if c.count ≤ c.landed.length + 1 then cs else { c with landed := c.landed ++ [o - c.base] } :: cs)
    (∀ c cs z, n < 16 → (s.berth q n).copies = c :: cs → (∀ y ∈ cs, ¬ (y.base = c.base ∧ y.serial = c.serial)) → c.base ≤ o → moves c (o - c.base) z →
        (∀ a, c.dstOf (o - c.base) = some a → goes (.bteRow q n o) (fun t => landed c cs t ∧ copied t z))
        ∧ (c.dstOf (o - c.base) = none → (s.ag c.agent).status ≠ .absent → (s.ag c.agent).vec.expired = [] →
            let e := elemAt c.vlen c.width (o - c.base)
            let p := c.phys.getD e.1 nowhere
            goes (.bteRow q n o) (fun t => landed c cs t ∧ (∀ i, i ≠ c.agent → t.ag i = s.ag i) ∧ (t.ag c.agent).regs = (s.ag c.agent).regs
              ∧ (t.ag c.agent).vec.map = (s.ag c.agent).vec.map ∧ (∀ y, t.byte y = s.byte y)
              ∧ ∀ j < 96, (t.ag c.agent).vec.phys.toList.getD j 0 = if j = p then
                  BitVec.ofNat 8192 (putBits ((s.ag c.agent).vec.phys.toList.getD j 0).toNat e.2 c.width (leNat ((spread z.1).map s.rawByte)))
                else (s.ag c.agent).vec.phys.toList.getD j 0)))
    ∧ (∀ c z, Assoc.find? k (s.qy q).tcopies = some c → moves c o z → c.landed.length + 1 < c.count → (c.dstOf o).isSome = true →
        goes (.bteRow q (16 + k) o) (fun t => Assoc.find? k (t.qy q).tcopies = some { c with landed := c.landed ++ [o] } ∧ copied t z))
    ∧ (∀ f fs, T.feeds = f :: fs → f ∉ fs → (Assoc.find? f.version T.versions).isSome = true → goes (.tfeedWritten q) (fun t =>
        (∀ i j, ((t.tile q).ver f.version).get i j = if i = f.row ∧ j < f.vals.length then f.vals.getD j 0 else (T.ver f.version).get i j)
        ∧ (∀ y, y ≠ f.version → (t.tile q).ver y = T.ver y) ∧ (t.tile q).feeds = fs ∧ (t.tile q).cur = T.cur ∧ still t))
    ∧ (s.NoErrors → ∀ f fs, T.asyncs = f :: fs → f.ats = none →
        let z := T.force (s.tileRead q f.fail) f.version f.units
        let left : List AsyncForce := match z.2 with
          | some e => if e.cause = 0 then { f with ats := some (offOf e.addr).toNat } :: fs else fs
          | none => fs
        goes (.asyncForceDone q) (fun t => t.tile q = { z.1 with reads := [], asyncs := left } ∧ still t))
    ∧ (∀ h hs, (s.die d).hits = h :: hs → h.kind < 2 ^ 8 → h.slot < 2 ^ 8 → h.bytes < 2 ^ 16 → h.mod < 2 ^ 16 → h.quay < 2 ^ 16 →
        goes (.watchEngine d) (fun t => (t.die d).hits = hs ∧ still t ∧ t.part h.part = (s.part h.part).postOrHold
          { cause := 0x32, sub := 0, flags := 8, src := 6, srcix := h.index, quay := 0x8000 + d, seq := 0, module := s.modid, inner := 0, win := 0, pc := 0
            pc2 := 0, value := h.value, cycle := h.cycle
            detail := h.kind + h.slot * 2 ^ 8 + h.bytes * 2 ^ 16 + h.mod * 2 ^ 32 + h.quay * 2 ^ 48 + (s.die d).cycle.toNat * 2 ^ 64 } 3))
    ∧ (x.vec.eph.contains (32 * r + sl) = true → (r, sl) ∉ x.vec.expired → goes (.ephemeralHoldExpiry g r sl) (fun t =>
        t.ag g = { x with vec := { x.vec with expired := (r, sl) :: x.vec.expired } } ∧ (∀ i, i ≠ g → t.ag i = s.ag i) ∧ ∀ p : Place, t.byte p = s.byte p))
    ∧ (lane < 32 → goes (.laneRetire q lane) (fun t => (t.qy q).retired = (s.qy q).retired ||| BitVec.ofNat 32 (2 ^ lane)
        ∧ ∀ i, t.ag i = if i / 16 = q ∧ i % 16 < 8 ∧ (s.ag i).strip.live.toNat.testBit lane = true then
            { s.ag i with strip := { (s.ag i).strip with lpend := true } } else s.ag i))

/-! ### The events of stores, futures, barriers and trap records (R83, R178, R198, R205, R238, R316, R318, R324, R328, R330, R340, R342, R343, R378) -/

/-- A committed store is performed where the order of its queue allows, in memory or into the write-combining buffer; a line drains; a
load returns; a barrier's phase completes or times out; the wake-up of a future makes its task ready with the destination written; a
trap record that waits is posted, one that is held or that of a stalled agent. That one event posts one record is log entry 32, the
messages for the participants on other modules are log entry 96 and the ports they leave by log entry 14. -/
def Obligations.EventResults : Prop :=
  ∀ (s : State) (g n k pa i : Nat),
    let x := s.ag g
    let goes (i : Instr) (Q : State → Prop) : Prop := ∃ t, exec i s = .next t ∧ Q t
    (∀ p, s.MemoryOk → x.mem.queue[i]? = some p → mayPerform x.mem.queue i = true →
        ((∀ y ∈ p.bytes, y.1.Plain) → goes (.storePerformed g i) (fun t => t.ag g = { x with mem := { x.mem with queue := x.mem.queue.eraseIdx i } }
          ∧ (∀ j, j ≠ g → t.ag j = s.ag j) ∧ ∀ r : Place, t.byte r = (lastByte r p.bytes).getD (s.byte r)))
        ∧ (∀ ln, p.bytes ≠ [] → (∀ y ∈ p.bytes, y.1.space = .host ∧ y.1.addr / 64 = ln) → x.mem.wc = [] →
            let bs := (p.bytes.map (fun y => (y.1.addr, y.2))).foldl (fun m b => Assoc.set b.1 b.2 m) []
            bs.length ≠ 64 → goes (.storePerformed g i) (fun t => (t.ag g).mem.queue = x.mem.queue.eraseIdx i ∧ (t.ag g).mem.wc = [⟨p.op, ln, p.nt, bs⟩]
              ∧ (t.ag g).regs = x.regs ∧ (∀ j, j ≠ g → t.ag j = s.ag j) ∧ ∀ r : Place, t.byte r = s.byte r)))
    ∧ goes (.loadReturned g) (fun t => t.ag g = { x with mem := { x.mem with loadsOut := x.mem.loadsOut - 1 } } ∧ (∀ i, i ≠ g → t.ag i = s.ag i)
        ∧ ∀ r : Place, t.byte r = s.byte r)
    ∧ (∀ l, s.MemoryOk → x.mem.wc.getLast? = some l → goes (.wcDrainTimeout g) (fun t =>
        t.ag g = { x with mem := { x.mem with wc := x.mem.wc.filter (fun y => !decide (y.line = l.line)) } } ∧ (∀ j, j ≠ g → t.ag j = s.ag j)
        ∧ t.link.relaxed = (if l.nt = true then s.link.relaxed ||| BitVec.ofNat 2 (2 ^ s.portOfAgent g) else s.link.relaxed)
        ∧ ∀ r : Place, t.byte r = (lastByte r (l.bytes.map (fun b => (⟨.host, b.1⟩, b.2)))).getD (s.byte r)))
    ∧ (∀ y, s.work.groups[k]? = some y → y.die < 8 → y.fresh = false → (∀ a ∈ y.arrivals, y.phase < a.2 ∨ a.1 ∈ y.gone) → y.remote ≤ y.away + y.lost →
        goes (.barrierPhaseComplete k) (fun t => t.work.groups[k]? = some { y with
            phase := y.phase + 1, away := 0, timeout := (if y.gone = [] ∧ y.lost = 0 then 0 else y.later), posted := false }
          ∧ (∀ j, j ≠ k → t.work.groups[j]? = s.work.groups[j]?) ∧ t.agents = s.agents
          ∧ (y.remote ≠ 0 → ∀ m ∈ (s.part (s.launch y.launch).part).peers,
              let o := (s.launch y.launch).origin.getD (s.modid, y.launch)
              t.Sent m.1 (.phase o.1 o.2 y.level y.key (y.phase + 1)))))
    ∧ (∀ y, s.work.groups[k]? = some y → y.die < 8 → y.posted = false → y.timeout ≠ 0 → y.fresh = false → y.complete = false → y.stopped = 0 →
        (∀ a ∈ y.arrivals, s.taskHalted a.1 = false) →
        let p := (s.launch y.launch).part
        goes (.barrierTimeout k) (fun t => t.work.groups[k]? = some { y with posted := true } ∧ t.agents = s.agents
          ∧ ∃ rec_, rec_.cause = 0x20 ∧ rec_.sub = 2 ∧ rec_.flags = 8 ∧ rec_.detail = y.level + y.phase % 2 ^ 32 * 2 ^ 32
            ∧ t.part p = (s.part p).postOrHold rec_ 3))
    ∧ (∀ v, let h := s.homeKey pa;
        (s.die h).wakes.find? (fun v => v.addr = pa) = some v → (s.die h).waits = [(pa, k)] → k < 2 ^ 32 → (∀ p ∈ s.fw.parts, p.2.moored = []) →
        (s.task k).state = .parked pa →
        goes (.futureWakeup pa) (fun t => (t.task k).state = .ready ∧ (t.task k).effPrio = (s.task k).prio ∧ (t.die h).wakes = (s.die h).wakes.erase v
          ∧ (t.die h).waits = [] ∧ (∀ j, j ≠ k → t.task j = s.task j) ∧ t.agents = s.agents
          ∧ ∀ y, (s.task k).saved = some y → ∃ z, (t.task k).saved = some z ∧ z.regs.pc = y.regs.pc ∧ z.regs.a = y.regs.a ∧ z.vec = y.vec
            ∧ ∀ j : Fin 32, z.rs j = if j.val = (s.task k).dest ∧ j ≠ 0 then
                (if (s.task k).get = true ∧ v.st ≠ 3 then v.value else BitVec.ofNat 64 v.st)
              else y.rs j))
    ∧ (let P := s.part n
        let posted (t : State) (z : TrapRecord) (rest : List TrapRecord) : Prop := t.part n = { P with
          held := rest, seq := P.seq + 1, tqProd := P.tqProd + 1, ring := P.ring ++ [⟨{ z with seq := P.seq + 1 }, false⟩] };
        (∀ y ys, P.held = y :: ys → (y.flags.testBit 2 = true ∧ 1 ≤ P.slotsFree ∨ 3 ≤ P.slotsFree ∧ ∀ z ∈ y :: ys, z.flags.testBit 2 = false) →
            (y.cause ≠ 0x32 → goes (.trapRecordPost n) (fun t => posted t y ys ∧ t.agents = s.agents))
            ∧ (y.cause = 0x32 → goes (.trapRecordPost n) (fun t =>
                posted t { y with detail := y.detail % 2 ^ 64 + (s.die (y.quay - 0x8000)).cycle.toNat * 2 ^ 64 } ys ∧ t.agents = s.agents)))
        ∧ (∀ z zs a b, P.held = z ++ a :: zs → (∀ y ∈ z, y.flags.testBit 2 = false ∧ y.sameSource a = false) → a.flags.testBit 2 = true →
            1 ≤ P.slotsFree → b = z ++ zs → a.cause ≠ 0x32 → goes (.trapRecordPost n) (fun t => posted t a b ∧ t.agents = s.agents))
        ∧ (∀ z, P.held = [] → 3 ≤ P.slotsFree → x.part = n → x.status = .unposted z → z.cause ≠ 0x0E → z.cause ≠ 0x0F →
            (∀ e ∈ s.agents, e.1 ≠ g → ∀ y, e.2.status ≠ .unposted y) →
            goes (.trapRecordPost n) (fun t => posted t z [] ∧ t.ag g = { x with status := .replay (P.seq + 1) } ∧ ∀ j, j ≠ g → t.ag j = s.ag j)))

/-! ### The events of the links, the host's translations and the module (R12, R13, R60, R166-R168, R352, R362, R364, R372, R379, R380) -/

/-- Each event of the links and of the module has its effect when its conditions hold: host translations and page requests,
invalidations with the strips that they abort, host atomics, flits with some of the messages of another module, fabric timeouts of
loads, of stores and of an engine's row, and the resets. That a fatal trap performs the committed stores is log entry 8, the direction
of CLOCK_THROTTLE and its lower bound log entry 13, what an answer to a page request does log entry 29, what a reset keeps log entry 33,
the layout of a flit's operation and payload and the messages log entries 34 and 96, and the timeout of an engine's row log entry 100.
-/
def Obligations.LinkResults : Prop :=
  ∀ (s : State) (g p k f va size pasid : Nat) (w : Word) (flit : List Byte) (msg : LinkMsg),
    let x := s.ag g
    let goes (i : Instr) (Q : State → Prop) : Prop := ∃ t, exec i s = .next t ∧ Q t
    let me := s.actor g
    (g < 3584 → g % 16 ≠ 9 → g % 16 ≠ 10 → x.status = .ats va →
        goes (.atsTranslationCompletion g .failed) (fun t => (t.ag g).status = .run ∧ (t.ag g).marks.atsFail = some (va / 2 ^ 12, 2)
          ∧ ∀ i, i ≠ g → t.ag i = s.ag i)
        ∧ ∀ base n bus r w, n % 2 ^ 12 = 0 → base % 2 ^ 12 = 0 → base ≤ va → va < base + n →
          goes (.atsTranslationCompletion g (.mapped base n bus r w)) (fun t => (t.ag g).status = .run ∧ (t.ag g).regs = x.regs
            ∧ (⟨me.part, me.func, me.die, me.pasid, base, n, bus, r, w⟩ : AtsEntry) ∈ t.link.ats ∧ ∀ i, i ≠ g → t.ag i = s.ag i))
    ∧ (let dropped (t : State) : Prop := t.link.invalidating = s.link.invalidating ++ [(p, pasid, va, size)]
          ∧ ∀ e ∈ t.link.ats, e ∈ s.link.ats ∧ ¬ (portOf e.func = p ∧ e.pasid = pasid ∧ e.base < va + size ∧ va < e.base + e.size);
        (∀ e ∈ s.work.tasks, e.2.saved = none) →
        ((∀ e ∈ s.agents, e.2.strip.buf = []) → goes (.atsInvalidateRequest p pasid va size) (fun t => dropped t ∧ t.agents = s.agents))
        ∧ (s.agents = [(g, x)] → (∃ b ∈ x.strip.buf, b.va / 2 ^ 64 = 1 ∧ va ≤ b.va % 2 ^ 64 ∧ b.va % 2 ^ 64 < va + size) → x.strip.noabort = false →
            x.status = .run → portOf (s.ctx x.ctx).func = p → (s.ctx x.ctx).pasid = pasid →
            goes (.atsInvalidateRequest p pasid va size) (fun t => dropped t ∧ (t.ag g).strip.buf = [] ∧ (t.ag g).regs.pc = x.strip.spc
              ∧ (t.ag g).regs.s = x.strip.ckpt.s ∧ (t.ag g).strip.abortcnt = x.strip.abortcnt + 1 ∧ (t.ag g).strip.noabort = true
              ∧ ∀ r : Place, t.byte r = s.byte r)))
    ∧ ((∀ e ∈ s.agents, e.2.strip.buf = [] ∧ e.2.marks.plan = [] ∧ e.2.mem.queue = [] ∧ e.2.mem.wc = []) → (∀ e ∈ s.work.tasks, e.2.saved = none) →
        ∀ i, s.link.invalidating.find? (fun i => decide (i.1 = p)) = some i → goes (.invalidateCompletion p) (fun t =>
          t.link.invalidating = s.link.invalidating.erase i))
    ∧ (∀ grp n ok, Assoc.find? k s.link.groups = some grp → grp.sent = true → s.work.jobs = [] → x.status = .pri k n →
        goes (.pageRequestResponse k ok) (fun t => (t.ag g).status = .run ∧ (t.ag g).regs = x.regs ∧ Assoc.find? k t.link.groups = none
          ∧ (t.ag g).marks.atsFail = (if ok then x.marks.atsFail else some (grp.pages.headD 0, 3))
          ∧ (ok = true → ∀ e ∈ t.link.ats, e ∈ s.link.ats ∧ ¬ (e.func = grp.func ∧ e.die = grp.die ∧ e.pasid = grp.pasid
              ∧ ∃ z ∈ grp.pages, e.base ≤ z * 2 ^ 12 ∧ z * 2 ^ 12 < e.base + e.size))))
    ∧ (∀ h, x.status = .atomic h →
        goes (.atomicopCompletion g true) (fun t => (t.ag g).status = .run ∧ (t.ag g).marks.ur = true
          ∧ t.link.atomlack = s.link.atomlack ||| BitVec.ofNat 2 (2 ^ s.portOfAgent g) ∧ ∀ r, t.byte r = s.byte r)
        ∧ (s.MemoryOk → let old := leNat (s.hostBytes h.bus h.width)
          let new : Option Nat := match h.op with
            | .fetchAdd => some ((old + h.x) % 2 ^ (8 * h.width))
            | .swap => some h.x
            | .cas => if old = h.x then some h.y else none
          goes (.atomicopCompletion g false) (fun t => (t.ag g).status = .run ∧ (t.ag g).marks.done = x.marks.done ++ [(h.elem, old)]
            ∧ match new with
              | some v => s.BytesAre t ⟨.host, h.bus⟩ (bytesOf h.width v)
              | none => ∀ r, t.byte r = s.byte r)))
    ∧ (p < 64 → let j := Assoc.get {} p s.link.jetty
        let ahead := (flitField flit 252 2 + 2 ^ 16 - j.expect) % 2 ^ 16
        let home (a n : Nat) : Prop := a / 2 ^ 44 = s.modid ∧ devAt a = none ∧ ∀ i < n, devAt (a + i) = none
        let fabric (a : Nat) : Place := ⟨.fabric, a⟩
        let ack := flitField flit 254 2
        let src := (flitEnds flit).2
        let taken (t : State) : Prop := let y := Assoc.get {} p t.link.jetty
          y.expect = (j.expect + 1) % 2 ^ 16 ∧ y.replay = false ∧ ∀ b ∈ j.buffer, 2 ^ 15 ≤ (ack + 2 ^ 16 - b.1) % 2 ^ 16 → b ∈ y.buffer
        let freed (t : State) : Prop := ∃ own, (Assoc.get {} p t.link.jetty).buffer = (j.acked ack).buffer ++ own ∧ own.length ≤ 2
          ∧ ∀ b ∈ own, ∃ on n a, b.2 = (LinkMsg.pause on).flit 0xFFF s.modid n a
        let asked (t : State) : Prop := let y := Assoc.get {} p t.link.jetty
          let f := LinkMsg.replay.flit 0xFFF s.modid j.next ((j.expect + 2 ^ 16 - 1) % 2 ^ 16)
          y.replay = true ∧ y.expect = j.expect ∧ y.next = (j.next + 1) % 2 ^ 16 ∧ y.buffer = j.buffer ++ [(j.next, f)] ∧ y.wire = j.wire ++ [f]
            ∧ t.agents = s.agents
        let receives (Q : State → Prop) : Prop := goes (.flitReceive p flit msg) Q;
        (flitOk flit = false → receives asked)
        ∧ (flitOk flit = true → 0 < ahead → ahead < 2 ^ 15 → if j.replay then exec (.flitReceive p flit msg) s = .next s else receives asked)
        ∧ (flitOk flit = true → 2 ^ 15 ≤ ahead → exec (.flitReceive p flit msg) s = .next s)
        ∧ (flitOk flit = true → ahead = 0 → flitSays flit msg = false → receives (fun t => taken t ∧ freed t ∧ t.agents = s.agents ∧ ∀ r, t.byte r = s.byte r))
        ∧ (flitOk flit = true → ahead = 0 → flitSays flit msg = true →
            (msg = .pause true → receives (fun t => (Assoc.get {} p t.link.jetty).paused = true))
            ∧ (msg = .replay → receives (fun t => freed t ∧ ∃ a b, (Assoc.get {} p t.link.jetty).wire = j.wire ++ a ++ (j.acked ack).buffer.map (fun b => b.2) ++ b))
            ∧ ((flitEnds flit).1 = s.modid → s.MemoryOk → match msg with
              | .store _ _ _ a data => home a data.length → receives (fun t => taken t ∧ freed t ∧ s.BytesAre t (fabric a) data ∧ t.agents = s.agents)
              | .amo tag fn _ _ _ a width u z => ∀ op signed, fn = op.number signed → home a width →
                  let old := leNat (s.bytes (fabric a) width)
                  receives (fun t => s.BytesAre t (fabric a) (bytesOf width (atomNew op (8 * width) signed old u z)) ∧ t.Sent src (.response tag old))
              | .response tag v => ∀ y : Nat × Nat × LinkMsg, s.asker tag = some y → receives (fun t =>
                  (t.ag y.1).status = .run ∧ (t.ag y.1).regs = (s.ag y.1).regs ∧ (t.ag y.1).marks.done = (s.ag y.1).marks.done ++ [(y.2.1, v)])
              | .wait tag _ _ _ task a _ _ park => home a 16 → let n := s.futWord (fabric a)
                  (futSt n ≠ 0 → receives (fun t => t.Sent src (.answer tag (futSt n) (s.futValue (fabric a)).toNat) ∧ ∀ r, t.byte r = s.byte r))
                  ∧ (futSt n = 0 → park = false → receives (fun t => t.Sent src (.answer tag 0 0) ∧ ∀ r, t.byte r = s.byte r))
                  ∧ (futSt n = 0 → park = true → (s.die (s.homeKey a)).waits.length < 4096 → receives (fun t =>
                      s.BytesAre t (fabric (a + 8)) (bytesOf 8 (n ||| 4)) ∧ t.Sent src (.answer tag 5 0)
                      ∧ (t.die (s.homeKey a)).waits = (s.die (s.homeKey a)).waits ++ [(a, awayTask src task)]))
              | .fset tag _ _ _ a v st => home a 16 → let n := s.futWord (fabric a)
                  (setCode n ≠ 0 → receives (fun t => t.Sent src (.answer tag (setCode n) 0) ∧ ∀ r, t.byte r = s.byte r))
                  ∧ (setCode n = 0 → receives (fun t => t.Sent src (.answer tag 0 0) ∧ s.BytesAre t (fabric a) (bytesOf 8 v ++ bytesOf 8 st)
                      ∧ (t.die (s.homeKey a)).wakes = (s.die (s.homeKey a)).wakes ++ (if n.testBit 2 then [⟨a, st, BitVec.ofNat 64 v⟩] else [])))
              | .wake a st v => a / 2 ^ 44 ≠ s.modid → devAt a = none → receives (fun t =>
                  (t.die (s.homeKey a)).wakes = (s.die (s.homeKey a)).wakes ++ [⟨a, st, BitVec.ofNat 64 v⟩])
              | .halt o l level key on => ∀ n y, s.namedGroup o l level key = some n → s.work.groups[n]? = some y → receives (fun t =>
                  t.work.groups[n]? = some (if on then { y with stopped := y.stopped + 1 } else
                    { y with stopped := y.stopped - 1, posted := y.posted && decide (1 < y.stopped) }))
              | .ended l _ code fail => fail = false → 2 ≤ (s.launch l).remote → s.work.jobs = [] → receives (fun t =>
                  (t.launch l).remote = (s.launch l).remote - 1 ∧ (t.launch l).orVal = (s.launch l).orVal ||| code)
              | .other | .pause _ | .replay | .answer _ _ _ | .arrive _ _ _ _ _ _ _ | .phase _ _ _ _ _ | .start _ _ _ | .lost _ | .reset _ _
              | .allot _ _ _ _ | .arm _ _ _ _ _ _ => receives taken)))
    ∧ (∀ dst src seq ack, msg.fits = true → let f := msg.flit dst src seq ack
        f.length = 256 ∧ flitOk f = true ∧ flitSays f msg = true ∧ flitField f 0 16 = dst % 2 ^ 12 + src % 2 ^ 12 * 2 ^ 12 + msg.class_ * 2 ^ 24
          + msg.op * 2 ^ 28 + msg.tag * 2 ^ 36 + msg.words.length * 2 ^ 64
        ∧ (∀ k < 29, flitField f (16 + 8 * k) 8 = msg.words.getD k 0) ∧ flitField f 252 2 = seq % 2 ^ 16 ∧ flitField f 254 2 = ack % 2 ^ 16)
    ∧ (g % 16 ≠ 9 → x.status = .run →
        goes (.fabricTimeout g true w) (fun t => (∃ r, (t.ag g).status = .fatal r ∧ r.cause = 0x29 ∧ r.sub = 3 ∧ r.value = w
          ∧ r.pc = x.marks.lastPc ∧ r.flags.testBit 0 = false ∧ r.flags.testBit 2 = true) ∧ (t.ag g).mem.queue = []
          ∧ (s.MemoryOk → x.mem.wc = [] → (∀ z ∈ x.mem.queue, ∀ y ∈ z.bytes, y.1.Plain) →
              ∀ r, t.byte r = (lastByte r (x.mem.queue.flatMap (fun z => z.bytes))).getD (s.byte r)))
        ∧ goes (.fabricTimeout g false w) (fun t => ∃ r, (t.ag g).status = .fatal r ∧ r.cause = 0x29 ∧ r.sub = 3 ∧ r.value = w
          ∧ r.pc = x.regs.pc ∧ r.flags.testBit 0 = true ∧ r.flags.testBit 2 = true))
    ∧ (∀ n c cs, n < 16 → k < 256 → (s.berth k n).copies = c :: cs → c.meets w.toNat = true → (∀ m < n, (s.berth k m).copies = []) →
        goes (.fabricTimeout (16 * k + 9) true w) (fun t => (∃ r, (t.ag c.agent).status = .fatal r ∧ r.cause = 0x29 ∧ r.sub = 3 ∧ r.value = w
            ∧ r.flags.testBit 0 = false ∧ r.flags.testBit 2 = true)
          ∧ (t.berth k n).fault = some ((s.berth k n).fault.getD ⟨0x29, 3, mkAddr 0 w.toNat, c.base + c.nextRow⟩)))
    ∧ (k < 3072 → (∀ e ∈ s.agents, e.2.status = .absent) → exec (.modidAssign k) s = .next { s with modid := k })
    ∧ ((100 < s.clock → exec (.clockThrottle 0) s = .next { s with clock := s.clock - 100 })
        ∧ (k ≠ 0 → exec (.clockThrottle k) s = .next { s with clock := min 3300 (s.clock + 100) }))
    ∧ (p < 2 → goes (.portReset p) (fun t => t = { s with link := { s.link with atomlack := s.link.atomlack &&& ~~~ (BitVec.ofNat 2 (2 ^ p)) } }))
    ∧ goes (.functionLevelReset f) (fun t => t.func f = { part := (s.func f).part } ∧ (∀ j, j ≠ f → t.func j = s.func j)
        ∧ t.fw.journals = s.fw.journals)
    ∧ goes .moduleReset (fun t => t.agents = [] ∧ t.quays = [] ∧ t.dies = [] ∧ t.mem = [] ∧ t.fw = {} ∧ t.work = {} ∧ t.modid = 0 ∧ t.time = 0
        ∧ t.rsvacc = 0 ∧ t.link = { mem := s.link.mem })
    ∧ goes (.keyProvision k) (fun t => k ∈ t.fw.keys ∧ (∀ j, j ∈ t.fw.keys ↔ j = k ∨ j ∈ s.fw.keys) ∧ t.agents = s.agents)
end

