-- ==== Sys2Proof/Laws/State.lean ====
section
/-! SUPPORT. What the accessors of the state leave alone: one lemma for each field of the state and each update, and reading back
what was written. -/

namespace Sys2Proof.Machine

/-! ### The maps that hold the tables -/

theorem assoc_set_set {β : Type} (k : Nat) (v w : β) (m : Assoc β) : Assoc.set k v (Assoc.set k w m) = Assoc.set k v m := by
  induction m with
  | nil => simp [Assoc.set]
  | cons p t ih => by_cases h : p.1 = k <;> simp [Assoc.set, h, ih]

/-! ### setAg -/

@[simp] theorem setAg_quays (s : State) (g : Nat) (x : Agent) : (s.setAg g x).quays = s.quays := rfl
@[simp] theorem setAg_dies (s : State) (g : Nat) (x : Agent) : (s.setAg g x).dies = s.dies := rfl
@[simp] theorem setAg_mem (s : State) (g : Nat) (x : Agent) : (s.setAg g x).mem = s.mem := rfl
@[simp] theorem setAg_poison (s : State) (g : Nat) (x : Agent) : (s.setAg g x).poison = s.poison := rfl
@[simp] theorem setAg_ue (s : State) (g : Nat) (x : Agent) : (s.setAg g x).ue = s.ue := rfl
@[simp] theorem setAg_tlb (s : State) (g : Nat) (x : Agent) : (s.setAg g x).tlb = s.tlb := rfl
@[simp] theorem setAg_fw (s : State) (g : Nat) (x : Agent) : (s.setAg g x).fw = s.fw := rfl
@[simp] theorem setAg_work (s : State) (g : Nat) (x : Agent) : (s.setAg g x).work = s.work := rfl
@[simp] theorem setAg_link (s : State) (g : Nat) (x : Agent) : (s.setAg g x).link = s.link := rfl
@[simp] theorem setAg_rsvacc (s : State) (g : Nat) (x : Agent) : (s.setAg g x).rsvacc = s.rsvacc := rfl
@[simp] theorem setAg_modid (s : State) (g : Nat) (x : Agent) : (s.setAg g x).modid = s.modid := rfl
@[simp] theorem setAg_clock (s : State) (g : Nat) (x : Agent) : (s.setAg g x).clock = s.clock := rfl
@[simp] theorem setAg_time (s : State) (g : Nat) (x : Agent) : (s.setAg g x).time = s.time := rfl
@[simp] theorem setAg_frac (s : State) (g : Nat) (x : Agent) : (s.setAg g x).frac = s.frac := rfl
@[simp] theorem setAg_cur (s : State) (g : Nat) (x : Agent) : (s.setAg g x).cur = s.cur := rfl
@[simp] theorem setAg_agenda (s : State) (g : Nat) (x : Agent) : (s.setAg g x).agenda = s.agenda := rfl
@[simp] theorem setAg_free (s : State) (g : Nat) (x : Agent) : (s.setAg g x).free = s.free := rfl
@[simp] theorem setAg_frees (s : State) (g : Nat) (x : Agent) : (s.setAg g x).frees = s.frees := rfl
@[simp] theorem setAg_qy (s : State) (g : Nat) (x : Agent) (j : Nat) : (s.setAg g x).qy j = s.qy j := rfl
@[simp] theorem setAg_die (s : State) (g : Nat) (x : Agent) (j : Nat) : (s.setAg g x).die j = s.die j := rfl
@[simp] theorem setAg_part (s : State) (g : Nat) (x : Agent) (j : Nat) : (s.setAg g x).part j = s.part j := rfl
@[simp] theorem setAg_ctx (s : State) (g : Nat) (x : Agent) (j : Nat) : (s.setAg g x).ctx j = s.ctx j := rfl
@[simp] theorem setAg_task (s : State) (g : Nat) (x : Agent) (j : Nat) : (s.setAg g x).task j = s.task j := rfl
@[simp] theorem setAg_func (s : State) (g : Nat) (x : Agent) (j : Nat) : (s.setAg g x).func j = s.func j := rfl

/-! ### modAg -/

@[simp] theorem modAg_quays (s : State) (g : Nat) (f : Agent → Agent) : (s.modAg g f).quays = s.quays := rfl
@[simp] theorem modAg_dies (s : State) (g : Nat) (f : Agent → Agent) : (s.modAg g f).dies = s.dies := rfl
@[simp] theorem modAg_mem (s : State) (g : Nat) (f : Agent → Agent) : (s.modAg g f).mem = s.mem := rfl
@[simp] theorem modAg_poison (s : State) (g : Nat) (f : Agent → Agent) : (s.modAg g f).poison = s.poison := rfl
@[simp] theorem modAg_ue (s : State) (g : Nat) (f : Agent → Agent) : (s.modAg g f).ue = s.ue := rfl
@[simp] theorem modAg_tlb (s : State) (g : Nat) (f : Agent → Agent) : (s.modAg g f).tlb = s.tlb := rfl
@[simp] theorem modAg_fw (s : State) (g : Nat) (f : Agent → Agent) : (s.modAg g f).fw = s.fw := rfl
@[simp] theorem modAg_work (s : State) (g : Nat) (f : Agent → Agent) : (s.modAg g f).work = s.work := rfl
@[simp] theorem modAg_link (s : State) (g : Nat) (f : Agent → Agent) : (s.modAg g f).link = s.link := rfl
@[simp] theorem modAg_rsvacc (s : State) (g : Nat) (f : Agent → Agent) : (s.modAg g f).rsvacc = s.rsvacc := rfl
@[simp] theorem modAg_modid (s : State) (g : Nat) (f : Agent → Agent) : (s.modAg g f).modid = s.modid := rfl
@[simp] theorem modAg_clock (s : State) (g : Nat) (f : Agent → Agent) : (s.modAg g f).clock = s.clock := rfl
@[simp] theorem modAg_time (s : State) (g : Nat) (f : Agent → Agent) : (s.modAg g f).time = s.time := rfl
@[simp] theorem modAg_frac (s : State) (g : Nat) (f : Agent → Agent) : (s.modAg g f).frac = s.frac := rfl
@[simp] theorem modAg_cur (s : State) (g : Nat) (f : Agent → Agent) : (s.modAg g f).cur = s.cur := rfl
@[simp] theorem modAg_agenda (s : State) (g : Nat) (f : Agent → Agent) : (s.modAg g f).agenda = s.agenda := rfl
@[simp] theorem modAg_free (s : State) (g : Nat) (f : Agent → Agent) : (s.modAg g f).free = s.free := rfl
@[simp] theorem modAg_frees (s : State) (g : Nat) (f : Agent → Agent) : (s.modAg g f).frees = s.frees := rfl
@[simp] theorem modAg_qy (s : State) (g : Nat) (f : Agent → Agent) (j : Nat) : (s.modAg g f).qy j = s.qy j := rfl
@[simp] theorem modAg_die (s : State) (g : Nat) (f : Agent → Agent) (j : Nat) : (s.modAg g f).die j = s.die j := rfl
@[simp] theorem modAg_part (s : State) (g : Nat) (f : Agent → Agent) (j : Nat) : (s.modAg g f).part j = s.part j := rfl
@[simp] theorem modAg_ctx (s : State) (g : Nat) (f : Agent → Agent) (j : Nat) : (s.modAg g f).ctx j = s.ctx j := rfl
@[simp] theorem modAg_task (s : State) (g : Nat) (f : Agent → Agent) (j : Nat) : (s.modAg g f).task j = s.task j := rfl
@[simp] theorem modAg_func (s : State) (g : Nat) (f : Agent → Agent) (j : Nat) : (s.modAg g f).func j = s.func j := rfl

/-! ### modQy -/

@[simp] theorem modQy_agents (s : State) (q : Nat) (f : Quay → Quay) : (s.modQy q f).agents = s.agents := rfl
@[simp] theorem modQy_dies (s : State) (q : Nat) (f : Quay → Quay) : (s.modQy q f).dies = s.dies := rfl
@[simp] theorem modQy_mem (s : State) (q : Nat) (f : Quay → Quay) : (s.modQy q f).mem = s.mem := rfl
@[simp] theorem modQy_poison (s : State) (q : Nat) (f : Quay → Quay) : (s.modQy q f).poison = s.poison := rfl
@[simp] theorem modQy_ue (s : State) (q : Nat) (f : Quay → Quay) : (s.modQy q f).ue = s.ue := rfl
@[simp] theorem modQy_tlb (s : State) (q : Nat) (f : Quay → Quay) : (s.modQy q f).tlb = s.tlb := rfl
@[simp] theorem modQy_fw (s : State) (q : Nat) (f : Quay → Quay) : (s.modQy q f).fw = s.fw := rfl
@[simp] theorem modQy_work (s : State) (q : Nat) (f : Quay → Quay) : (s.modQy q f).work = s.work := rfl
@[simp] theorem modQy_link (s : State) (q : Nat) (f : Quay → Quay) : (s.modQy q f).link = s.link := rfl
@[simp] theorem modQy_rsvacc (s : State) (q : Nat) (f : Quay → Quay) : (s.modQy q f).rsvacc = s.rsvacc := rfl
@[simp] theorem modQy_modid (s : State) (q : Nat) (f : Quay → Quay) : (s.modQy q f).modid = s.modid := rfl
@[simp] theorem modQy_clock (s : State) (q : Nat) (f : Quay → Quay) : (s.modQy q f).clock = s.clock := rfl
@[simp] theorem modQy_time (s : State) (q : Nat) (f : Quay → Quay) : (s.modQy q f).time = s.time := rfl
@[simp] theorem modQy_frac (s : State) (q : Nat) (f : Quay → Quay) : (s.modQy q f).frac = s.frac := rfl
@[simp] theorem modQy_cur (s : State) (q : Nat) (f : Quay → Quay) : (s.modQy q f).cur = s.cur := rfl
@[simp] theorem modQy_agenda (s : State) (q : Nat) (f : Quay → Quay) : (s.modQy q f).agenda = s.agenda := rfl
@[simp] theorem modQy_free (s : State) (q : Nat) (f : Quay → Quay) : (s.modQy q f).free = s.free := rfl
@[simp] theorem modQy_frees (s : State) (q : Nat) (f : Quay → Quay) : (s.modQy q f).frees = s.frees := rfl
@[simp] theorem modQy_ag (s : State) (q : Nat) (f : Quay → Quay) (j : Nat) : (s.modQy q f).ag j = s.ag j := rfl
@[simp] theorem modQy_die (s : State) (q : Nat) (f : Quay → Quay) (j : Nat) : (s.modQy q f).die j = s.die j := rfl
@[simp] theorem modQy_part (s : State) (q : Nat) (f : Quay → Quay) (j : Nat) : (s.modQy q f).part j = s.part j := rfl
@[simp] theorem modQy_ctx (s : State) (q : Nat) (f : Quay → Quay) (j : Nat) : (s.modQy q f).ctx j = s.ctx j := rfl
@[simp] theorem modQy_task (s : State) (q : Nat) (f : Quay → Quay) (j : Nat) : (s.modQy q f).task j = s.task j := rfl
@[simp] theorem modQy_func (s : State) (q : Nat) (f : Quay → Quay) (j : Nat) : (s.modQy q f).func j = s.func j := rfl

/-! ### setTile -/

@[simp] theorem setTile_agents (s : State) (q : Nat) (t : TileState) : (s.setTile q t).agents = s.agents := rfl
@[simp] theorem setTile_dies (s : State) (q : Nat) (t : TileState) : (s.setTile q t).dies = s.dies := rfl
@[simp] theorem setTile_mem (s : State) (q : Nat) (t : TileState) : (s.setTile q t).mem = s.mem := rfl
@[simp] theorem setTile_poison (s : State) (q : Nat) (t : TileState) : (s.setTile q t).poison = s.poison := rfl
@[simp] theorem setTile_ue (s : State) (q : Nat) (t : TileState) : (s.setTile q t).ue = s.ue := rfl
@[simp] theorem setTile_tlb (s : State) (q : Nat) (t : TileState) : (s.setTile q t).tlb = s.tlb := rfl
@[simp] theorem setTile_fw (s : State) (q : Nat) (t : TileState) : (s.setTile q t).fw = s.fw := rfl
@[simp] theorem setTile_work (s : State) (q : Nat) (t : TileState) : (s.setTile q t).work = s.work := rfl
@[simp] theorem setTile_link (s : State) (q : Nat) (t : TileState) : (s.setTile q t).link = s.link := rfl
@[simp] theorem setTile_rsvacc (s : State) (q : Nat) (t : TileState) : (s.setTile q t).rsvacc = s.rsvacc := rfl
@[simp] theorem setTile_modid (s : State) (q : Nat) (t : TileState) : (s.setTile q t).modid = s.modid := rfl
@[simp] theorem setTile_clock (s : State) (q : Nat) (t : TileState) : (s.setTile q t).clock = s.clock := rfl
@[simp] theorem setTile_time (s : State) (q : Nat) (t : TileState) : (s.setTile q t).time = s.time := rfl
@[simp] theorem setTile_frac (s : State) (q : Nat) (t : TileState) : (s.setTile q t).frac = s.frac := rfl
@[simp] theorem setTile_cur (s : State) (q : Nat) (t : TileState) : (s.setTile q t).cur = s.cur := rfl
@[simp] theorem setTile_agenda (s : State) (q : Nat) (t : TileState) : (s.setTile q t).agenda = s.agenda := rfl
@[simp] theorem setTile_free (s : State) (q : Nat) (t : TileState) : (s.setTile q t).free = s.free := rfl
@[simp] theorem setTile_frees (s : State) (q : Nat) (t : TileState) : (s.setTile q t).frees = s.frees := rfl
@[simp] theorem setTile_ag (s : State) (q : Nat) (t : TileState) (j : Nat) : (s.setTile q t).ag j = s.ag j := rfl
@[simp] theorem setTile_die (s : State) (q : Nat) (t : TileState) (j : Nat) : (s.setTile q t).die j = s.die j := rfl
@[simp] theorem setTile_part (s : State) (q : Nat) (t : TileState) (j : Nat) : (s.setTile q t).part j = s.part j := rfl
@[simp] theorem setTile_ctx (s : State) (q : Nat) (t : TileState) (j : Nat) : (s.setTile q t).ctx j = s.ctx j := rfl
@[simp] theorem setTile_task (s : State) (q : Nat) (t : TileState) (j : Nat) : (s.setTile q t).task j = s.task j := rfl
@[simp] theorem setTile_func (s : State) (q : Nat) (t : TileState) (j : Nat) : (s.setTile q t).func j = s.func j := rfl

/-! ### modDie -/

@[simp] theorem modDie_agents (s : State) (d : Nat) (f : Die → Die) : (s.modDie d f).agents = s.agents := rfl
@[simp] theorem modDie_quays (s : State) (d : Nat) (f : Die → Die) : (s.modDie d f).quays = s.quays := rfl
@[simp] theorem modDie_mem (s : State) (d : Nat) (f : Die → Die) : (s.modDie d f).mem = s.mem := rfl
@[simp] theorem modDie_poison (s : State) (d : Nat) (f : Die → Die) : (s.modDie d f).poison = s.poison := rfl
@[simp] theorem modDie_ue (s : State) (d : Nat) (f : Die → Die) : (s.modDie d f).ue = s.ue := rfl
@[simp] theorem modDie_tlb (s : State) (d : Nat) (f : Die → Die) : (s.modDie d f).tlb = s.tlb := rfl
@[simp] theorem modDie_fw (s : State) (d : Nat) (f : Die → Die) : (s.modDie d f).fw = s.fw := rfl
@[simp] theorem modDie_work (s : State) (d : Nat) (f : Die → Die) : (s.modDie d f).work = s.work := rfl
@[simp] theorem modDie_link (s : State) (d : Nat) (f : Die → Die) : (s.modDie d f).link = s.link := rfl
@[simp] theorem modDie_rsvacc (s : State) (d : Nat) (f : Die → Die) : (s.modDie d f).rsvacc = s.rsvacc := rfl
@[simp] theorem modDie_modid (s : State) (d : Nat) (f : Die → Die) : (s.modDie d f).modid = s.modid := rfl
@[simp] theorem modDie_clock (s : State) (d : Nat) (f : Die → Die) : (s.modDie d f).clock = s.clock := rfl
@[simp] theorem modDie_time (s : State) (d : Nat) (f : Die → Die) : (s.modDie d f).time = s.time := rfl
@[simp] theorem modDie_frac (s : State) (d : Nat) (f : Die → Die) : (s.modDie d f).frac = s.frac := rfl
@[simp] theorem modDie_cur (s : State) (d : Nat) (f : Die → Die) : (s.modDie d f).cur = s.cur := rfl
@[simp] theorem modDie_agenda (s : State) (d : Nat) (f : Die → Die) : (s.modDie d f).agenda = s.agenda := rfl
@[simp] theorem modDie_free (s : State) (d : Nat) (f : Die → Die) : (s.modDie d f).free = s.free := rfl
@[simp] theorem modDie_frees (s : State) (d : Nat) (f : Die → Die) : (s.modDie d f).frees = s.frees := rfl
@[simp] theorem modDie_ag (s : State) (d : Nat) (f : Die → Die) (j : Nat) : (s.modDie d f).ag j = s.ag j := rfl
@[simp] theorem modDie_qy (s : State) (d : Nat) (f : Die → Die) (j : Nat) : (s.modDie d f).qy j = s.qy j := rfl
@[simp] theorem modDie_part (s : State) (d : Nat) (f : Die → Die) (j : Nat) : (s.modDie d f).part j = s.part j := rfl
@[simp] theorem modDie_ctx (s : State) (d : Nat) (f : Die → Die) (j : Nat) : (s.modDie d f).ctx j = s.ctx j := rfl
@[simp] theorem modDie_task (s : State) (d : Nat) (f : Die → Die) (j : Nat) : (s.modDie d f).task j = s.task j := rfl
@[simp] theorem modDie_func (s : State) (d : Nat) (f : Die → Die) (j : Nat) : (s.modDie d f).func j = s.func j := rfl

/-! ### modPart -/

@[simp] theorem modPart_agents (s : State) (p : Nat) (f : Part → Part) : (s.modPart p f).agents = s.agents := rfl
@[simp] theorem modPart_quays (s : State) (p : Nat) (f : Part → Part) : (s.modPart p f).quays = s.quays := rfl
@[simp] theorem modPart_dies (s : State) (p : Nat) (f : Part → Part) : (s.modPart p f).dies = s.dies := rfl
@[simp] theorem modPart_mem (s : State) (p : Nat) (f : Part → Part) : (s.modPart p f).mem = s.mem := rfl
@[simp] theorem modPart_poison (s : State) (p : Nat) (f : Part → Part) : (s.modPart p f).poison = s.poison := rfl
@[simp] theorem modPart_ue (s : State) (p : Nat) (f : Part → Part) : (s.modPart p f).ue = s.ue := rfl
@[simp] theorem modPart_tlb (s : State) (p : Nat) (f : Part → Part) : (s.modPart p f).tlb = s.tlb := rfl
@[simp] theorem modPart_work (s : State) (p : Nat) (f : Part → Part) : (s.modPart p f).work = s.work := rfl
@[simp] theorem modPart_link (s : State) (p : Nat) (f : Part → Part) : (s.modPart p f).link = s.link := rfl
@[simp] theorem modPart_rsvacc (s : State) (p : Nat) (f : Part → Part) : (s.modPart p f).rsvacc = s.rsvacc := rfl
@[simp] theorem modPart_modid (s : State) (p : Nat) (f : Part → Part) : (s.modPart p f).modid = s.modid := rfl
@[simp] theorem modPart_clock (s : State) (p : Nat) (f : Part → Part) : (s.modPart p f).clock = s.clock := rfl
@[simp] theorem modPart_time (s : State) (p : Nat) (f : Part → Part) : (s.modPart p f).time = s.time := rfl
@[simp] theorem modPart_frac (s : State) (p : Nat) (f : Part → Part) : (s.modPart p f).frac = s.frac := rfl
@[simp] theorem modPart_cur (s : State) (p : Nat) (f : Part → Part) : (s.modPart p f).cur = s.cur := rfl
@[simp] theorem modPart_agenda (s : State) (p : Nat) (f : Part → Part) : (s.modPart p f).agenda = s.agenda := rfl
@[simp] theorem modPart_free (s : State) (p : Nat) (f : Part → Part) : (s.modPart p f).free = s.free := rfl
@[simp] theorem modPart_frees (s : State) (p : Nat) (f : Part → Part) : (s.modPart p f).frees = s.frees := rfl
@[simp] theorem modPart_ag (s : State) (p : Nat) (f : Part → Part) (j : Nat) : (s.modPart p f).ag j = s.ag j := rfl
@[simp] theorem modPart_qy (s : State) (p : Nat) (f : Part → Part) (j : Nat) : (s.modPart p f).qy j = s.qy j := rfl
@[simp] theorem modPart_die (s : State) (p : Nat) (f : Part → Part) (j : Nat) : (s.modPart p f).die j = s.die j := rfl
@[simp] theorem modPart_task (s : State) (p : Nat) (f : Part → Part) (j : Nat) : (s.modPart p f).task j = s.task j := rfl
@[simp] theorem modPart_ctx (s : State) (p : Nat) (f : Part → Part) (j : Nat) : (s.modPart p f).ctx j = s.ctx j := rfl
@[simp] theorem modPart_func (s : State) (p : Nat) (f : Part → Part) (j : Nat) : (s.modPart p f).func j = s.func j := rfl

/-! ### modCtx -/

@[simp] theorem modCtx_agents (s : State) (c : Nat) (f : Ctx → Ctx) : (s.modCtx c f).agents = s.agents := rfl
@[simp] theorem modCtx_quays (s : State) (c : Nat) (f : Ctx → Ctx) : (s.modCtx c f).quays = s.quays := rfl
@[simp] theorem modCtx_dies (s : State) (c : Nat) (f : Ctx → Ctx) : (s.modCtx c f).dies = s.dies := rfl
@[simp] theorem modCtx_mem (s : State) (c : Nat) (f : Ctx → Ctx) : (s.modCtx c f).mem = s.mem := rfl
@[simp] theorem modCtx_poison (s : State) (c : Nat) (f : Ctx → Ctx) : (s.modCtx c f).poison = s.poison := rfl
@[simp] theorem modCtx_ue (s : State) (c : Nat) (f : Ctx → Ctx) : (s.modCtx c f).ue = s.ue := rfl
@[simp] theorem modCtx_tlb (s : State) (c : Nat) (f : Ctx → Ctx) : (s.modCtx c f).tlb = s.tlb := rfl
@[simp] theorem modCtx_work (s : State) (c : Nat) (f : Ctx → Ctx) : (s.modCtx c f).work = s.work := rfl
@[simp] theorem modCtx_link (s : State) (c : Nat) (f : Ctx → Ctx) : (s.modCtx c f).link = s.link := rfl
@[simp] theorem modCtx_rsvacc (s : State) (c : Nat) (f : Ctx → Ctx) : (s.modCtx c f).rsvacc = s.rsvacc := rfl
@[simp] theorem modCtx_modid (s : State) (c : Nat) (f : Ctx → Ctx) : (s.modCtx c f).modid = s.modid := rfl
@[simp] theorem modCtx_clock (s : State) (c : Nat) (f : Ctx → Ctx) : (s.modCtx c f).clock = s.clock := rfl
@[simp] theorem modCtx_time (s : State) (c : Nat) (f : Ctx → Ctx) : (s.modCtx c f).time = s.time := rfl
@[simp] theorem modCtx_frac (s : State) (c : Nat) (f : Ctx → Ctx) : (s.modCtx c f).frac = s.frac := rfl
@[simp] theorem modCtx_cur (s : State) (c : Nat) (f : Ctx → Ctx) : (s.modCtx c f).cur = s.cur := rfl
@[simp] theorem modCtx_agenda (s : State) (c : Nat) (f : Ctx → Ctx) : (s.modCtx c f).agenda = s.agenda := rfl
@[simp] theorem modCtx_free (s : State) (c : Nat) (f : Ctx → Ctx) : (s.modCtx c f).free = s.free := rfl
@[simp] theorem modCtx_frees (s : State) (c : Nat) (f : Ctx → Ctx) : (s.modCtx c f).frees = s.frees := rfl
@[simp] theorem modCtx_ag (s : State) (c : Nat) (f : Ctx → Ctx) (j : Nat) : (s.modCtx c f).ag j = s.ag j := rfl
@[simp] theorem modCtx_qy (s : State) (c : Nat) (f : Ctx → Ctx) (j : Nat) : (s.modCtx c f).qy j = s.qy j := rfl
@[simp] theorem modCtx_die (s : State) (c : Nat) (f : Ctx → Ctx) (j : Nat) : (s.modCtx c f).die j = s.die j := rfl
@[simp] theorem modCtx_task (s : State) (c : Nat) (f : Ctx → Ctx) (j : Nat) : (s.modCtx c f).task j = s.task j := rfl
@[simp] theorem modCtx_part (s : State) (c : Nat) (f : Ctx → Ctx) (j : Nat) : (s.modCtx c f).part j = s.part j := rfl
@[simp] theorem modCtx_func (s : State) (c : Nat) (f : Ctx → Ctx) (j : Nat) : (s.modCtx c f).func j = s.func j := rfl

/-! ### modFunc -/

@[simp] theorem modFunc_agents (s : State) (n : Nat) (f : Func → Func) : (s.modFunc n f).agents = s.agents := rfl
@[simp] theorem modFunc_quays (s : State) (n : Nat) (f : Func → Func) : (s.modFunc n f).quays = s.quays := rfl
@[simp] theorem modFunc_dies (s : State) (n : Nat) (f : Func → Func) : (s.modFunc n f).dies = s.dies := rfl
@[simp] theorem modFunc_mem (s : State) (n : Nat) (f : Func → Func) : (s.modFunc n f).mem = s.mem := rfl
@[simp] theorem modFunc_poison (s : State) (n : Nat) (f : Func → Func) : (s.modFunc n f).poison = s.poison := rfl
@[simp] theorem modFunc_ue (s : State) (n : Nat) (f : Func → Func) : (s.modFunc n f).ue = s.ue := rfl
@[simp] theorem modFunc_tlb (s : State) (n : Nat) (f : Func → Func) : (s.modFunc n f).tlb = s.tlb := rfl
@[simp] theorem modFunc_work (s : State) (n : Nat) (f : Func → Func) : (s.modFunc n f).work = s.work := rfl
@[simp] theorem modFunc_link (s : State) (n : Nat) (f : Func → Func) : (s.modFunc n f).link = s.link := rfl
@[simp] theorem modFunc_rsvacc (s : State) (n : Nat) (f : Func → Func) : (s.modFunc n f).rsvacc = s.rsvacc := rfl
@[simp] theorem modFunc_modid (s : State) (n : Nat) (f : Func → Func) : (s.modFunc n f).modid = s.modid := rfl
@[simp] theorem modFunc_clock (s : State) (n : Nat) (f : Func → Func) : (s.modFunc n f).clock = s.clock := rfl
@[simp] theorem modFunc_time (s : State) (n : Nat) (f : Func → Func) : (s.modFunc n f).time = s.time := rfl
@[simp] theorem modFunc_frac (s : State) (n : Nat) (f : Func → Func) : (s.modFunc n f).frac = s.frac := rfl
@[simp] theorem modFunc_cur (s : State) (n : Nat) (f : Func → Func) : (s.modFunc n f).cur = s.cur := rfl
@[simp] theorem modFunc_agenda (s : State) (n : Nat) (f : Func → Func) : (s.modFunc n f).agenda = s.agenda := rfl
@[simp] theorem modFunc_free (s : State) (n : Nat) (f : Func → Func) : (s.modFunc n f).free = s.free := rfl
@[simp] theorem modFunc_frees (s : State) (n : Nat) (f : Func → Func) : (s.modFunc n f).frees = s.frees := rfl
@[simp] theorem modFunc_ag (s : State) (n : Nat) (f : Func → Func) (j : Nat) : (s.modFunc n f).ag j = s.ag j := rfl
@[simp] theorem modFunc_qy (s : State) (n : Nat) (f : Func → Func) (j : Nat) : (s.modFunc n f).qy j = s.qy j := rfl
@[simp] theorem modFunc_die (s : State) (n : Nat) (f : Func → Func) (j : Nat) : (s.modFunc n f).die j = s.die j := rfl
@[simp] theorem modFunc_task (s : State) (n : Nat) (f : Func → Func) (j : Nat) : (s.modFunc n f).task j = s.task j := rfl
@[simp] theorem modFunc_part (s : State) (n : Nat) (f : Func → Func) (j : Nat) : (s.modFunc n f).part j = s.part j := rfl
@[simp] theorem modFunc_ctx (s : State) (n : Nat) (f : Func → Func) (j : Nat) : (s.modFunc n f).ctx j = s.ctx j := rfl

/-! ### modLq -/

@[simp] theorem modLq_agents (s : State) (q : Nat) (f : LaunchQueue → LaunchQueue) : (s.modLq q f).agents = s.agents := rfl
@[simp] theorem modLq_quays (s : State) (q : Nat) (f : LaunchQueue → LaunchQueue) : (s.modLq q f).quays = s.quays := rfl
@[simp] theorem modLq_dies (s : State) (q : Nat) (f : LaunchQueue → LaunchQueue) : (s.modLq q f).dies = s.dies := rfl
@[simp] theorem modLq_mem (s : State) (q : Nat) (f : LaunchQueue → LaunchQueue) : (s.modLq q f).mem = s.mem := rfl
@[simp] theorem modLq_poison (s : State) (q : Nat) (f : LaunchQueue → LaunchQueue) : (s.modLq q f).poison = s.poison := rfl
@[simp] theorem modLq_ue (s : State) (q : Nat) (f : LaunchQueue → LaunchQueue) : (s.modLq q f).ue = s.ue := rfl
@[simp] theorem modLq_tlb (s : State) (q : Nat) (f : LaunchQueue → LaunchQueue) : (s.modLq q f).tlb = s.tlb := rfl
@[simp] theorem modLq_work (s : State) (q : Nat) (f : LaunchQueue → LaunchQueue) : (s.modLq q f).work = s.work := rfl
@[simp] theorem modLq_link (s : State) (q : Nat) (f : LaunchQueue → LaunchQueue) : (s.modLq q f).link = s.link := rfl
@[simp] theorem modLq_rsvacc (s : State) (q : Nat) (f : LaunchQueue → LaunchQueue) : (s.modLq q f).rsvacc = s.rsvacc := rfl
@[simp] theorem modLq_modid (s : State) (q : Nat) (f : LaunchQueue → LaunchQueue) : (s.modLq q f).modid = s.modid := rfl
@[simp] theorem modLq_clock (s : State) (q : Nat) (f : LaunchQueue → LaunchQueue) : (s.modLq q f).clock = s.clock := rfl
@[simp] theorem modLq_time (s : State) (q : Nat) (f : LaunchQueue → LaunchQueue) : (s.modLq q f).time = s.time := rfl
@[simp] theorem modLq_frac (s : State) (q : Nat) (f : LaunchQueue → LaunchQueue) : (s.modLq q f).frac = s.frac := rfl
@[simp] theorem modLq_cur (s : State) (q : Nat) (f : LaunchQueue → LaunchQueue) : (s.modLq q f).cur = s.cur := rfl
@[simp] theorem modLq_agenda (s : State) (q : Nat) (f : LaunchQueue → LaunchQueue) : (s.modLq q f).agenda = s.agenda := rfl
@[simp] theorem modLq_free (s : State) (q : Nat) (f : LaunchQueue → LaunchQueue) : (s.modLq q f).free = s.free := rfl
@[simp] theorem modLq_frees (s : State) (q : Nat) (f : LaunchQueue → LaunchQueue) : (s.modLq q f).frees = s.frees := rfl
@[simp] theorem modLq_ag (s : State) (q : Nat) (f : LaunchQueue → LaunchQueue) (j : Nat) : (s.modLq q f).ag j = s.ag j := rfl
@[simp] theorem modLq_qy (s : State) (q : Nat) (f : LaunchQueue → LaunchQueue) (j : Nat) : (s.modLq q f).qy j = s.qy j := rfl
@[simp] theorem modLq_die (s : State) (q : Nat) (f : LaunchQueue → LaunchQueue) (j : Nat) : (s.modLq q f).die j = s.die j := rfl
@[simp] theorem modLq_part (s : State) (q : Nat) (f : LaunchQueue → LaunchQueue) (j : Nat) : (s.modLq q f).part j = s.part j := rfl
@[simp] theorem modLq_ctx (s : State) (q : Nat) (f : LaunchQueue → LaunchQueue) (j : Nat) : (s.modLq q f).ctx j = s.ctx j := rfl
@[simp] theorem modLq_task (s : State) (q : Nat) (f : LaunchQueue → LaunchQueue) (j : Nat) : (s.modLq q f).task j = s.task j := rfl
@[simp] theorem modLq_func (s : State) (q : Nat) (f : LaunchQueue → LaunchQueue) (j : Nat) : (s.modLq q f).func j = s.func j := rfl

/-! ### modTq -/

@[simp] theorem modTq_agents (s : State) (q : Nat) (f : TaskQueue → TaskQueue) : (s.modTq q f).agents = s.agents := rfl
@[simp] theorem modTq_quays (s : State) (q : Nat) (f : TaskQueue → TaskQueue) : (s.modTq q f).quays = s.quays := rfl
@[simp] theorem modTq_dies (s : State) (q : Nat) (f : TaskQueue → TaskQueue) : (s.modTq q f).dies = s.dies := rfl
@[simp] theorem modTq_mem (s : State) (q : Nat) (f : TaskQueue → TaskQueue) : (s.modTq q f).mem = s.mem := rfl
@[simp] theorem modTq_poison (s : State) (q : Nat) (f : TaskQueue → TaskQueue) : (s.modTq q f).poison = s.poison := rfl
@[simp] theorem modTq_ue (s : State) (q : Nat) (f : TaskQueue → TaskQueue) : (s.modTq q f).ue = s.ue := rfl
@[simp] theorem modTq_tlb (s : State) (q : Nat) (f : TaskQueue → TaskQueue) : (s.modTq q f).tlb = s.tlb := rfl
@[simp] theorem modTq_work (s : State) (q : Nat) (f : TaskQueue → TaskQueue) : (s.modTq q f).work = s.work := rfl
@[simp] theorem modTq_link (s : State) (q : Nat) (f : TaskQueue → TaskQueue) : (s.modTq q f).link = s.link := rfl
@[simp] theorem modTq_rsvacc (s : State) (q : Nat) (f : TaskQueue → TaskQueue) : (s.modTq q f).rsvacc = s.rsvacc := rfl
@[simp] theorem modTq_modid (s : State) (q : Nat) (f : TaskQueue → TaskQueue) : (s.modTq q f).modid = s.modid := rfl
@[simp] theorem modTq_clock (s : State) (q : Nat) (f : TaskQueue → TaskQueue) : (s.modTq q f).clock = s.clock := rfl
@[simp] theorem modTq_time (s : State) (q : Nat) (f : TaskQueue → TaskQueue) : (s.modTq q f).time = s.time := rfl
@[simp] theorem modTq_frac (s : State) (q : Nat) (f : TaskQueue → TaskQueue) : (s.modTq q f).frac = s.frac := rfl
@[simp] theorem modTq_cur (s : State) (q : Nat) (f : TaskQueue → TaskQueue) : (s.modTq q f).cur = s.cur := rfl
@[simp] theorem modTq_agenda (s : State) (q : Nat) (f : TaskQueue → TaskQueue) : (s.modTq q f).agenda = s.agenda := rfl
@[simp] theorem modTq_free (s : State) (q : Nat) (f : TaskQueue → TaskQueue) : (s.modTq q f).free = s.free := rfl
@[simp] theorem modTq_frees (s : State) (q : Nat) (f : TaskQueue → TaskQueue) : (s.modTq q f).frees = s.frees := rfl
@[simp] theorem modTq_ag (s : State) (q : Nat) (f : TaskQueue → TaskQueue) (j : Nat) : (s.modTq q f).ag j = s.ag j := rfl
@[simp] theorem modTq_qy (s : State) (q : Nat) (f : TaskQueue → TaskQueue) (j : Nat) : (s.modTq q f).qy j = s.qy j := rfl
@[simp] theorem modTq_die (s : State) (q : Nat) (f : TaskQueue → TaskQueue) (j : Nat) : (s.modTq q f).die j = s.die j := rfl
@[simp] theorem modTq_part (s : State) (q : Nat) (f : TaskQueue → TaskQueue) (j : Nat) : (s.modTq q f).part j = s.part j := rfl
@[simp] theorem modTq_ctx (s : State) (q : Nat) (f : TaskQueue → TaskQueue) (j : Nat) : (s.modTq q f).ctx j = s.ctx j := rfl
@[simp] theorem modTq_task (s : State) (q : Nat) (f : TaskQueue → TaskQueue) (j : Nat) : (s.modTq q f).task j = s.task j := rfl
@[simp] theorem modTq_func (s : State) (q : Nat) (f : TaskQueue → TaskQueue) (j : Nat) : (s.modTq q f).func j = s.func j := rfl

/-! ### modTask -/

@[simp] theorem modTask_agents (s : State) (k : Nat) (f : Task → Task) : (s.modTask k f).agents = s.agents := rfl
@[simp] theorem modTask_quays (s : State) (k : Nat) (f : Task → Task) : (s.modTask k f).quays = s.quays := rfl
@[simp] theorem modTask_dies (s : State) (k : Nat) (f : Task → Task) : (s.modTask k f).dies = s.dies := rfl
@[simp] theorem modTask_mem (s : State) (k : Nat) (f : Task → Task) : (s.modTask k f).mem = s.mem := rfl
@[simp] theorem modTask_poison (s : State) (k : Nat) (f : Task → Task) : (s.modTask k f).poison = s.poison := rfl
@[simp] theorem modTask_ue (s : State) (k : Nat) (f : Task → Task) : (s.modTask k f).ue = s.ue := rfl
@[simp] theorem modTask_tlb (s : State) (k : Nat) (f : Task → Task) : (s.modTask k f).tlb = s.tlb := rfl
@[simp] theorem modTask_fw (s : State) (k : Nat) (f : Task → Task) : (s.modTask k f).fw = s.fw := rfl
@[simp] theorem modTask_link (s : State) (k : Nat) (f : Task → Task) : (s.modTask k f).link = s.link := rfl
@[simp] theorem modTask_rsvacc (s : State) (k : Nat) (f : Task → Task) : (s.modTask k f).rsvacc = s.rsvacc := rfl
@[simp] theorem modTask_modid (s : State) (k : Nat) (f : Task → Task) : (s.modTask k f).modid = s.modid := rfl
@[simp] theorem modTask_clock (s : State) (k : Nat) (f : Task → Task) : (s.modTask k f).clock = s.clock := rfl
@[simp] theorem modTask_time (s : State) (k : Nat) (f : Task → Task) : (s.modTask k f).time = s.time := rfl
@[simp] theorem modTask_frac (s : State) (k : Nat) (f : Task → Task) : (s.modTask k f).frac = s.frac := rfl
@[simp] theorem modTask_cur (s : State) (k : Nat) (f : Task → Task) : (s.modTask k f).cur = s.cur := rfl
@[simp] theorem modTask_agenda (s : State) (k : Nat) (f : Task → Task) : (s.modTask k f).agenda = s.agenda := rfl
@[simp] theorem modTask_free (s : State) (k : Nat) (f : Task → Task) : (s.modTask k f).free = s.free := rfl
@[simp] theorem modTask_frees (s : State) (k : Nat) (f : Task → Task) : (s.modTask k f).frees = s.frees := rfl
@[simp] theorem modTask_ag (s : State) (k : Nat) (f : Task → Task) (j : Nat) : (s.modTask k f).ag j = s.ag j := rfl
@[simp] theorem modTask_qy (s : State) (k : Nat) (f : Task → Task) (j : Nat) : (s.modTask k f).qy j = s.qy j := rfl
@[simp] theorem modTask_die (s : State) (k : Nat) (f : Task → Task) (j : Nat) : (s.modTask k f).die j = s.die j := rfl
@[simp] theorem modTask_part (s : State) (k : Nat) (f : Task → Task) (j : Nat) : (s.modTask k f).part j = s.part j := rfl
@[simp] theorem modTask_ctx (s : State) (k : Nat) (f : Task → Task) (j : Nat) : (s.modTask k f).ctx j = s.ctx j := rfl
@[simp] theorem modTask_func (s : State) (k : Nat) (f : Task → Task) (j : Nat) : (s.modTask k f).func j = s.func j := rfl

/-! ### modLaunch -/

@[simp] theorem modLaunch_agents (s : State) (l : Nat) (f : Launch → Launch) : (s.modLaunch l f).agents = s.agents := rfl
@[simp] theorem modLaunch_quays (s : State) (l : Nat) (f : Launch → Launch) : (s.modLaunch l f).quays = s.quays := rfl
@[simp] theorem modLaunch_dies (s : State) (l : Nat) (f : Launch → Launch) : (s.modLaunch l f).dies = s.dies := rfl
@[simp] theorem modLaunch_mem (s : State) (l : Nat) (f : Launch → Launch) : (s.modLaunch l f).mem = s.mem := rfl
@[simp] theorem modLaunch_poison (s : State) (l : Nat) (f : Launch → Launch) : (s.modLaunch l f).poison = s.poison := rfl
@[simp] theorem modLaunch_ue (s : State) (l : Nat) (f : Launch → Launch) : (s.modLaunch l f).ue = s.ue := rfl
@[simp] theorem modLaunch_tlb (s : State) (l : Nat) (f : Launch → Launch) : (s.modLaunch l f).tlb = s.tlb := rfl
@[simp] theorem modLaunch_fw (s : State) (l : Nat) (f : Launch → Launch) : (s.modLaunch l f).fw = s.fw := rfl
@[simp] theorem modLaunch_link (s : State) (l : Nat) (f : Launch → Launch) : (s.modLaunch l f).link = s.link := rfl
@[simp] theorem modLaunch_rsvacc (s : State) (l : Nat) (f : Launch → Launch) : (s.modLaunch l f).rsvacc = s.rsvacc := rfl
@[simp] theorem modLaunch_modid (s : State) (l : Nat) (f : Launch → Launch) : (s.modLaunch l f).modid = s.modid := rfl
@[simp] theorem modLaunch_clock (s : State) (l : Nat) (f : Launch → Launch) : (s.modLaunch l f).clock = s.clock := rfl
@[simp] theorem modLaunch_time (s : State) (l : Nat) (f : Launch → Launch) : (s.modLaunch l f).time = s.time := rfl
@[simp] theorem modLaunch_frac (s : State) (l : Nat) (f : Launch → Launch) : (s.modLaunch l f).frac = s.frac := rfl
@[simp] theorem modLaunch_cur (s : State) (l : Nat) (f : Launch → Launch) : (s.modLaunch l f).cur = s.cur := rfl
@[simp] theorem modLaunch_agenda (s : State) (l : Nat) (f : Launch → Launch) : (s.modLaunch l f).agenda = s.agenda := rfl
@[simp] theorem modLaunch_free (s : State) (l : Nat) (f : Launch → Launch) : (s.modLaunch l f).free = s.free := rfl
@[simp] theorem modLaunch_frees (s : State) (l : Nat) (f : Launch → Launch) : (s.modLaunch l f).frees = s.frees := rfl
@[simp] theorem modLaunch_ag (s : State) (l : Nat) (f : Launch → Launch) (j : Nat) : (s.modLaunch l f).ag j = s.ag j := rfl
@[simp] theorem modLaunch_qy (s : State) (l : Nat) (f : Launch → Launch) (j : Nat) : (s.modLaunch l f).qy j = s.qy j := rfl
@[simp] theorem modLaunch_die (s : State) (l : Nat) (f : Launch → Launch) (j : Nat) : (s.modLaunch l f).die j = s.die j := rfl
@[simp] theorem modLaunch_part (s : State) (l : Nat) (f : Launch → Launch) (j : Nat) : (s.modLaunch l f).part j = s.part j := rfl
@[simp] theorem modLaunch_ctx (s : State) (l : Nat) (f : Launch → Launch) (j : Nat) : (s.modLaunch l f).ctx j = s.ctx j := rfl
@[simp] theorem modLaunch_func (s : State) (l : Nat) (f : Launch → Launch) (j : Nat) : (s.modLaunch l f).func j = s.func j := rfl

/-! ### modLink -/

@[simp] theorem modLink_agents (s : State) (f : Link → Link) : (s.modLink f).agents = s.agents := rfl
@[simp] theorem modLink_quays (s : State) (f : Link → Link) : (s.modLink f).quays = s.quays := rfl
@[simp] theorem modLink_dies (s : State) (f : Link → Link) : (s.modLink f).dies = s.dies := rfl
@[simp] theorem modLink_mem (s : State) (f : Link → Link) : (s.modLink f).mem = s.mem := rfl
@[simp] theorem modLink_poison (s : State) (f : Link → Link) : (s.modLink f).poison = s.poison := rfl
@[simp] theorem modLink_ue (s : State) (f : Link → Link) : (s.modLink f).ue = s.ue := rfl
@[simp] theorem modLink_tlb (s : State) (f : Link → Link) : (s.modLink f).tlb = s.tlb := rfl
@[simp] theorem modLink_fw (s : State) (f : Link → Link) : (s.modLink f).fw = s.fw := rfl
@[simp] theorem modLink_work (s : State) (f : Link → Link) : (s.modLink f).work = s.work := rfl
@[simp] theorem modLink_rsvacc (s : State) (f : Link → Link) : (s.modLink f).rsvacc = s.rsvacc := rfl
@[simp] theorem modLink_modid (s : State) (f : Link → Link) : (s.modLink f).modid = s.modid := rfl
@[simp] theorem modLink_clock (s : State) (f : Link → Link) : (s.modLink f).clock = s.clock := rfl
@[simp] theorem modLink_time (s : State) (f : Link → Link) : (s.modLink f).time = s.time := rfl
@[simp] theorem modLink_frac (s : State) (f : Link → Link) : (s.modLink f).frac = s.frac := rfl
@[simp] theorem modLink_cur (s : State) (f : Link → Link) : (s.modLink f).cur = s.cur := rfl
@[simp] theorem modLink_agenda (s : State) (f : Link → Link) : (s.modLink f).agenda = s.agenda := rfl
@[simp] theorem modLink_free (s : State) (f : Link → Link) : (s.modLink f).free = s.free := rfl
@[simp] theorem modLink_frees (s : State) (f : Link → Link) : (s.modLink f).frees = s.frees := rfl
@[simp] theorem modLink_ag (s : State) (f : Link → Link) (j : Nat) : (s.modLink f).ag j = s.ag j := rfl
@[simp] theorem modLink_qy (s : State) (f : Link → Link) (j : Nat) : (s.modLink f).qy j = s.qy j := rfl
@[simp] theorem modLink_die (s : State) (f : Link → Link) (j : Nat) : (s.modLink f).die j = s.die j := rfl
@[simp] theorem modLink_part (s : State) (f : Link → Link) (j : Nat) : (s.modLink f).part j = s.part j := rfl
@[simp] theorem modLink_ctx (s : State) (f : Link → Link) (j : Nat) : (s.modLink f).ctx j = s.ctx j := rfl
@[simp] theorem modLink_task (s : State) (f : Link → Link) (j : Nat) : (s.modLink f).task j = s.task j := rfl
@[simp] theorem modLink_func (s : State) (f : Link → Link) (j : Nat) : (s.modLink f).func j = s.func j := rfl

/-! ### useFree -/

@[simp] theorem useFree_agents (s : State) : (s.useFree).agents = s.agents := rfl
@[simp] theorem useFree_quays (s : State) : (s.useFree).quays = s.quays := rfl
@[simp] theorem useFree_dies (s : State) : (s.useFree).dies = s.dies := rfl
@[simp] theorem useFree_mem (s : State) : (s.useFree).mem = s.mem := rfl
@[simp] theorem useFree_poison (s : State) : (s.useFree).poison = s.poison := rfl
@[simp] theorem useFree_ue (s : State) : (s.useFree).ue = s.ue := rfl
@[simp] theorem useFree_tlb (s : State) : (s.useFree).tlb = s.tlb := rfl
@[simp] theorem useFree_fw (s : State) : (s.useFree).fw = s.fw := rfl
@[simp] theorem useFree_work (s : State) : (s.useFree).work = s.work := rfl
@[simp] theorem useFree_link (s : State) : (s.useFree).link = s.link := rfl
@[simp] theorem useFree_rsvacc (s : State) : (s.useFree).rsvacc = s.rsvacc := rfl
@[simp] theorem useFree_modid (s : State) : (s.useFree).modid = s.modid := rfl
@[simp] theorem useFree_clock (s : State) : (s.useFree).clock = s.clock := rfl
@[simp] theorem useFree_time (s : State) : (s.useFree).time = s.time := rfl
@[simp] theorem useFree_frac (s : State) : (s.useFree).frac = s.frac := rfl
@[simp] theorem useFree_cur (s : State) : (s.useFree).cur = s.cur := rfl
@[simp] theorem useFree_agenda (s : State) : (s.useFree).agenda = s.agenda := rfl
@[simp] theorem useFree_frees (s : State) : (s.useFree).frees = s.frees := rfl
@[simp] theorem useFree_ag (s : State) (j : Nat) : (s.useFree).ag j = s.ag j := rfl
@[simp] theorem useFree_qy (s : State) (j : Nat) : (s.useFree).qy j = s.qy j := rfl
@[simp] theorem useFree_die (s : State) (j : Nat) : (s.useFree).die j = s.die j := rfl
@[simp] theorem useFree_part (s : State) (j : Nat) : (s.useFree).part j = s.part j := rfl
@[simp] theorem useFree_ctx (s : State) (j : Nat) : (s.useFree).ctx j = s.ctx j := rfl
@[simp] theorem useFree_task (s : State) (j : Nat) : (s.useFree).task j = s.task j := rfl
@[simp] theorem useFree_func (s : State) (j : Nat) : (s.useFree).func j = s.func j := rfl

/-! ### useFreeOf -/

@[simp] theorem useFreeOf_agents (s : State) (c : Nat) : (s.useFreeOf c).agents = s.agents := rfl
@[simp] theorem useFreeOf_quays (s : State) (c : Nat) : (s.useFreeOf c).quays = s.quays := rfl
@[simp] theorem useFreeOf_dies (s : State) (c : Nat) : (s.useFreeOf c).dies = s.dies := rfl
@[simp] theorem useFreeOf_mem (s : State) (c : Nat) : (s.useFreeOf c).mem = s.mem := rfl
@[simp] theorem useFreeOf_poison (s : State) (c : Nat) : (s.useFreeOf c).poison = s.poison := rfl
@[simp] theorem useFreeOf_ue (s : State) (c : Nat) : (s.useFreeOf c).ue = s.ue := rfl
@[simp] theorem useFreeOf_tlb (s : State) (c : Nat) : (s.useFreeOf c).tlb = s.tlb := rfl
@[simp] theorem useFreeOf_fw (s : State) (c : Nat) : (s.useFreeOf c).fw = s.fw := rfl
@[simp] theorem useFreeOf_work (s : State) (c : Nat) : (s.useFreeOf c).work = s.work := rfl
@[simp] theorem useFreeOf_link (s : State) (c : Nat) : (s.useFreeOf c).link = s.link := rfl
@[simp] theorem useFreeOf_rsvacc (s : State) (c : Nat) : (s.useFreeOf c).rsvacc = s.rsvacc := rfl
@[simp] theorem useFreeOf_modid (s : State) (c : Nat) : (s.useFreeOf c).modid = s.modid := rfl
@[simp] theorem useFreeOf_clock (s : State) (c : Nat) : (s.useFreeOf c).clock = s.clock := rfl
@[simp] theorem useFreeOf_time (s : State) (c : Nat) : (s.useFreeOf c).time = s.time := rfl
@[simp] theorem useFreeOf_frac (s : State) (c : Nat) : (s.useFreeOf c).frac = s.frac := rfl
@[simp] theorem useFreeOf_cur (s : State) (c : Nat) : (s.useFreeOf c).cur = s.cur := rfl
@[simp] theorem useFreeOf_agenda (s : State) (c : Nat) : (s.useFreeOf c).agenda = s.agenda := rfl
@[simp] theorem useFreeOf_free (s : State) (c : Nat) : (s.useFreeOf c).free = s.free := rfl
@[simp] theorem useFreeOf_ag (s : State) (c : Nat) (j : Nat) : (s.useFreeOf c).ag j = s.ag j := rfl
@[simp] theorem useFreeOf_qy (s : State) (c : Nat) (j : Nat) : (s.useFreeOf c).qy j = s.qy j := rfl
@[simp] theorem useFreeOf_die (s : State) (c : Nat) (j : Nat) : (s.useFreeOf c).die j = s.die j := rfl
@[simp] theorem useFreeOf_part (s : State) (c : Nat) (j : Nat) : (s.useFreeOf c).part j = s.part j := rfl
@[simp] theorem useFreeOf_ctx (s : State) (c : Nat) (j : Nat) : (s.useFreeOf c).ctx j = s.ctx j := rfl
@[simp] theorem useFreeOf_task (s : State) (c : Nat) (j : Nat) : (s.useFreeOf c).task j = s.task j := rfl
@[simp] theorem useFreeOf_func (s : State) (c : Nat) (j : Nat) : (s.useFreeOf c).func j = s.func j := rfl

/-! ### countRsv -/

@[simp] theorem countRsv_agents (s : State) : (s.countRsv).agents = s.agents := rfl
@[simp] theorem countRsv_quays (s : State) : (s.countRsv).quays = s.quays := rfl
@[simp] theorem countRsv_dies (s : State) : (s.countRsv).dies = s.dies := rfl
@[simp] theorem countRsv_mem (s : State) : (s.countRsv).mem = s.mem := rfl
@[simp] theorem countRsv_poison (s : State) : (s.countRsv).poison = s.poison := rfl
@[simp] theorem countRsv_ue (s : State) : (s.countRsv).ue = s.ue := rfl
@[simp] theorem countRsv_tlb (s : State) : (s.countRsv).tlb = s.tlb := rfl
@[simp] theorem countRsv_fw (s : State) : (s.countRsv).fw = s.fw := rfl
@[simp] theorem countRsv_work (s : State) : (s.countRsv).work = s.work := rfl
@[simp] theorem countRsv_link (s : State) : (s.countRsv).link = s.link := rfl
@[simp] theorem countRsv_modid (s : State) : (s.countRsv).modid = s.modid := rfl
@[simp] theorem countRsv_clock (s : State) : (s.countRsv).clock = s.clock := rfl
@[simp] theorem countRsv_time (s : State) : (s.countRsv).time = s.time := rfl
@[simp] theorem countRsv_frac (s : State) : (s.countRsv).frac = s.frac := rfl
@[simp] theorem countRsv_cur (s : State) : (s.countRsv).cur = s.cur := rfl
@[simp] theorem countRsv_agenda (s : State) : (s.countRsv).agenda = s.agenda := rfl
@[simp] theorem countRsv_free (s : State) : (s.countRsv).free = s.free := rfl
@[simp] theorem countRsv_frees (s : State) : (s.countRsv).frees = s.frees := rfl
@[simp] theorem countRsv_ag (s : State) (j : Nat) : (s.countRsv).ag j = s.ag j := rfl
@[simp] theorem countRsv_qy (s : State) (j : Nat) : (s.countRsv).qy j = s.qy j := rfl
@[simp] theorem countRsv_die (s : State) (j : Nat) : (s.countRsv).die j = s.die j := rfl
@[simp] theorem countRsv_part (s : State) (j : Nat) : (s.countRsv).part j = s.part j := rfl
@[simp] theorem countRsv_ctx (s : State) (j : Nat) : (s.countRsv).ctx j = s.ctx j := rfl
@[simp] theorem countRsv_task (s : State) (j : Nat) : (s.countRsv).task j = s.task j := rfl
@[simp] theorem countRsv_func (s : State) (j : Nat) : (s.countRsv).func j = s.func j := rfl

/-! ### Reading back -/

@[simp] theorem setAg_ag_self (s : State) (g : Nat) (x : Agent) : (s.setAg g x).ag g = x := Assoc.get_set_self _ _ _ _
theorem setAg_ag_ne (s : State) (g : Nat) (x : Agent) {j : Nat} (h : j ≠ g) : (s.setAg g x).ag j = s.ag j := Assoc.get_set_ne _ _ _ h
@[simp] theorem modAg_ag_self (s : State) (g : Nat) (f : Agent → Agent) : (s.modAg g f).ag g = f (s.ag g) := Assoc.get_set_self _ _ _ _
theorem modAg_ag_ne (s : State) (g : Nat) (f : Agent → Agent) {j : Nat} (h : j ≠ g) : (s.modAg g f).ag j = s.ag j := Assoc.get_set_ne _ _ _ h
@[simp] theorem modQy_qy_self (s : State) (g : Nat) (f : Quay → Quay) : (s.modQy g f).qy g = f (s.qy g) := Assoc.get_set_self _ _ _ _
theorem modQy_qy_ne (s : State) (g : Nat) (f : Quay → Quay) {j : Nat} (h : j ≠ g) : (s.modQy g f).qy j = s.qy j := Assoc.get_set_ne _ _ _ h
@[simp] theorem modDie_die_self (s : State) (g : Nat) (f : Die → Die) : (s.modDie g f).die g = f (s.die g) := Assoc.get_set_self _ _ _ _
theorem modDie_die_ne (s : State) (g : Nat) (f : Die → Die) {j : Nat} (h : j ≠ g) : (s.modDie g f).die j = s.die j := Assoc.get_set_ne _ _ _ h
@[simp] theorem modPart_part_self (s : State) (g : Nat) (f : Part → Part) : (s.modPart g f).part g = f (s.part g) := Assoc.get_set_self _ _ _ _
theorem modPart_part_ne (s : State) (g : Nat) (f : Part → Part) {j : Nat} (h : j ≠ g) : (s.modPart g f).part j = s.part j := Assoc.get_set_ne _ _ _ h
@[simp] theorem modCtx_ctx_self (s : State) (g : Nat) (f : Ctx → Ctx) : (s.modCtx g f).ctx g = f (s.ctx g) := Assoc.get_set_self _ _ _ _
theorem modCtx_ctx_ne (s : State) (g : Nat) (f : Ctx → Ctx) {j : Nat} (h : j ≠ g) : (s.modCtx g f).ctx j = s.ctx j := Assoc.get_set_ne _ _ _ h
@[simp] theorem modFunc_func_self (s : State) (g : Nat) (f : Func → Func) : (s.modFunc g f).func g = f (s.func g) := Assoc.get_set_self _ _ _ _
theorem modFunc_func_ne (s : State) (g : Nat) (f : Func → Func) {j : Nat} (h : j ≠ g) : (s.modFunc g f).func j = s.func j := Assoc.get_set_ne _ _ _ h
@[simp] theorem modTask_task_self (s : State) (g : Nat) (f : Task → Task) : (s.modTask g f).task g = f (s.task g) := Assoc.get_set_self _ _ _ _
theorem modTask_task_ne (s : State) (g : Nat) (f : Task → Task) {j : Nat} (h : j ≠ g) : (s.modTask g f).task j = s.task j := Assoc.get_set_ne _ _ _ h
@[simp] theorem modLaunch_launch_self (s : State) (g : Nat) (f : Launch → Launch) : (s.modLaunch g f).launch g = f (s.launch g) := Assoc.get_set_self _ _ _ _
theorem modLaunch_launch_ne (s : State) (g : Nat) (f : Launch → Launch) {j : Nat} (h : j ≠ g) : (s.modLaunch g f).launch j = s.launch j := Assoc.get_set_ne _ _ _ h
@[simp] theorem modLq_lq_self (s : State) (g : Nat) (f : LaunchQueue → LaunchQueue) : (s.modLq g f).lq g = f (s.lq g) := Assoc.get_set_self _ _ _ _
theorem modLq_lq_ne (s : State) (g : Nat) (f : LaunchQueue → LaunchQueue) {j : Nat} (h : j ≠ g) : (s.modLq g f).lq j = s.lq j := Assoc.get_set_ne _ _ _ h
@[simp] theorem modTq_tq_self (s : State) (g : Nat) (f : TaskQueue → TaskQueue) : (s.modTq g f).tq g = f (s.tq g) := Assoc.get_set_self _ _ _ _
theorem modTq_tq_ne (s : State) (g : Nat) (f : TaskQueue → TaskQueue) {j : Nat} (h : j ≠ g) : (s.modTq g f).tq j = s.tq j := Assoc.get_set_ne _ _ _ h

@[simp] theorem modLink_link (s : State) (f : Link → Link) : (s.modLink f).link = f s.link := rfl
@[simp] theorem useFree_free (s : State) : s.useFree.free = s.free + 1 := rfl
@[simp] theorem countRsv_rsvacc (s : State) : s.countRsv.rsvacc = s.rsvacc + 1 := rfl
@[simp] theorem useFreeOf_self (s : State) (c : Nat) : Assoc.get 0 c (s.useFreeOf c).frees = Assoc.get 0 c s.frees + 1 := Assoc.get_set_self _ _ _ _
@[simp] theorem useFreeOf_freeOf_ne (s : State) (c : Nat) {j : Nat} (h : j ≠ c) : (s.useFreeOf c).freeOf j = s.freeOf j := by
  simp [State.useFreeOf, State.freeOf, Assoc.get_set_ne _ _ _ h]

/-! ### Updates after updates -/

@[simp] theorem setAg_setAg (s : State) (g : Nat) (x y : Agent) : (s.setAg g x).setAg g y = s.setAg g y := by
  simp [State.setAg, assoc_set_set]
@[simp] theorem modAg_modAg (s : State) (g : Nat) (f h : Agent → Agent) : (s.modAg g f).modAg g h = s.modAg g (fun x => h (f x)) := by
  simp [State.modAg]
@[simp] theorem modAg_setAg (s : State) (g : Nat) (x : Agent) (h : Agent → Agent) : (s.setAg g x).modAg g h = s.setAg g (h x) := by
  simp [State.modAg]
@[simp] theorem setTile_tile (s : State) (q : Nat) (t : TileState) : (s.setTile q t).tile q = t := by
  simp [State.tile, State.setTile]

/-! ### Registers of an agent -/

@[simp] theorem rs_zero (a : Agent) : a.rs 0 = 0 := by simp [Agent.rs]
theorem ws_rs (a : Agent) (d r : Fin 32) (v : Word) : (a.ws d v).rs r = if r = d ∧ d ≠ 0 then v else a.rs r := by
  unfold Agent.ws Agent.rs
  by_cases hd : d = 0
  · simp [hd]
  · by_cases hr : r = 0
    · subst hr; simp [Ne.symm hd]
    · by_cases e : r = d
      · subst e; simp [hr]
      · have : d.val ≠ r.val := fun h => e (Fin.ext h).symm
        simp [hd, hr, e, this]
theorem wa_ra (a : Agent) (d r : Fin 16) (v : Addr) : (a.wa d v).ra r = if r = d then v else a.ra r := by
  unfold Agent.wa Agent.ra
  by_cases e : r = d
  · subst e; simp
  · have : d.val ≠ r.val := fun h => e (Fin.ext h).symm
    simp [e, this]
@[simp] theorem wa_status (a : Agent) (d : Fin 16) (v : Addr) : (a.wa d v).status = a.status := rfl
@[simp] theorem wa_trap (a : Agent) (d : Fin 16) (v : Addr) : (a.wa d v).trap = a.trap := rfl
@[simp] theorem wa_strip (a : Agent) (d : Fin 16) (v : Addr) : (a.wa d v).strip = a.strip := rfl
@[simp] theorem wa_vec (a : Agent) (d : Fin 16) (v : Addr) : (a.wa d v).vec = a.vec := rfl
@[simp] theorem wa_fp (a : Agent) (d : Fin 16) (v : Addr) : (a.wa d v).fp = a.fp := rfl
@[simp] theorem wa_task (a : Agent) (d : Fin 16) (v : Addr) : (a.wa d v).task = a.task := rfl
@[simp] theorem wa_mem (a : Agent) (d : Fin 16) (v : Addr) : (a.wa d v).mem = a.mem := rfl
@[simp] theorem wa_trace (a : Agent) (d : Fin 16) (v : Addr) : (a.wa d v).trace = a.trace := rfl
@[simp] theorem wa_errs (a : Agent) (d : Fin 16) (v : Addr) : (a.wa d v).errs = a.errs := rfl
@[simp] theorem wa_marks (a : Agent) (d : Fin 16) (v : Addr) : (a.wa d v).marks = a.marks := rfl
@[simp] theorem wa_part (a : Agent) (d : Fin 16) (v : Addr) : (a.wa d v).part = a.part := rfl
@[simp] theorem wa_ctx (a : Agent) (d : Fin 16) (v : Addr) : (a.wa d v).ctx = a.ctx := rfl
@[simp] theorem wa_tkey (a : Agent) (d : Fin 16) (v : Addr) : (a.wa d v).tkey = a.tkey := rfl
@[simp] theorem setPc_status (a : Agent) (v : Word) : (a.setPc v).status = a.status := rfl
@[simp] theorem setPc_trap (a : Agent) (v : Word) : (a.setPc v).trap = a.trap := rfl
@[simp] theorem setPc_strip (a : Agent) (v : Word) : (a.setPc v).strip = a.strip := rfl
@[simp] theorem setPc_vec (a : Agent) (v : Word) : (a.setPc v).vec = a.vec := rfl
@[simp] theorem setPc_fp (a : Agent) (v : Word) : (a.setPc v).fp = a.fp := rfl
@[simp] theorem setPc_task (a : Agent) (v : Word) : (a.setPc v).task = a.task := rfl
@[simp] theorem setPc_mem (a : Agent) (v : Word) : (a.setPc v).mem = a.mem := rfl
@[simp] theorem setPc_trace (a : Agent) (v : Word) : (a.setPc v).trace = a.trace := rfl
@[simp] theorem setPc_errs (a : Agent) (v : Word) : (a.setPc v).errs = a.errs := rfl
@[simp] theorem setPc_marks (a : Agent) (v : Word) : (a.setPc v).marks = a.marks := rfl
@[simp] theorem setPc_part (a : Agent) (v : Word) : (a.setPc v).part = a.part := rfl
@[simp] theorem setPc_ctx (a : Agent) (v : Word) : (a.setPc v).ctx = a.ctx := rfl
@[simp] theorem setPc_tkey (a : Agent) (v : Word) : (a.setPc v).tkey = a.tkey := rfl
@[simp] theorem modStrip_status (a : Agent) (f : Strip → Strip) : (a.modStrip f).status = a.status := rfl
@[simp] theorem modStrip_regs (a : Agent) (f : Strip → Strip) : (a.modStrip f).regs = a.regs := rfl
@[simp] theorem modStrip_trap (a : Agent) (f : Strip → Strip) : (a.modStrip f).trap = a.trap := rfl
@[simp] theorem modStrip_vec (a : Agent) (f : Strip → Strip) : (a.modStrip f).vec = a.vec := rfl
@[simp] theorem modStrip_fp (a : Agent) (f : Strip → Strip) : (a.modStrip f).fp = a.fp := rfl
@[simp] theorem modStrip_task (a : Agent) (f : Strip → Strip) : (a.modStrip f).task = a.task := rfl
@[simp] theorem modStrip_mem (a : Agent) (f : Strip → Strip) : (a.modStrip f).mem = a.mem := rfl
@[simp] theorem modStrip_trace (a : Agent) (f : Strip → Strip) : (a.modStrip f).trace = a.trace := rfl
@[simp] theorem modStrip_errs (a : Agent) (f : Strip → Strip) : (a.modStrip f).errs = a.errs := rfl
@[simp] theorem modStrip_marks (a : Agent) (f : Strip → Strip) : (a.modStrip f).marks = a.marks := rfl
@[simp] theorem modStrip_part (a : Agent) (f : Strip → Strip) : (a.modStrip f).part = a.part := rfl
@[simp] theorem modStrip_ctx (a : Agent) (f : Strip → Strip) : (a.modStrip f).ctx = a.ctx := rfl
@[simp] theorem modStrip_tkey (a : Agent) (f : Strip → Strip) : (a.modStrip f).tkey = a.tkey := rfl
@[simp] theorem modTrap_status (a : Agent) (f : TrapRegs → TrapRegs) : (a.modTrap f).status = a.status := rfl
@[simp] theorem modTrap_regs (a : Agent) (f : TrapRegs → TrapRegs) : (a.modTrap f).regs = a.regs := rfl
@[simp] theorem modTrap_strip (a : Agent) (f : TrapRegs → TrapRegs) : (a.modTrap f).strip = a.strip := rfl
@[simp] theorem modTrap_vec (a : Agent) (f : TrapRegs → TrapRegs) : (a.modTrap f).vec = a.vec := rfl
@[simp] theorem modTrap_fp (a : Agent) (f : TrapRegs → TrapRegs) : (a.modTrap f).fp = a.fp := rfl
@[simp] theorem modTrap_task (a : Agent) (f : TrapRegs → TrapRegs) : (a.modTrap f).task = a.task := rfl
@[simp] theorem modTrap_mem (a : Agent) (f : TrapRegs → TrapRegs) : (a.modTrap f).mem = a.mem := rfl
@[simp] theorem modTrap_trace (a : Agent) (f : TrapRegs → TrapRegs) : (a.modTrap f).trace = a.trace := rfl
@[simp] theorem modTrap_errs (a : Agent) (f : TrapRegs → TrapRegs) : (a.modTrap f).errs = a.errs := rfl
@[simp] theorem modTrap_marks (a : Agent) (f : TrapRegs → TrapRegs) : (a.modTrap f).marks = a.marks := rfl
@[simp] theorem modTrap_part (a : Agent) (f : TrapRegs → TrapRegs) : (a.modTrap f).part = a.part := rfl
@[simp] theorem modTrap_ctx (a : Agent) (f : TrapRegs → TrapRegs) : (a.modTrap f).ctx = a.ctx := rfl
@[simp] theorem modTrap_tkey (a : Agent) (f : TrapRegs → TrapRegs) : (a.modTrap f).tkey = a.tkey := rfl
@[simp] theorem modVec_status (a : Agent) (f : VecFile → VecFile) : (a.modVec f).status = a.status := rfl
@[simp] theorem modVec_regs (a : Agent) (f : VecFile → VecFile) : (a.modVec f).regs = a.regs := rfl
@[simp] theorem modVec_trap (a : Agent) (f : VecFile → VecFile) : (a.modVec f).trap = a.trap := rfl
@[simp] theorem modVec_strip (a : Agent) (f : VecFile → VecFile) : (a.modVec f).strip = a.strip := rfl
@[simp] theorem modVec_fp (a : Agent) (f : VecFile → VecFile) : (a.modVec f).fp = a.fp := rfl
@[simp] theorem modVec_task (a : Agent) (f : VecFile → VecFile) : (a.modVec f).task = a.task := rfl
@[simp] theorem modVec_mem (a : Agent) (f : VecFile → VecFile) : (a.modVec f).mem = a.mem := rfl
@[simp] theorem modVec_trace (a : Agent) (f : VecFile → VecFile) : (a.modVec f).trace = a.trace := rfl
@[simp] theorem modVec_errs (a : Agent) (f : VecFile → VecFile) : (a.modVec f).errs = a.errs := rfl
@[simp] theorem modVec_marks (a : Agent) (f : VecFile → VecFile) : (a.modVec f).marks = a.marks := rfl
@[simp] theorem modVec_part (a : Agent) (f : VecFile → VecFile) : (a.modVec f).part = a.part := rfl
@[simp] theorem modVec_ctx (a : Agent) (f : VecFile → VecFile) : (a.modVec f).ctx = a.ctx := rfl
@[simp] theorem modVec_tkey (a : Agent) (f : VecFile → VecFile) : (a.modVec f).tkey = a.tkey := rfl
@[simp] theorem flag_status (a : Agent) (f : Flags) : (a.flag f).status = a.status := rfl
@[simp] theorem flag_regs (a : Agent) (f : Flags) : (a.flag f).regs = a.regs := rfl
@[simp] theorem flag_trap (a : Agent) (f : Flags) : (a.flag f).trap = a.trap := rfl
@[simp] theorem flag_strip (a : Agent) (f : Flags) : (a.flag f).strip = a.strip := rfl
@[simp] theorem flag_vec (a : Agent) (f : Flags) : (a.flag f).vec = a.vec := rfl
@[simp] theorem flag_task (a : Agent) (f : Flags) : (a.flag f).task = a.task := rfl
@[simp] theorem flag_mem (a : Agent) (f : Flags) : (a.flag f).mem = a.mem := rfl
@[simp] theorem flag_trace (a : Agent) (f : Flags) : (a.flag f).trace = a.trace := rfl
@[simp] theorem flag_errs (a : Agent) (f : Flags) : (a.flag f).errs = a.errs := rfl
@[simp] theorem flag_marks (a : Agent) (f : Flags) : (a.flag f).marks = a.marks := rfl
@[simp] theorem flag_part (a : Agent) (f : Flags) : (a.flag f).part = a.part := rfl
@[simp] theorem flag_ctx (a : Agent) (f : Flags) : (a.flag f).ctx = a.ctx := rfl
@[simp] theorem flag_tkey (a : Agent) (f : Flags) : (a.flag f).tkey = a.tkey := rfl
@[simp] theorem branchRecord_status (a : Agent) (p t : Word) (k : Nat) : (a.branchRecord p t k).status = a.status := rfl
@[simp] theorem branchRecord_regs (a : Agent) (p t : Word) (k : Nat) : (a.branchRecord p t k).regs = a.regs := rfl
@[simp] theorem branchRecord_trap (a : Agent) (p t : Word) (k : Nat) : (a.branchRecord p t k).trap = a.trap := rfl
@[simp] theorem branchRecord_strip (a : Agent) (p t : Word) (k : Nat) : (a.branchRecord p t k).strip = a.strip := rfl
@[simp] theorem branchRecord_vec (a : Agent) (p t : Word) (k : Nat) : (a.branchRecord p t k).vec = a.vec := rfl
@[simp] theorem branchRecord_fp (a : Agent) (p t : Word) (k : Nat) : (a.branchRecord p t k).fp = a.fp := rfl
@[simp] theorem branchRecord_task (a : Agent) (p t : Word) (k : Nat) : (a.branchRecord p t k).task = a.task := rfl
@[simp] theorem branchRecord_mem (a : Agent) (p t : Word) (k : Nat) : (a.branchRecord p t k).mem = a.mem := rfl
@[simp] theorem branchRecord_errs (a : Agent) (p t : Word) (k : Nat) : (a.branchRecord p t k).errs = a.errs := rfl
@[simp] theorem branchRecord_marks (a : Agent) (p t : Word) (k : Nat) : (a.branchRecord p t k).marks = a.marks := rfl
@[simp] theorem branchRecord_part (a : Agent) (p t : Word) (k : Nat) : (a.branchRecord p t k).part = a.part := rfl
@[simp] theorem branchRecord_ctx (a : Agent) (p t : Word) (k : Nat) : (a.branchRecord p t k).ctx = a.ctx := rfl
@[simp] theorem branchRecord_tkey (a : Agent) (p t : Word) (k : Nat) : (a.branchRecord p t k).tkey = a.tkey := rfl
@[simp] theorem ws_status (a : Agent) (d : Fin 32) (v : Word) : (a.ws d v).status = a.status := by unfold Agent.ws; split <;> rfl
@[simp] theorem ws_trap (a : Agent) (d : Fin 32) (v : Word) : (a.ws d v).trap = a.trap := by unfold Agent.ws; split <;> rfl
@[simp] theorem ws_strip (a : Agent) (d : Fin 32) (v : Word) : (a.ws d v).strip = a.strip := by unfold Agent.ws; split <;> rfl
@[simp] theorem ws_vec (a : Agent) (d : Fin 32) (v : Word) : (a.ws d v).vec = a.vec := by unfold Agent.ws; split <;> rfl
@[simp] theorem ws_fp (a : Agent) (d : Fin 32) (v : Word) : (a.ws d v).fp = a.fp := by unfold Agent.ws; split <;> rfl
@[simp] theorem ws_task (a : Agent) (d : Fin 32) (v : Word) : (a.ws d v).task = a.task := by unfold Agent.ws; split <;> rfl
@[simp] theorem ws_mem (a : Agent) (d : Fin 32) (v : Word) : (a.ws d v).mem = a.mem := by unfold Agent.ws; split <;> rfl
@[simp] theorem ws_trace (a : Agent) (d : Fin 32) (v : Word) : (a.ws d v).trace = a.trace := by unfold Agent.ws; split <;> rfl
@[simp] theorem ws_errs (a : Agent) (d : Fin 32) (v : Word) : (a.ws d v).errs = a.errs := by unfold Agent.ws; split <;> rfl
@[simp] theorem ws_marks (a : Agent) (d : Fin 32) (v : Word) : (a.ws d v).marks = a.marks := by unfold Agent.ws; split <;> rfl
@[simp] theorem ws_part (a : Agent) (d : Fin 32) (v : Word) : (a.ws d v).part = a.part := by unfold Agent.ws; split <;> rfl
@[simp] theorem ws_ctx (a : Agent) (d : Fin 32) (v : Word) : (a.ws d v).ctx = a.ctx := by unfold Agent.ws; split <;> rfl
@[simp] theorem ws_tkey (a : Agent) (d : Fin 32) (v : Word) : (a.ws d v).tkey = a.tkey := by unfold Agent.ws; split <;> rfl
@[simp] theorem ws_regs_a (a : Agent) (d : Fin 32) (v : Word) : (a.ws d v).regs.a = a.regs.a := by unfold Agent.ws; split <;> rfl
@[simp] theorem ws_regs_pc (a : Agent) (d : Fin 32) (v : Word) : (a.ws d v).regs.pc = a.regs.pc := by unfold Agent.ws; split <;> rfl
@[simp] theorem ws_regs_pfx (a : Agent) (d : Fin 32) (v : Word) : (a.ws d v).regs.pfx = a.regs.pfx := by unfold Agent.ws; split <;> rfl
@[simp] theorem ws_regs_instret (a : Agent) (d : Fin 32) (v : Word) : (a.ws d v).regs.instret = a.regs.instret := by unfold Agent.ws; split <;> rfl

end Sys2Proof.Machine
end

