-- ==== Sys2Proof/Laws/Memory.lean ====
section
/-! SUPPORT. The memories: reading after writing, and that every memory operation keeps the canonical form. -/

namespace Sys2Proof.Machine

/-! ### One memory -/

theorem Mem.get_below {f : Nat → Byte} {d : Byte} : ∀ {lo : Nat} {m : Mem} {a : Nat}, Mem.wfFrom f lo m = true → a < lo → Mem.get d m a = d := by
  intro lo m
  induction m generalizing lo with
  | nil => intros; rfl
  | cons c t ih =>
    intro a h ha
    simp only [Mem.wfFrom, Bool.and_eq_true, decide_eq_true_eq] at h
    have : c.1 ≠ a := by omega
    have h2 : a < c.1 := by omega
    simp [Mem.get, this, h2]

theorem Mem.wfFrom_mono {f : Nat → Byte} {lo lo' : Nat} {m : Mem} (h : Mem.wfFrom f lo m = true) (le : lo' ≤ lo) :
    Mem.wfFrom f lo' m = true := by
  cases m with
  | nil => rfl
  | cons c t =>
    simp only [Mem.wfFrom, Bool.and_eq_true, decide_eq_true_eq] at h ⊢
    exact ⟨⟨by omega, h.1.2⟩, h.2⟩

/-- A write keeps the canonical form. -/
theorem Mem.wfFrom_set (f : Nat → Byte) (a : Nat) (b : Byte) : ∀ (lo : Nat) (m : Mem), Mem.wfFrom f lo m = true → lo ≤ a →
    Mem.wfFrom f lo (Mem.set (f a) m a b) = true := by
  intro lo m
  induction m generalizing lo with
  | nil =>
    intro _ ha
    by_cases hb : b = f a <;> simp [Mem.set, Mem.wfFrom, hb, ha]
  | cons c t ih =>
    intro h ha
    have h0 := h
    simp only [Mem.wfFrom, Bool.and_eq_true, decide_eq_true_eq] at h
    obtain ⟨⟨h1, h2⟩, h3⟩ := h
    unfold Mem.set
    split
    · next lt =>
      by_cases hb : b = f a
      · simp [hb, h0]
      · simp only [if_neg hb, Mem.wfFrom, Bool.and_eq_true, decide_eq_true_eq]
        exact ⟨⟨ha, hb⟩, ⟨by omega, h2⟩, h3⟩
    · next nlt =>
      split
      · next e =>
        by_cases hb : b = f a
        · simp only [if_pos hb]; exact Mem.wfFrom_mono h3 (by omega)
        · simp only [if_neg hb, Mem.wfFrom, Bool.and_eq_true, decide_eq_true_eq]
          exact ⟨⟨ha, hb⟩, by rw [e]; exact h3⟩
      · next ne =>
        simp only [Mem.wfFrom, Bool.and_eq_true, decide_eq_true_eq]
        exact ⟨⟨h1, h2⟩, ih (c.1 + 1) h3 (by omega)⟩

theorem Memory.wf_set (m : Mem) (a : Nat) (b : Byte) (h : Memory.wf m = true) : Memory.wf (Mem.set 0 m a b) = true :=
  Mem.wfFrom_set zeroByte a b 0 m h (Nat.zero_le _)

theorem Quay.wf_set (y : Quay) (a : Nat) (b : Byte) (h : Quay.wf y = true) :
    Quay.wf { y with wharf := Mem.set (y.blank a) y.wharf a b } = true :=
  Mem.wfFrom_set y.blank a b 0 y.wharf h (Nat.zero_le _)

/-- A read after a write to the same address. -/
theorem Mem.get_set_self (f : Nat → Byte) (a : Nat) (b : Byte) : ∀ (lo : Nat) (m : Mem), Mem.wfFrom f lo m = true →
    Mem.get (f a) (Mem.set (f a) m a b) a = b := by
  intro lo m
  induction m generalizing lo with
  | nil => intro _; by_cases hb : b = f a <;> simp [Mem.set, Mem.get, hb]
  | cons c t ih =>
    intro h
    simp only [Mem.wfFrom, Bool.and_eq_true, decide_eq_true_eq] at h
    obtain ⟨⟨h1, h2⟩, h3⟩ := h
    unfold Mem.set
    split
    · next lt =>
      by_cases hb : b = f a
      · have : c.1 ≠ a := by omega
        simp [hb, Mem.get, this, lt]
      · simp [hb, Mem.get]
    · split
      · next e =>
        by_cases hb : b = f a
        · simp only [if_pos hb]; rw [Mem.get_below h3 (by omega)]; exact hb.symm
        · simp [hb, Mem.get]
      · next nlt ne =>
        have : c.1 ≠ a := fun e => ne e.symm
        have : ¬ a < c.1 := nlt
        simp [Mem.get, *]
        exact ih (c.1 + 1) h3

/-- A write leaves every other address alone. -/
theorem Mem.get_set_ne (f : Nat → Byte) (d : Byte) (a j : Nat) (b : Byte) (hj : j ≠ a) : ∀ (lo : Nat) (m : Mem), Mem.wfFrom f lo m = true →
    Mem.get d (Mem.set (f a) m a b) j = Mem.get d m j := by
  intro lo m
  induction m generalizing lo with
  | nil =>
    intro _
    by_cases hb : b = f a
    · simp [Mem.set, hb]
    · have : a ≠ j := Ne.symm hj
      simp [Mem.set, hb, Mem.get, this]
  | cons c t ih =>
    intro h
    simp only [Mem.wfFrom, Bool.and_eq_true, decide_eq_true_eq] at h
    obtain ⟨⟨h1, h2⟩, h3⟩ := h
    have haj : a ≠ j := Ne.symm hj
    unfold Mem.set
    split
    · next lt =>
      by_cases hb : b = f a
      · simp [hb]
      · simp only [if_neg hb]
        rw [Mem.get.eq_2]
        simp only [if_neg haj]
        split
        · next l2 =>
          have h4 : c.1 ≠ j := by omega
          have h5 : j < c.1 := by omega
          simp [Mem.get, h4, h5]
        · rfl
    · split
      · next e =>
        by_cases hb : b = f a
        · simp only [if_pos hb]
          have h4 : c.1 ≠ j := by omega
          rw [Mem.get.eq_2, if_neg h4]
          split
          · next l2 => exact Mem.get_below h3 (by omega)
          · rfl
        · have h4 : c.1 ≠ j := by omega
          rw [if_neg hb, Mem.get.eq_2, Mem.get.eq_2, if_neg haj, if_neg h4]
          simp only [e]
      · rw [Mem.get.eq_2, Mem.get.eq_2, ih (c.1 + 1) h3]

/-! ### The memories of a state -/

theorem memoryOk_congr {s t : State} (h : s.MemoryOk) (hm : t.mem = s.mem) (hl : t.link.mem = s.link.mem) (hq : t.quays = s.quays) :
    t.MemoryOk := ⟨hm ▸ h.1, hl ▸ h.2.1, fun q => by simpa [State.qy, hq] using h.2.2 q⟩

theorem modQy_memoryOk {s : State} (h : s.MemoryOk) (q : Nat) (f : Quay → Quay) (hf : Quay.wf (f (s.qy q)) = true) :
    (s.modQy q f).MemoryOk :=
  ⟨h.1, h.2.1, fun j => by
    by_cases e : j = q
    · subst e; simpa using hf
    · rw [modQy_qy_ne _ _ _ e]; exact h.2.2 j⟩

theorem setByte_memoryOk {s : State} (h : s.MemoryOk) (p : Place) (b : Byte) : (s.setByte p b).MemoryOk := by
  unfold State.setByte
  split
  · exact ⟨Memory.wf_set _ _ _ h.1, h.2⟩
  · exact modQy_memoryOk h _ _ (Quay.wf_set _ _ _ (h.2.2 _))
  · exact ⟨h.1, Memory.wf_set _ _ _ h.2.1, h.2.2⟩

theorem setBytes_memoryOk (bs : List (Place × Byte)) : ∀ {s : State}, s.MemoryOk → (s.setBytes bs).MemoryOk := by
  induction bs with
  | nil => exact fun h => h
  | cons x t ih => exact fun h => ih (setByte_memoryOk h x.1 x.2)

theorem hostWrite_memoryOk {s : State} (h : s.MemoryOk) (bus : Nat) (bs : List Byte) : (s.hostWrite bus bs).MemoryOk :=
  setBytes_memoryOk _ h

theorem modAg_memoryOk {s : State} (h : s.MemoryOk) (g : Nat) (f : Agent → Agent) : (s.modAg g f).MemoryOk := h

theorem setTile_memoryOk {s : State} (h : s.MemoryOk) (q : Nat) (t : TileState) : (s.setTile q t).MemoryOk :=
  modQy_memoryOk h _ _ (h.2.2 q)

theorem setPoison_memoryOk {s : State} (h : s.MemoryOk) (p : Place) : (s.setPoison p).MemoryOk := by
  unfold State.setPoison
  split
  · exact h
  · split
    · exact h
    · exact modQy_memoryOk h _ _ (h.2.2 _)
    · exact h

theorem clearPoison_memoryOk {s : State} (h : s.MemoryOk) (p : Place) : (s.clearPoison p).MemoryOk := by
  unfold State.clearPoison
  split
  · exact h
  · exact modQy_memoryOk h _ _ (h.2.2 _)
  · exact h

theorem clearUe_memoryOk {s : State} (h : s.MemoryOk) (p : Place) : (s.clearUe p).MemoryOk := by
  unfold State.clearUe
  split
  · exact h
  · exact modQy_memoryOk h _ _ (h.2.2 _)
  · exact h

/-- A fold of updates that each keep the canonical form keeps it. -/
theorem foldl_memoryOk {α : Type} (f : State → α → State) (hf : ∀ s x, s.MemoryOk → (f s x).MemoryOk) (l : List α) :
    ∀ {s : State}, s.MemoryOk → (l.foldl f s).MemoryOk := by
  induction l with
  | nil => exact fun h => h
  | cons x t ih => exact fun h => ih (hf _ x h)

theorem writeBytes_memoryOk {s : State} (h : s.MemoryOk) (bs : List (Place × Byte)) : (s.writeBytes bs).MemoryOk := by
  cases bs with
  | nil => exact h
  | cons x t =>
    apply foldl_memoryOk _ (fun s y hs => clearUe_memoryOk hs y.1)
    split
    · exact clearPoison_memoryOk (setBytes_memoryOk _ h) _
    · exact setBytes_memoryOk _ h

theorem drainLine_memoryOk {s : State} (h : s.MemoryOk) (g : Nat) (l : WcLine) : (s.drainLine g l).MemoryOk := by
  unfold State.drainLine
  apply modAg_memoryOk
  split
  · exact setBytes_memoryOk _ h
  · exact setBytes_memoryOk _ h

theorem drainWc_memoryOk {s : State} (h : s.MemoryOk) (g : Nat) : (s.drainWc g).MemoryOk :=
  foldl_memoryOk _ (fun _ l hs => drainLine_memoryOk hs g l) _ h

theorem drainLine_if_memoryOk {s : State} (h : s.MemoryOk) (c : Prop) [Decidable c] (g : Nat) (l : WcLine) :
    (if c then s.drainLine g l else s).MemoryOk := by
  split
  · exact drainLine_memoryOk h g l
  · exact h

theorem enterWc_memoryOk {s : State} (h : s.MemoryOk) (g op : Nat) (nt : Bool) (ln : Nat) (bs : List (Nat × Byte)) :
    (s.enterWc g op nt ln bs).MemoryOk := by
  unfold State.enterWc
  dsimp only
  apply drainLine_if_memoryOk
  apply modAg_memoryOk
  split
  · split
    · exact h
    · exact drainLine_memoryOk h _ _
  · exact h

theorem sendTo_memoryOk {s : State} (h : s.MemoryOk) (m : Nat) (x : LinkMsg) : (s.sendTo m x).MemoryOk := h

theorem tellHomes_memoryOk {s : State} (h : s.MemoryOk) (kind slot quay : Nat) (bs : List (Place × Byte)) :
    (s.tellHomes kind slot quay bs).MemoryOk :=
  foldl_memoryOk _ (fun _ _ hs => sendTo_memoryOk hs _ _) _ h

theorem wipe_memoryOk {s : State} (h : s.MemoryOk) (p : Place) : (s.wipe p).MemoryOk :=
  foldl_memoryOk _ (fun _ _ hs => clearUe_memoryOk hs _) _ (clearPoison_memoryOk h _)

theorem performPiece_memoryOk {s : State} (h : s.MemoryOk) (g : Nat) (p : Piece) (left : List Piece) : (s.performPiece g p left).MemoryOk := by
  have hw : ((s.writeBytes (p.bytes.filter (fun x => x.1.space ≠ .host))).tellHomes (writerOf g).1 (writerOf g).2 (quayOf g) p.bytes).MemoryOk :=
    tellHomes_memoryOk (writeBytes_memoryOk h _) _ _ _ _
  refine foldl_memoryOk _ (fun _ x hs => enterWc_memoryOk hs g p.op p.nt x _) _ ?_
  split
  · split
    · exact wipe_memoryOk hw _
    · exact hw
  · exact hw

theorem performPieces_memoryOk (g : Nat) (left ps : List Piece) : ∀ {s : State}, s.MemoryOk → (s.performPieces g left ps).MemoryOk := by
  induction ps with
  | nil => exact fun h => h
  | cons p t ih => exact fun h => ih (performPiece_memoryOk h g p _)

theorem drainQueue_memoryOk {s : State} (h : s.MemoryOk) (g : Nat) : (s.drainQueue g).MemoryOk :=
  modAg_memoryOk (performPieces_memoryOk g _ _ h) _ _

theorem drainFor_memoryOk {s : State} (h : s.MemoryOk) (g : Nat) (ps : List Place) : (s.drainFor g ps).MemoryOk :=
  foldl_memoryOk _ (fun _ l hs => drainLine_memoryOk hs g l) _ (modAg_memoryOk (performPieces_memoryOk g _ _ h) _ _)

/-! ### Registers of a function page -/

/-- An update of firmware, of the scheduler, of the host's registers and buffers, or of an agent leaves the memories alone. -/
theorem wrMasked_memoryOk {s : State} (h : s.MemoryOk) (v : Word) (mask : Nat) (put : State → Nat → State)
    (hp : ∀ t x, State.MemoryOk t → (put t x).MemoryOk) : (s.wrMasked v mask put).MemoryOk := by
  apply hp
  split <;> exact h

theorem wrCtxirq_memoryOk {s : State} (h : s.MemoryOk) (f : Nat) (v : Word) : (s.wrCtxirq f v).MemoryOk := by
  refine wrMasked_memoryOk h _ _ _ fun t x ht => ?_
  dsimp only
  split
  · exact ht
  · split
    · exact foldl_memoryOk (fun s (t : Nat × Task) => s.irqTask t.1) (fun _ _ hs => hs) _
        (foldl_memoryOk (fun s (a : Nat × Agent) => s.modAg a.1 _) (fun _ _ hs => hs) _ ht)
    · split
      · exact ht
      · split
        · exact ht
        · split <;> exact ht

theorem wrDebug_memoryOk {s : State} (h : s.MemoryOk) (f off : Nat) (bs : List Byte) : (s.wrDebug f off bs).MemoryOk := by
  unfold State.wrDebug
  dsimp only
  split
  · split <;> exact h
  · exact h

theorem wrQtail_memoryOk {s : State} (h : s.MemoryOk) (f q : Nat) (v : Word) : (s.wrQtail f q v).MemoryOk := by
  unfold State.wrQtail
  dsimp only
  split
  · exact h
  · exact wrMasked_memoryOk h _ _ _ fun _ _ ht => ht

theorem ite_memoryOk {c : Prop} [Decidable c] {s t : State} (hs : s.MemoryOk) (ht : t.MemoryOk) : (if c then s else t).MemoryOk := by
  split
  · exact hs
  · exact ht

theorem devWrite_memoryOk {s : State} (h : s.MemoryOk) (f off : Nat) (v : Word) : (s.devWrite f off v).MemoryOk := by
  unfold State.devWrite
  refine ite_memoryOk h (ite_memoryOk ?_ (ite_memoryOk ?_ (ite_memoryOk ?_ (ite_memoryOk ?_ (ite_memoryOk ?_ (ite_memoryOk ?_
    (ite_memoryOk ?_ (ite_memoryOk ?_ (ite_memoryOk (wrCtxirq_memoryOk h _ _) (ite_memoryOk h (ite_memoryOk ?_
    (ite_memoryOk (wrDebug_memoryOk h _ _ _) (ite_memoryOk h h)))))))))))))
  · exact wrMasked_memoryOk h _ _ _ fun _ _ ht => ite_memoryOk ht ht
  · exact wrMasked_memoryOk h _ _ _ fun _ _ ht => ite_memoryOk ht ht
  · exact wrMasked_memoryOk h _ _ _ fun _ _ ht => ite_memoryOk ht ht
  · exact wrMasked_memoryOk h _ _ _ fun t x ht => by split <;> exact ht
  · exact wrMasked_memoryOk h _ _ _ fun _ _ ht => ht
  · exact wrMasked_memoryOk h _ _ _ fun _ _ ht => ht
  · exact wrMasked_memoryOk h _ _ _ fun _ _ ht => ite_memoryOk ht ht
  · exact wrMasked_memoryOk h _ _ _ fun _ _ ht => ht
  · split
    · exact wrQtail_memoryOk h _ _ _
    · exact ite_memoryOk h h
    · exact ite_memoryOk h h
    · exact h

theorem devStore_memoryOk {s : State} (h : s.MemoryOk) (f off : Nat) (bs : List Byte) : (s.devStore f off bs).MemoryOk := by
  unfold State.devStore
  split
  · exact wrDebug_memoryOk h _ _ _
  · exact devWrite_memoryOk h _ _ _

theorem deviceStore_memoryOk {s : State} (h : s.MemoryOk) (g : Nat) (p : Place) (bs : List Byte) :
    (s.deviceStore g p bs).MemoryOk := by
  unfold State.deviceStore
  dsimp only
  split
  · exact devStore_memoryOk (drainFor_memoryOk h _ _) _ _ _
  · exact writeBytes_memoryOk (drainFor_memoryOk h _ _) _

/-! ### Releases, commits and restarts -/

theorem systemDrain_memoryOk {s : State} (h : s.MemoryOk) (g : Nat) : (s.systemDrain g).MemoryOk := drainWc_memoryOk h g

theorem releaseStores_memoryOk {s : State} (h : s.MemoryOk) (g : Nat) (sc : Scope) : (s.releaseStores g sc).MemoryOk := by
  unfold State.releaseStores
  dsimp only
  split
  · exact systemDrain_memoryOk (drainQueue_memoryOk h g) g
  · exact drainQueue_memoryOk h g

theorem performAll_memoryOk {s : State} (h : s.MemoryOk) (g : Nat) : (s.performAll g).MemoryOk :=
  drainWc_memoryOk (drainQueue_memoryOk h g) g

theorem scrub_memoryOk {s : State} (h : s.MemoryOk) (p : Place) (n : Nat) : (s.scrub p n).MemoryOk := by
  unfold State.scrub
  split
  · dsimp only
    split
    · exact modQy_memoryOk h _ _ (h.2.2 _)
    · exact h
  all_goals exact h

theorem noteRead_memoryOk {s : State} (h : s.MemoryOk) (p : Place) (n : Nat) : (s.noteRead p n).MemoryOk := by
  unfold State.noteRead
  split
  · exact setPoison_memoryOk h _
  · exact scrub_memoryOk h _ _

theorem putForced_memoryOk {s : State} (h : s.MemoryOk) (q : Nat) (t : TileState) : (s.putForced q t).MemoryOk := by
  unfold State.putForced
  dsimp only
  split
  · exact setTile_memoryOk h _ _
  · refine foldl_memoryOk _ (fun u x hu => ?_) _ (setTile_memoryOk h _ _)
    split
    · exact noteRead_memoryOk hu _ _
    · exact hu

theorem watchQuiet_memoryOk {s : State} (h : s.MemoryOk) (q : Nat) (ps : List Place) (fail : Option (Nat × Nat)) :
    (s.watchQuiet q ps fail).1.MemoryOk := by
  unfold State.watchQuiet
  split
  · exact h
  · exact putForced_memoryOk h _ _

theorem commit_memoryOk {s : State} (h : s.MemoryOk) (g : Nat) : (s.commit g).MemoryOk := by
  unfold State.commit
  dsimp only
  split
  · exact h
  · exact modAg_memoryOk (watchQuiet_memoryOk h _ _ _) _ _

theorem cutAt_memoryOk {s : State} (h : s.MemoryOk) (g : Nat) (p : Word) (c : Bool) (m : CutMark) : (s.cutAt g p c m).MemoryOk :=
  modAg_memoryOk (commit_memoryOk h g) _ _

theorem endStrip_memoryOk {s : State} (h : s.MemoryOk) (g : Nat) : (s.endStrip g).MemoryOk :=
  modAg_memoryOk (commit_memoryOk h g) _ _

theorem restart_memoryOk {s : State} (h : s.MemoryOk) (g : Nat) : (s.restart g).MemoryOk :=
  modAg_memoryOk (modQy_memoryOk h _ _ (h.2.2 _)) _ _

/-! ### Reading a place after a write -/

theorem setByte_byte_self {s : State} (h : s.MemoryOk) (p : Place) (b : Byte) : (s.setByte p b).byte p = b := by
  obtain ⟨sp, a⟩ := p
  cases sp with
  | fabric => exact Mem.get_set_self zeroByte a b 0 _ h.1
  | wharf q => simpa [State.setByte, State.byte, Quay.blank] using Mem.get_set_self (s.qy q).blank a b 0 _ (h.2.2 q)
  | host => exact Mem.get_set_self zeroByte a b 0 _ h.2.1

theorem setByte_byte_ne {s : State} (h : s.MemoryOk) {p r : Place} (b : Byte) (hr : r ≠ p) : (s.setByte p b).byte r = s.byte r := by
  obtain ⟨sp, a⟩ := p
  obtain ⟨sr, j⟩ := r
  cases sp with
  | fabric =>
    cases sr with
    | fabric => exact Mem.get_set_ne zeroByte 0 a j b (fun e => hr (by rw [e])) 0 _ h.1
    | wharf q => rfl
    | host => rfl
  | wharf q =>
    cases sr with
    | fabric => rfl
    | host => rfl
    | wharf k =>
      by_cases e : k = q
      · subst e
        have hj : j ≠ a := fun x => hr (by rw [x])
        simpa [State.setByte, State.byte, Quay.blank] using
          Mem.get_set_ne (s.qy k).blank ((s.qy k).blank j) a j b hj 0 _ (h.2.2 k)
      · simp [State.setByte, State.byte, modQy_qy_ne _ _ _ e]
  | host =>
    cases sr with
    | fabric => rfl
    | wharf q => rfl
    | host => exact Mem.get_set_ne zeroByte 0 a j b (fun e => hr (by rw [e])) 0 _ h.2.1

end Sys2Proof.Machine
end

