-- ==== Sys2Proof/Laws/Frame.lean ====
section
/-! SUPPORT. The frame of an instruction, said once: when the checks before a body pass, what begins it, what its end does. -/

namespace Sys2Proof.Machine

@[simp] theorem issue_g (s : State) : s.issue.g = s.cur := rfl
@[simp] theorem issue_pc (s : State) : s.issue.pc = (s.ag s.cur).regs.pc := rfl
@[simp] theorem issue_at (s : State) : s.issue.at_ = (s.ag s.cur).wordAddr := rfl
@[simp] theorem issue_pfx (s : State) : s.issue.pfx = (s.ag s.cur).regs.pfx := rfl

/-- A meaning with a body answers a next state. -/
theorem run_next (s : State) (i : Instr) (r : Rule) (body : Issue → M Unit) : s.run i r body = .next (s.runBody i r body) := rfl

/-- A body whose checks fail takes the trap of the first that fails. -/
theorem runBody_trap {s : State} {i : Instr} {r : Rule} {body : Issue → M Unit} {t : TrapInfo} (h : s.pre s.issue i r = some t) :
    s.runBody i r body = s.takeTrap s.issue t := by
  simp [State.runBody, h]

/-- A body whose checks pass and that no cut comes before runs from the state past its word. -/
theorem runBody_plain {s : State} {i : Instr} {r : Rule} {body : Issue → M Unit} (h : s.pre s.issue i r = none)
    (hc : (r.cut || r.pre) = false ∨ (s.ag s.cur).inStrip = false) :
    s.runBody i r body = s.finish s.issue r.cut (body s.issue (s.begin_ s.issue)) := by
  have : ((r.cut || r.pre) && (s.ag s.issue.g).inStrip) = false := by
    rcases hc with hc | hc <;> simp [hc]
  unfold State.runBody
  simp only [h, this]
  rfl

/-- A body that completes retires; one that stops traps, waits or is made again. -/
theorem finish_ok (s t : State) (is : Issue) (c : Bool) : s.finish is c (.ok ((), t)) = t.retire is c := rfl
theorem finish_trap (s : State) (is : Issue) (c : Bool) (t : TrapInfo) : s.finish is c (.error (.trap t none)) = s.takeTrap is t := rfl
theorem finish_keep (s t : State) (is : Issue) (c : Bool) (i : TrapInfo) :
    s.finish is c (.error (.trap i (some t))) = (t.untrim s is.g).takeTrap is i := rfl
theorem finish_wait (s t : State) (is : Issue) (c : Bool) (st : Status) :
    s.finish is c (.error (.wait st t)) = (t.untrim s is.g).stay is (s.ag is.g).strip.mark st false := rfl

/-- What a stopped body leaves when it has not trimmed VL. -/
theorem untrim_same {s t : State} {g : Nat} (h : (t.ag g).strip.vl = (s.ag g).strip.vl) : t.untrim s g = t := by
  unfold State.untrim
  rw [if_neg (fun e => e.2.2 h)]

@[simp] theorem retired_status (a : Agent) (pc : Word) (c : Bool) : (a.retired pc c).status = a.status := rfl
@[simp] theorem retired_strip (a : Agent) (pc : Word) (c : Bool) : (a.retired pc c).strip = a.strip := rfl
@[simp] theorem retired_vec (a : Agent) (pc : Word) (c : Bool) : (a.retired pc c).vec = a.vec := rfl
@[simp] theorem retired_fp (a : Agent) (pc : Word) (c : Bool) : (a.retired pc c).fp = a.fp := rfl
@[simp] theorem retired_task (a : Agent) (pc : Word) (c : Bool) : (a.retired pc c).task = a.task := rfl
@[simp] theorem retired_mem (a : Agent) (pc : Word) (c : Bool) : (a.retired pc c).mem = a.mem := rfl
@[simp] theorem retired_trace (a : Agent) (pc : Word) (c : Bool) : (a.retired pc c).trace = a.trace := rfl
@[simp] theorem retired_errs (a : Agent) (pc : Word) (c : Bool) : (a.retired pc c).errs = a.errs := rfl
@[simp] theorem retired_rs (a : Agent) (pc : Word) (c : Bool) (r : Fin 32) : (a.retired pc c).rs r = a.rs r := rfl
@[simp] theorem retired_ra (a : Agent) (pc : Word) (c : Bool) (r : Fin 16) : (a.retired pc c).ra r = a.ra r := rfl
@[simp] theorem retired_pc (a : Agent) (pc : Word) (c : Bool) : (a.retired pc c).regs.pc = a.regs.pc := rfl
@[simp] theorem retired_pfx (a : Agent) (pc : Word) (c : Bool) : (a.retired pc c).regs.pfx = a.regs.pfx := rfl
@[simp] theorem retired_instret (a : Agent) (pc : Word) (c : Bool) : (a.retired pc c).regs.instret = a.regs.instret + 1 := rfl

/-- Retiring, for an agent that stands in its slot. -/
theorem retire_run {s : State} {is : Issue} (c : Bool) (h : (s.ag is.g).status = .run) (hc : c = false ∨ (s.ag is.g).inStrip = false) :
    s.retire is c = s.modAg is.g (fun a => a.retired is.pc c) := by
  have h1 : ¬ ((s.ag is.g).status = .absent ∨ (s.ag is.g).status = .halted) := by simp [h]
  unfold State.retire
  rw [if_neg h1]
  rcases hc with hc | hc
  · simp [hc]
  · simp only [Agent.inStrip] at hc
    simp [Agent.inStrip, hc]

/-- The checks of an instruction that every agent executes in every segment, and that needs no strip. -/
theorem pre_both {s : State} {i : Instr} {r : Rule} (hx : s.issue.pfx = [] ∨ i.takesExt = true) (hp : r.priv = false)
    (ha : r.pilot = true) (hh : r.hart = true) (hs : r.strip = false) (hv : r.vcfg = false) : s.pre s.issue i r = none := by
  have h1 : ¬ (s.issue.pfx ≠ [] ∧ i.takesExt = false) := by
    rcases hx with h | h
    · exact fun e => e.1 h
    · exact fun e => by simp [h] at e
  unfold State.pre
  simp only [h1, hp, ha, hh, hs, hv]
  cases isPilot s.issue.g <;> simp

@[simp] theorem modA_ok (is : Issue) (f : Agent → Agent) (s : State) : modA is f s = .ok ((), s.modAg is.g f) := rfl

/-- An instruction of every agent that only changes its agent's registers: its next state. -/
theorem run_agent {s : State} {i : Instr} (hr : (s.ag s.cur).status = .run) (hx : (s.ag s.cur).regs.pfx = [] ∨ i.takesExt = true)
    (f : Agent → Agent) (hf : ∀ a : Agent, (f a).status = a.status) :
    s.run i .both (fun is => modA is f) = .next (s.modAg s.cur (fun a => (f { a with
      regs := { a.regs with pc := (s.ag s.cur).wordAddr + 4, pfx := [] }, strip := { a.strip with mark := .none } }).retired
        (s.ag s.cur).regs.pc false)) := by
  rw [run_next, runBody_plain (pre_both hx rfl rfl rfl rfl rfl) (.inl rfl), modA_ok, finish_ok]
  show Host.Outcome.next (State.retire _ _ false) = _
  rw [retire_run _ _ (.inl rfl)]
  · simp only [State.begin_, modAg_modAg]
    rfl
  · simp [State.begin_, hf, hr]

end Sys2Proof.Machine
end

