-- ==== Sys2Proof/Tests/Slice0.lean ====
section
/-! SUPPORT. The model's own tests: words, ill-formed terms, witnesses, single steps. -/

namespace Sys2Proof.Tests

open Sys2Proof.Machine

set_option maxRecDepth 100000
set_option Elab.async false

/-! ### Words, laid out field by field as R21 gives the formats -/

/-- Fields from bit 31 down, each with its width. -/
def lay (l : List (Nat × Nat)) : Nat := l.foldl (fun n f => n * 2 ^ f.1 + f.2) 0
def wS3 (op d a b fn : Nat) : Nat := lay [(6, op), (5, d), (5, a), (5, b), (11, fn)]
def wSI (op d a fn i : Nat) : Nat := lay [(6, op), (5, d), (5, a), (3, fn), (13, i)]
def wB (c a b o : Nat) : Nat := lay [(6, 0x08), (3, c), (5, a), (5, b), (13, o)]
def wM (op d a fn o : Nat) : Nat := lay [(6, op), (5, d), (4, a), (4, fn), (13, o)]
def wAMO (op d a b fn o sc : Nat) : Nat := lay [(6, op), (5, d), (4, a), (5, b), (4, fn), (2, o), (3, sc), (3, 0)]
def wV (op d a b m fn h : Nat) : Nat := lay [(6, op), (6, d), (6, a), (6, b), (4, m), (3, fn), (1, h)]
def wVS (op d a b x m fn h : Nat) : Nat := lay [(6, op), (6, d), (6, a), (5, b), (1, x), (4, m), (3, fn), (1, h)]
def wVM (op d a b m fn sm : Nat) : Nat := lay [(6, op), (6, d), (4, a), (6, b), (4, m), (4, fn), (2, sm)]
def wT (op d a b fn i : Nat) : Nat := lay [(6, op), (3, d), (3, a), (3, b), (7, fn), (10, i)]
def wTM (d a fn b c : Nat) : Nat := lay [(6, 0x24), (3, d), (4, a), (2, 0), (7, fn), (5, b), (5, c)]
def wTX (d s fn v l : Nat) : Nat := lay [(6, 0x26), (3, d), (1, 0), (5, s), (7, fn), (6, v), (4, l)]
def wCSR (d a c fn : Nat) : Nat := lay [(6, 0x01), (5, d), (5, a), (12, c), (4, fn)]

/-- The word is read as the instruction, and is the word it is written as. -/
def reads (w : Nat) (i : Instr) : Bool := decide ((decodeNat w).toOption = some i) && decide (encodeNat i = some w)
/-- A list of instructions whose codes count up from 0. -/
def codes (w : Nat → Nat) (l : List Instr) : Bool := l.zipIdx.all (fun p => reads (w p.2) p.1)
/-- The word is refused with the subcode. -/
def refuses (w : Nat) (e : Ill) : Bool := match decodeNat w with
  | .ok _ => false
  | .error x => decide (x = e)

-- R62's table.
theorem test_decode_sys : (reads (wCSR 3 0 0x002 0) (.csrr 3 0x002) && reads (wCSR 3 4 0x102 1) (.csrw 3 4 0x102)
    && reads (wCSR 3 4 0x102 2) (.csrs 3 4 0x102) && reads (wCSR 3 4 0x102 3) (.csrc 3 4 0x102) && reads (wCSR 0 0 5 4) (.svc 5)
    && reads (wCSR 0 0 0 5) .eret && reads (wCSR 0 0 0 6) .halt && reads (wCSR 0 0 0 7) .nop && reads (wCSR 0 0 9 8) (.brk 9)
    && reads (wCSR 0 5 0x123 9) (.trcm 5 0x123) && refuses (wCSR 0 0 0 10) .fn && refuses (wCSR 1 0 0 7) .zfield) = true := by decide
-- R27's worked words, R62.
theorem test_decode_pfx : (reads 0x08000246 (.pfx 0x246) && reads 0x0A2B3C4D (.pfx 0x22B3C4D) && reads 0x18ABCDEF (.li 5 0x0BCDEF)) = true := by
  decide
theorem test_decode_sync : (reads (wAMO 0x03 0 0 0 0 3 5) (.fence .acqRel .system) && reads (wAMO 0x03 0 0 0 1 0 2) (.vlsync .die)
    && reads (wAMO 0x03 0 0 1 4 0 0) (.barv 1) && reads (wAMO 0x03 0 0 2 5 0 0) (.barw 2)
    && refuses (wAMO 0x03 0 0 0 0 3 6) .scopecode) = true := by decide
-- R47's codes.
theorem test_decode_alu : (codes (wS3 0x04 5 6 7) [.add 5 6 7, .sub 5 6 7, .and 5 6 7, .or 5 6 7, .xor 5 6 7, .sll 5 6 7, .srl 5 6 7, .sra 5 6 7,
    .slt 5 6 7, .sltn 5 6 7, .min 5 6 7, .max 5 6 7, .minn 5 6 7, .maxn 5 6 7] && reads (wS3 0x04 5 6 0 14) (.clz 5 6)
    && reads (wS3 0x04 5 6 0 15) (.popc 5 6) && refuses (wS3 0x04 5 6 7 14) .zfield && refuses (wS3 0x04 5 6 7 16) .fn) = true := by decide
theorem test_decode_alui : codes (fun k => wSI 0x05 5 6 k 0x1001) [.addi 5 6 0x1001, .andi 5 6 0x1001, .ori 5 6 0x1001, .xori 5 6 0x1001,
    .slli 5 6 0x1001, .srli 5 6 0x1001, .srai 5 6 0x1001, .slti 5 6 0x1001] = true := by decide
-- R50's codes.
theorem test_decode_muldiv : (codes (wS3 0x07 1 2 3) [.mul 1 2 3, .mulh 1 2 3, .mulhn 1 2 3, .div 1 2 3, .divn 1 2 3, .rem 1 2 3, .remn 1 2 3]
    && refuses (wS3 0x07 1 2 3 7) .fn) = true := by decide
-- R51-R53.
theorem test_decode_branch : (codes (fun k => wB k 4 9 0x1FFF) [.beq 4 9 0x1FFF, .bne 4 9 0x1FFF, .blt 4 9 0x1FFF, .bge 4 9 0x1FFF, .bltn 4 9 0x1FFF,
    .bgen 4 9 0x1FFF] && reads (lay [(6, 0x09), (26, 0x2000001)]) (.j 0x2000001) && reads (lay [(6, 0x0A), (26, 7)]) (.call 7)
    && reads (wS3 0x0B 0 14 0 0) (.jr 14) && reads (wS3 0x0B 0 3 0 1) (.callr 3) && refuses (wS3 0x0B 0 16 0 0) .regcode) = true := by decide
-- R55's codes.
theorem test_decode_load_store : (codes (fun k => wM 0x0C 5 9 k 0x1FF8) [.ldb 5 9 0x1FF8, .ldh 5 9 0x1FF8, .ldw 5 9 0x1FF8, .ldd 5 9 0x1FF8,
    .ldbn 5 9 0x1FF8, .ldhn 5 9 0x1FF8, .ldwn 5 9 0x1FF8, .lda 5 9 0x1FF8]
    && codes (fun k => wM 0x0D 5 9 k 1) [.stb 5 9 1, .sth 5 9 1, .stw 5 9 1, .std 5 9 1, .sta 5 9 1]
    && refuses (wM 0x0C 16 9 7 0) .regcode) = true := by decide
-- R58's codes: fn[11] is the width.
theorem test_decode_amo : (codes (fun k => wAMO 0x0E 5 9 7 k 1 2) [.amoadd 5 9 7 false .acquire .die, .amoswp 5 9 7 false .acquire .die,
    .amocas 5 9 7 false .acquire .die, .amomin 5 9 7 false .acquire .die, .amomax 5 9 7 false .acquire .die, .amoand 5 9 7 false .acquire .die,
    .amoor 5 9 7 false .acquire .die, .amoxor 5 9 7 false .acquire .die]
    && reads (wAMO 0x0E 5 9 7 8 2 0) (.amoadd 5 9 7 true .release .hart) && refuses (wAMO 0x0E 5 9 7 0 0 7) .scopecode) = true := by decide
-- R61's codes.
theorem test_decode_addr : (reads (wSI 0x0F 4 5 0 (6 * 256)) (.aadd 4 5 6) && reads (wSI 0x0F 4 5 1 0x1FFF) (.aaddi 4 5 0x1FFF)
    && reads (wSI 0x0F 4 20 2 1) (.aset 4 20 1) && reads (wSI 0x0F 20 5 3 0) (.alo 20 5) && reads (wSI 0x0F 20 5 4 0) (.awn 20 5)
    && reads (wSI 0x0F 20 5 5 (6 * 256)) (.adiff 20 5 6) && refuses (wSI 0x0F 20 5 1 0) .regcode && refuses (wSI 0x0F 4 5 0 1) .zfield
    && refuses (wSI 0x0F 4 5 6 0) .fn) = true := by decide
-- R76.
theorem test_decode_vcfg : (reads 0x40A4008E (.vsetl 5 4 0x8E) && reads (wSI 0x10 5 4 1 (7 * 256)) (.vsetlr 5 4 7) && reads (wSI 0x10 0 0 2 0) .vend
    && reads (wSI 0x10 0 0 3 0) .vcut && refuses (wSI 0x10 0 0 4 0) .fn) = true := by decide
-- R111's table, four majors.
theorem test_decode_vector : (codes (fun k => wV 0x11 3 1 2 15 k 0) [.vadd 3 1 2 none false, .vsub 3 1 2 none false, .vmul 3 1 2 none false,
    .vmulh 3 1 2 none false, .vdiv 3 1 2 none false, .vrem 3 1 2 none false, .vmin 3 1 2 none false, .vmax 3 1 2 none false]
    && codes (fun k => wV 0x12 3 1 2 11 k 1) [.vmac 3 1 2 (some 11) true, .vnmac 3 1 2 (some 11) true, .vand 3 1 2 (some 11) true,
    .vor 3 1 2 (some 11) true, .vxor 3 1 2 (some 11) true, .vshl 3 1 2 (some 11) true, .vshr 3 1 2 (some 11) true, .vsra 3 1 2 (some 11) true]
    && refuses (wV 0x11 48 1 2 15 0 0) .regcode && refuses (wV 0x11 3 1 2 12 0 0) .regcode) = true := by decide
theorem test_decode_vector_scalar : (codes (fun k => wVS 0x13 3 1 20 1 0 k 0) [.vaddVs 3 1 20 true (some 0) false, .vsubVs 3 1 20 true (some 0) false,
    .vmulVs 3 1 20 true (some 0) false, .vmulhVs 3 1 20 true (some 0) false, .vdivVs 3 1 20 true (some 0) false, .vremVs 3 1 20 true (some 0) false,
    .vminVs 3 1 20 true (some 0) false, .vmaxVs 3 1 20 true (some 0) false]
    && codes (fun k => wVS 0x14 3 1 20 0 15 k 0) [.vmacVs 3 1 20 false none false, .vnmacVs 3 1 20 false none false, .vandVs 3 1 20 false none false,
    .vorVs 3 1 20 false none false, .vxorVs 3 1 20 false none false, .vshlVs 3 1 20 false none false, .vshrVs 3 1 20 false none false,
    .vsraVs 3 1 20 false none false]) = true := by decide
theorem test_decode_vector_immediate : codes (fun k => wV 0x15 3 1 63 15 k 0) [.vaddVi 3 1 63 none false, .vsubVi 3 1 63 none false,
    .vandVi 3 1 63 none false, .vorVi 3 1 63 none false, .vxorVi 3 1 63 none false, .vshlVi 3 1 63 none false, .vshrVi 3 1 63 none false,
    .vsraVi 3 1 63 none false] = true := by decide
-- R113, R114.
theorem test_decode_unary_compare : (codes (fun k => wV 0x16 3 1 0 15 k 0) [.vabs 3 1 none false, .vneg 3 1 none false, .vsqrt 3 1 none false,
    .vexp2 3 1 none false, .vlog2 3 1 none false, .vclz 3 1 none false, .vpopc 3 1 none false, .vmv 3 1 none false]
    && codes (fun k => wV 0x17 3 1 2 15 k 0) [.vcmpeq 3 1 2 none false, .vcmpne 3 1 2 none false, .vcmplt 3 1 2 none false, .vcmple 3 1 2 none false,
    .vcmpgt 3 1 2 none false, .vcmpge 3 1 2 none false, .vcmpltn 3 1 2 none false, .vcmpgen 3 1 2 none false]
    && refuses (wV 0x17 12 1 2 15 0 0) .regcode && refuses (wV 0x16 3 1 1 15 0 0) .zfield) = true := by decide
-- R115-R119.
theorem test_decode_mask : (codes (fun k => wV 0x18 3 1 2 15 k 0) [.mand 3 1 2 none false, .mor 3 1 2 none false, .mxor 3 1 2 none false,
    .mandn 3 1 2 none false] && reads (wV 0x18 3 0 0 15 4 0) (.mset 3 none false) && reads (wV 0x18 3 0 0 15 5 0) (.mclr 3 none false)
    && reads (wV 0x19 20 1 0 15 0 0) (.mcnt 20 1 none false) && reads (wV 0x19 20 1 0 15 1 0) (.mfirst 20 1 none false)
    && reads (wV 0x19 3 1 0 15 2 0) (.mbrkb 3 1 none false) && reads (wV 0x19 3 1 0 15 3 0) (.mbrki 3 1 none false)) = true := by decide
theorem test_decode_permute : (reads (wV 0x1A 3 20 0 15 0 0) (.vbcast 3 20 none false) && reads (wV 0x1A 3 20 21 15 1 0) (.vins 3 20 21 false)
    && reads (wV 0x1A 20 3 21 15 2 0) (.vext 20 3 21 false) && reads (wV 0x1A 20 3 0 15 3 0) (.vlast 20 3 none false)
    && reads (wV 0x1A 3 0 0 15 4 0) (.vidx 3 none false) && reads (wV 0x1A 3 1 20 15 5 0) (.vslup 3 1 20 none false)
    && reads (wV 0x1A 3 1 20 15 6 0) (.vsldn 3 1 20 none false) && reads (wV 0x1A 3 1 2 15 7 0) (.vperm 3 1 2 none false)
    && codes (fun k => wV 0x1B 3 1 0 15 k 0) [.vcmpr 3 1 none false, .vexpd 3 1 none false]
    && reads (wV 0x1B 3 1 2 15 2 0) (.vmerge 3 1 2 none false) && codes (fun k => wV 0x1B 3 1 0 15 (k + 3) 0) [.vredsum 3 1 none false,
    .vredosum 3 1 none false, .vredmin 3 1 none false, .vredmax 3 1 none false, .vscan 3 1 none false]) = true := by decide
-- R131-R143: vb[13:12] RSEL, [11:8] T, or [11] Q and [10:9] K.
theorem test_decode_convert : (reads (wV 0x1C 3 1 (2 * 16 + 9) 15 0 0) (.vcvt 3 1 2 9 none false)
    && reads (wV 0x1C 3 1 (1 * 16 + 8 + 2 * 2) 15 1 0) (.vqnt 3 1 1 true 2 none false)
    && reads (wV 0x1C 3 1 (1 * 16 + 3 * 2) 15 2 0) (.vdqnt 3 1 1 false 3 none false) && reads (wV 0x1C 3 1 20 15 3 0) (.vtopk 3 1 20 none false)
    && reads (wV 0x1C 3 1 20 15 4 0) (.vtopkAbs 3 1 20 none false) && refuses (wV 0x1C 3 1 (1 * 16 + 1) 15 1 0) .fn && refuses (wV 0x1C 3 1 (1 * 16 + 2 + 1) 15 1 0) .zfield
    && refuses (wV 0x1C 3 1 (2 * 16 + 14) 15 0 0) .fn && refuses (wV 0x1C 3 1 32 15 3 0) .regcode) = true := by decide
-- R146.
theorem test_decode_dependence : (reads (wV 0x1D 3 1 0 15 0 0) (.vconf 3 1 none false) && reads (wV 0x1D 3 1 20 15 1 0) (.vpart 3 1 20 none false)
    && reads (wV 0x1D 20 1 21 15 2 0) (.vparte 20 1 21 none false) && reads (wV 0x1D 20 1 2 15 3 0) (.vsegl 20 1 2 false)) = true := by decide
-- R173-R187.
theorem test_decode_vector_memory : (reads 0x781103C0 (.vld 1 1 0 none false) && reads (wVM 0x1E 1 2 9 15 1 2) (.vlds 1 2 9 none true)
    && reads 0x78341C89 (.vldx 3 4 7 (some 2) false true) && reads 0x78110FCC (.vldff 1 1 3 none false) && reads (wVM 0x1E 1 2 9 15 4 0) (.vldc 1 2 9 none false)
    && reads (wVM 0x1F 1 2 9 0 0 0) (.vst 1 2 9 (some 0) false) && reads 0x7C2127C4 (.vsts 2 1 9 none false)
    && reads (wVM 0x1F 1 2 40 15 2 1) (.vstx 1 2 40 none false true) && reads (wVM 0x1F 1 2 9 15 3 0) (.vstc 1 2 9 none false)) = true := by decide
theorem test_decode_vamo : (codes (fun k => wVM 0x20 5 4 7 15 k 2) [.vamoadd 5 4 7 none .release, .vamoswp 5 4 7 none .release, .vamocas 5 4 7 none .release,
    .vamomin 5 4 7 none .release, .vamomax 5 4 7 none .release, .vamoand 5 4 7 none .release, .vamoor 5 4 7 none .release,
    .vamoxor 5 4 7 none .release] && reads 0x80541FC2 (.vamoadd 5 4 7 none .release) && reads (wVM 0x20 5 4 7 15 10 3) (.vamocasw 5 4 7 none .acqRel)
    && refuses (wVM 0x20 5 4 7 15 8 0) .fn) = true := by decide
-- R224-R238.
theorem test_decode_berth : (reads 0x843003C0 (.brst 3) && reads 0x843003C1 (.brstFree 3) && reads 0x84241C45 (.gthw 2 4 7 (some 1) 1)
    && reads (wVM 0x21 9 4 7 6 2 2) (.gthv 9 4 7 6 2) && reads (wVM 0x21 9 4 7 6 3 0) (.gthvFf 9 4 7 6 0)
    && reads (wVM 0x21 2 4 7 15 4 0) (.sctw 2 4 7 none 0) && reads 0x84121D94 (.bcpy 1 2 7 6 0) && reads 0x849503D8 (.bavl 9 5)
    && reads 0x881FFFC0 (.waitc 0 31 31 31) && reads (lay [(6, 0x22), (5, 1), (5, 2), (5, 3), (5, 4), (6, 0)]) (.waitc 1 2 3 4)) = true := by decide
-- R190-R196.
theorem test_decode_memctl : (reads (wM 0x23 5 4 0 0) (.seal 5 4) && reads (wM 0x23 0 4 1 0) (.unseal 4) && reads (wM 0x23 1 4 2 2) (.pref true 4 2)
    && reads (wM 0x23 0 4 3 0) (.flush 4 0) && refuses (wM 0x23 2 4 2 0) .fn) = true := by decide
-- R244-R268.
theorem test_decode_tile : (reads 0x90000140 (.tld 0 0 10) && reads 0x9118054C (.tst 2 3 10 12) && reads (wTM 1 0 2 0 3) (.tforce 1 3)
    && reads (wTM 1 0 3 0 0) (.tdrop 1) && reads (wTM 1 0 4 0 0) (.tzero 1) && reads (wTM 1 0 5 0 3) (.tforceA 1 3) && reads 0x95020000 (.tmma 2 0 1)
    && reads (wT 0x25 3 1 2 1 (2 * 64 + 5 * 8 + 6)) (.tqmma 3 1 2 2 5 6) && reads (wT 0x25 3 1 2 2 4) (.tew 3 1 2 4)
    && reads (wT 0x25 3 1 0 3 (7 * 8 + 3)) (.tact 3 1 7 3) && reads (wT 0x25 3 1 0 3 1) (.tact 3 1 0 1) && reads (wT 0x25 3 1 0 4 5) (.tred 3 1 2 true) && reads (wT 0x25 3 1 0 5 9) (.tview 3 1 9)
    && reads (wTX 3 9 0 40 0) (.tfeed 3 9 40) && reads (wTX 3 9 1 40 0) (.tdrain 3 9 40) && reads (wTX 0 9 2 0 5) (.tstat 0 9 5)
    && reads (wTX 3 9 2 0 6) (.tstat 3 9 6)
    && reads 0xFD020003 (.tmmas 2 0 1 3) && refuses (wT 0x3F 2 0 1 1 3) .expfn) = true := by decide
-- R282.
theorem test_decode_grammar : (reads (wS3 0x28 4 5 0 0) (.gbind 4 5) && reads (wS3 0x28 0 5 0 16) (.gbindFree 5) && reads 0xA1212001 (.gstep 9 1 4)
    && reads (wS3 0x28 4 5 0 (16 + 2)) (.gmask 4 5 true) && reads (wS3 0x28 0 5 0 3) (.gckpt 5) && reads (wS3 0x28 0 5 6 4) (.groll 5 6)
    && reads (wS3 0x28 4 5 0 5) (.gfork 4 5) && reads (wS3 0x28 4 5 6 6) (.gsave 4 5 6) && reads (wS3 0x28 20 5 6 7) (.grest 20 5 6)
    && reads (wS3 0x28 20 5 0 (2 * 16 + 8)) (.gstat 20 5 2) && refuses (wS3 0x28 0 5 0 9) .fn) = true := by decide
-- R309 gives spawn.x's word; R308.
theorem test_decode_task : (reads 0xA5242840 (.spawn 9 4 5 .domain) && reads 0xA4011001 (.lease 1 2) && reads 0xA4032802 (.fset 3 5 .hart)
    && reads 0xA4C30003 (.fwait 6 3 .hart) && reads 0xA4E30004 (.fget 7 3 .hart) && reads 0xA4004055 (.exit 8 .system) && reads 0xA4000006 .yield
    && refuses (wS3 0x29 0 0 0 7) .fn) = true := by decide
-- R32, R33: what is no instruction.
theorem test_decode_reserved : (refuses 0 .zero && refuses 1 .major && refuses (0x27 * 2 ^ 26) .major && refuses (0x2A * 2 ^ 26) .major
    && refuses (0x3E * 2 ^ 26) .major) = true := by decide


/-! ### Terms that no entry admits: one for each check of `Instr.wellFormed` -/

theorem test_ill_formed : [Instr.fence .relaxed .die, .vcvt 1 2 0 14 none false, .vqnt 1 2 0 true 0 none false, .vdqnt 1 2 0 true 0 none false,
    .tqmma 1 2 3 0 1 2, .tew 1 2 3 5, .tact 1 2 0 5, .tact 1 2 7 0, .tred 1 2 3 false, .tstat 0 1 8, .tstat 1 1 5, .whashWrite 192 0 0,
    .whashWrite 0 3 0, .quadGrant 3072, .bteRow 192 0 0, .tfeedWritten 192, .asyncForceDone 192, .watchEngine 8, .flitReceive 64 [] .other,
    .laneRetire 192 0, .laneRetire 0 32, .modidAssign 3072, .portReset 2, .storePerformed 3072 0].all (fun i => !i.wellFormed) = true := by decide
theorem test_well_formed : [Instr.fence .acquire .die, .vcvt 1 2 0 13 none false, .vqnt 1 2 0 true 1 none false, .tqmma 1 2 3 1 1 2, .tew 1 2 3 4,
    .tact 1 2 7 3, .tact 1 2 0 4, .tred 1 2 2 true, .tstat 0 1 7, .tstat 1 1 6, .whashWrite 191 2 0, .quadGrant 3071, .laneRetire 191 31,
    .modidAssign 3071, .portReset 1, .storePerformed 3071 0].all (fun i => i.wellFormed) = true := by decide

/-! ### Small states -/

/-- A hart that runs at 0x10000, alone in the module, with one page of code and data. -/
def hart : State := State.reset.boot false
/-- A Pilot in its place. -/
def pilot : State := State.reset.boot true
/-- The current agent changed. -/
def edit (s : State) (f : Agent → Agent) : State := s.setAg s.cur (f (s.ag s.cur))
/-- Registers s1, s2, s3 and a1, a2 of the current agent. -/
def regs (s : State) (x y z : Word) (p q : Addr) : State :=
  edit s (fun a => { a with regs := { a.regs with s := ((a.regs.s.set 1 x).set 2 y).set 3 z, a := (a.regs.a.set 1 p).set 2 q } })
/-- The agent has taken PFX words. -/
def withPfx (s : State) (l : List (BitVec 26)) : State := edit s (fun a => { a with regs := { a.regs with pfx := l } })
/-- A hart with an open strip of a type and a length, on one quad. -/
def strip (t vl : Nat) : State := edit hart (fun a => { a with strip := { a.strip with
  isOpen := true, shut := false, vtype := BitVec.ofNat 8 t, vl := BitVec.ofNat 32 vl, live := 15, quads := 1, vlcap := 64, cap := 64 } })
/-- What s1 holds after a step of the instruction. -/
def s1After (i : Instr) (s : State) : Option Word := match exec i s with
  | .next t => some ((t.ag s.cur).rs 1)
  | _ => none
/-- A field of the state after a step of the instruction. -/
def after {α : Type} (i : Instr) (s : State) (f : State → α) : Option α := match exec i s with
  | .next t => some (f t)
  | _ => none

/-! ### Witnesses: states and operands that meet the hypotheses of each statement -/

theorem get_all {β : Type} (p : β → Bool) (d : β) (hd : p d = true) (k : Nat) : ∀ m : Assoc β, m.all (fun e => p e.2) = true → p (Assoc.get d k m) = true
  | [], _ => hd
  | e :: m, h => by
    have h2 : p e.2 = true ∧ m.all (fun e => p e.2) = true := by simpa using h
    unfold Assoc.get
    split
    · exact h2.1
    · exact get_all p d hd k m h2.2

/-- The memories of a state of plain data are in their form when each listed one is. -/
theorem memoryOk_of (s : State) (h : (Memory.wf s.mem && Memory.wf s.link.mem && s.quays.all (fun e => Quay.wf e.2)) = true) : s.MemoryOk := by
  simp only [Bool.and_eq_true] at h
  exact ⟨h.1.1, h.1.2, fun q => get_all Quay.wf {} (by decide) q s.quays h.2⟩

/-- No Wharf holds a single-bit error when none that is listed does. -/
theorem noErrors_of (s : State) (h : s.quays.all (fun e => e.2.ce.isEmpty) = true) : s.NoErrors := by
  intro q
  have := get_all (fun y : Quay => y.ce.isEmpty) {} (by decide) q s.quays h
  simpa [State.qy] using this

theorem witness_StepRunsTheDecodedInstruction :
    let s := hart.withFetchWord 32 0x04000007
    (s.agenda = [] ∧ (s.ag s.cur).status = .run ∧ (s.ag s.cur).marks.stall = false ∧ (s.ag s.cur).marks.stepping = false
      ∧ (s.ag s.cur).errorTrap = none ∧ (s.qy (quayOf s.cur)).salvage = false ∧ s.due s.cur = false ∧ decodeNat 0x04000007 = .ok .nop) ∧ ∃ s', s.fetch s.cur = .word 0x04000007 s' :=
  ⟨by decide, _, rfl⟩
theorem witness_PlacedWordIsFetched : hart.MemoryOk ∧ 2 ^ 32 - 1 < 2 ^ 32 ∧ ({ hart with agenda := [] } : State).fetchPlace = some ⟨.fabric, 0x10000⟩ :=
  ⟨memoryOk_of _ (by decide), by decide, by decide⟩
theorem witness_StepKeepsMemoriesCanonical : State.reset.MemoryOk ∧ ∃ t, step State.reset = .next t := ⟨memoryOk_of _ (by decide), _, rfl⟩
theorem witness_DecodeAfterEncode : (Instr.tact 1 2 7 3).WellFormed ∧ encode (.tact 1 2 7 3) = some 0x94A00C3B := by
  unfold Instr.WellFormed; decide
theorem witness_EncodeAfterDecode : decode 0x94A00C3B = .ok (.tact 1 2 7 3) := by decide
theorem witness_ReservedMajorsRefused : (∀ n ∈ [0, 1, 0x27 * 2 ^ 26, 0x2A * 2 ^ 26, 0x3E * 2 ^ 26], n < 2 ^ 32) ∧ 0 / 2 ^ 26 = 0
    ∧ 0x27 * 2 ^ 26 / 2 ^ 26 = 0x27 ∧ 0x2A ≤ 0x2A * 2 ^ 26 / 2 ^ 26 ∧ (0x3E * 2 ^ 26 / 2 ^ 26 : Nat) ≤ 0x3E := by decide

theorem ready_hart (i : Instr) : hart.Ready i := ⟨by decide, .inl (by decide)⟩
theorem ready_pilot (i : Instr) : pilot.Ready i := ⟨by decide, .inl (by decide)⟩
/-- Ready with a PFX word before it. -/
theorem ready_pfx : (withPfx hart [1]).Ready (.addi 1 2 3) := ⟨by decide, .inr rfl⟩

theorem witness_AluResults : hart.Ready (.add 1 2 3) ∧ (0x04 * 2 ^ 26 + 16) / 2 ^ 26 = 0x04 ∧ 15 < (0x04 * 2 ^ 26 + 16) % 2 ^ 11 :=
  ⟨ready_hart _, by decide, by decide⟩
theorem witness_AluImmediateResults : hart.Ready (.addi 1 2 63) ∧ wideNat (hart.ag hart.cur).regs.pfx 13 (63 : BitVec 13).toNat ≤ 63
    ∧ 63 < wideNat (hart.ag hart.cur).regs.pfx 13 (64 : BitVec 13).toNat ∧ hart.Ready (.li 1 0x1FFFFF) := ⟨ready_hart _, by decide, by decide, ready_hart _⟩
/-- s1 the least number, s2 minus one. -/
def leastByMinusOne : State := regs hart 0x8000000000000000 0xFFFFFFFFFFFFFFFF 0 0 0
theorem witness_MulDivResults : leastByMinusOne.Ready (.mul 3 1 2) ∧ ((leastByMinusOne.ag leastByMinusOne.cur).rs 1).toInt = -2 ^ 63
    ∧ ((leastByMinusOne.ag leastByMinusOne.cur).rs 2).toInt = -1 ∧ ((leastByMinusOne.ag leastByMinusOne.cur).rs 0).toNat = 0
    ∧ (0x07 * 2 ^ 26 + 7) / 2 ^ 26 = 0x07 ∧ 6 < (0x07 * 2 ^ 26 + 7) % 2 ^ 11 := ⟨⟨by decide, .inl (by decide)⟩, by decide⟩
theorem witness_BranchTargets : leastByMinusOne.Ready (.beq 1 2 5) ∧ (leastByMinusOne.ag leastByMinusOne.cur).rs 1 ≠ (leastByMinusOne.ag leastByMinusOne.cur).rs 2
    ∧ ((leastByMinusOne.ag leastByMinusOne.cur).rs 1).toInt < ((leastByMinusOne.ag leastByMinusOne.cur).rs 2).toInt
    ∧ (8 * 2 ^ 26 + 6 * 2 ^ 23) / 2 ^ 26 = 8 ∧ 6 ≤ (8 * 2 ^ 26 + 6 * 2 ^ 23) / 2 ^ 23 % 8 := ⟨⟨by decide, .inl (by decide)⟩, by decide⟩
theorem witness_JumpAndCall : hart.Ready (.j 5) := ready_hart _
theorem witness_RegisterJumps : (regs hart 0 0 0 0x10100000000000000 2).Ready (.jr 1) ∧ (((regs hart 0 0 0 0x10100000000000000 2).ag 0).ra 1).toNat % 4 = 0
    ∧ (((regs hart 0 0 0 0x10100000000000000 2).ag 0).ra 2).toNat % 4 ≠ 0 := ⟨⟨by decide, .inl (by decide)⟩, by decide⟩
theorem witness_AddressResults : hart.Ready (.aadd 1 2 3) ∧ (withPfx hart [1]).Ready (.aaddi 1 2 3) ∧ (withPfx hart [1]).Ready (.aset 1 2 3)
    ∧ hart.Ready (.alo 1 2) ∧ hart.Ready (.awn 1 2) ∧ hart.Ready (.adiff 1 2 3) :=
  ⟨ready_hart _, ⟨by decide, .inr rfl⟩, ⟨by decide, .inr rfl⟩, ready_hart _, ready_hart _, ready_hart _⟩
theorem witness_PfxGroups : ((withPfx hart [1]).ag 0).regs.pfx.length < 2 ∧ 2 ≤ ((withPfx hart [1, 2]).ag 0).regs.pfx.length := by decide

/-- The page's data half: a1 at its place 0x10800, a2 one byte on. -/
def data : State := regs hart 5 6 7 0x10800 0x10801
/-- The place of a1. -/
def there : Hit := match data.xlate (data.actor 0) 0x10800 Acc.load with
  | .ok h => h
  | .error _ => { place := ⟨.host, 0⟩, mtype := 9, leaf := none }
theorem witness_LoadResults : data.Ready (.ldb 3 1 0) ∧ (∀ n ∈ [1, 2, 4, 8, 16], data.Reaches (data.eaddr 1 0 n) n Acc.load there
    ∧ data.NoCutAt (data.eaddr 1 0 n) ∧ data.badSeen 0 there.place n = none) ∧ data.NoErrors := by
  refine ⟨⟨by decide, .inl (by decide)⟩, ?_, noErrors_of _ (by decide)⟩
  unfold State.Reaches State.NoCutAt
  decide
/-- A word of the hart's own Wharf, at a1, has a single-bit error. -/
def scarred : State := (regs hart 5 6 7 0x20000000000000008 0).modQy 0 (fun y => { y with ce := [1, 3] })
/-- The place of a1. -/
def scar : Hit := { place := ⟨.wharf 0, 8⟩, mtype := 0, leaf := none }
theorem witness_LoadResults_error : scarred.Ready (.ldd 3 1 0) ∧ scarred.Reaches (scarred.eaddr 1 0 8) 8 Acc.load scar ∧ scarred.NoCutAt (scarred.eaddr 1 0 8)
    ∧ scarred.badSeen 0 scar.place 8 = none ∧ scar.place.addr % 8 = 0 ∧ (scarred.qy 0).ce.filter (fun k => decide (k = scar.place.addr / 8)) = [scar.place.addr / 8] := by
  refine ⟨⟨by decide, .inl (by decide)⟩, ?_⟩
  unfold State.Reaches State.NoCutAt
  decide
theorem witness_StoreResults : ∀ p ∈ [(1, Instr.stb 3 1 0), (2, .sth 3 1 0), (4, .stw 3 1 0), (8, .std 3 1 0), (16, .sta 3 1 0)],
    data.StoreReady p.2 (data.eaddr 1 0 p.1) p.1 there := by
  unfold State.StoreReady State.Ready State.Reaches
  decide
theorem witness_InstructionTraps_misaligned : data.Ready (.ldb 3 2 0) ∧ (data.ag 0).inStrip = false ∧ ∀ n ∈ [2, 4, 8, 16], (data.eaddr 2 0 n).toNat % n ≠ 0 :=
  ⟨⟨by decide, .inl (by decide)⟩, by decide, by decide⟩
theorem witness_AtomicResults : data.MemoryOk ∧ data.Ready (.amoadd 1 1 2 true .acqRel .system) ∧ (data.ag 0).inStrip = false ∧ data.AllQuiet
    ∧ (∀ n ∈ [4, 8], data.Reaches 0x10800 n { r := true, w := true } there ∧ data.badRead there.place n = none) ∧ there.place.Plain := by
  refine ⟨memoryOk_of _ (by decide), ⟨by decide, .inl (by decide)⟩, by decide, ?_, ?_, ?_⟩
  · unfold State.AllQuiet; decide
  · unfold State.Reaches; decide
  · unfold Place.Plain; decide
/-- A state's module becomes module 5, for which the fabric below 2^44 is another's. -/
def far (s : State) : State := { s with modid := 5 }
theorem witness_AtomicResults_home : data.away there.place = false ∧ (far data).away there.place = true ∧ (far data).MemoryOk
    ∧ (far data).Ready (.amoadd 1 1 2 true .acqRel .system) ∧ ((far data).ag 0).inStrip = false ∧ (far data).AllQuiet
    ∧ (∀ n ∈ [4, 8], (far data).Reaches 0x10800 n { r := true, w := true } there ∧ (far data).badRead there.place n = none) := by
  refine ⟨by decide, by decide, memoryOk_of _ (by decide), ?_, by decide, ?_, ?_⟩
  · unfold State.Ready; decide
  · unfold State.AllQuiet; decide
  · unfold State.Reaches; decide +kernel


/-! Control registers, traps, orders -/

/-- The agent is `pilot` with all of s1 set. -/
def wide : State := regs pilot 0xFFFFFFFFFFFFFFFF 6 7 0x10800 0x10801
/-- A hart that owns the sixteen berths. -/
def owner : State := (regs hart 0xFFFFFFFFFFFFFFFF 6 7 0x10800 0x10801).modQy 0 (fun y => { y with berths := Vector.replicate 16 { owner := some 0 } })
/-- The same code without the system bit. -/
def user (s : State) : State := { s with fw := { s.fw with codes := s.fw.codes.map (fun c => (c.1, { c.2 with system := false })) } }
/-- A handler at 0x10400, the context's trap page at 0x18000. -/
def handled (s : State) : State := edit { s with fw := { s.fw with ctxs := s.fw.ctxs.map (fun c => (c.1, { c.2 with trapPage := 0x18000 })) } }
  (fun a => { a with trap := { a.trap with tvec := 0x10400, tepc := 0x10040 } })
/-- The place of the trap record. -/
def trapPlace : Hit := match (handled data).xlate ((handled data).actor 0) ((handled data).recordSlot 0) Acc.store with
  | .ok h => h
  | .error _ => there
/-- Within a trap handler. -/
def within (s : State) : State := edit s (fun a => { a with trap := { a.trap with inh := true, tepc := 0x10040 } })
/-- Under a debugger. -/
def debugged (s : State) : State := { s with fw := { s.fw with ctxs := s.fw.ctxs.map (fun c => (c.1, { c.2 with debugger := true })) } }

theorem witness_CsrResults : owner.CsrMay 0x310 false ∧ owner.CsrMay 0x200 true ∧ owner.CsrMay 0x027 true ∧ wide.CsrMay 0x020 true ∧ owner.Ready (.csrw 1 1 0x310)
    ∧ (owner.ag 0).inStrip = false ∧ csrPlain 0x310 = true ∧ csrAssigned 0x100 = true ∧ csrReadOnly 0x100 = true ∧ owner.CsrMay 0x100 true
    ∧ csrAssigned 0x7FF = false ∧ owner.CsrMay 0x7FF true ∧ owner.Ready (.csrs 1 0 0x310) := by
  (repeat' apply And.intro) <;> decide
theorem witness_InstructionTraps_privilege : csrPriv 0x020 = true ∧ (user data).sysAt 0 0x10000 = false ∧ (user data).Ready (.csrr 1 0x020)
    ∧ isPilot pilot.cur = true ∧ csrHartOnly 0x100 = true ∧ pilot.Ready (.lease 1 2) ∧ isPilot data.cur = false ∧ csrPilotOnly 0x401 = true
    ∧ data.Ready (.tzero 1) ∧ (user data).Ready .eret := by
  (repeat' apply And.intro) <;> decide
theorem witness_InstructionTraps_vector_type : data.Ready (VOp.add.vv 1 2 3 none false) ∧ (data.ag 0).strip.shut = true ∧ (strip 0x0C 3).Ready (VOp.and.vv 1 2 3 none false)
    ∧ VOp.and.types (strip 0x0C 3).env.ty = false ∧ VOp.add.types (strip 0x12 3).env.ty = true ∧ (∃ v ∈ [(1 : Fin 48), 2, 4], v.val % (strip 0x12 3).env.g ≠ 0)
    ∧ (strip 0x12 3).Ready (VOp.add.vv 1 2 4 none false) ∧ ((strip 0x12 3).ag 0).strip.susp = false ∧ ((strip 0x12 3).ag 0).strip.shut = false := by
  (repeat' apply And.intro) <;> decide
theorem witness_InstructionTraps_illegal_type : isPilot data.cur = false ∧ (data.ag 0).strip.susp = false ∧ vtLegal (wideNat (data.ag 0).regs.pfx 13 (0x30 : BitVec 13).toNat) = false
    ∧ (data.ag 0).regs.pfx = [] ∧ vtLegal (((regs data 0x100 0 0 0 0).ag 0).rs 1).toNat = false := by decide
theorem witness_SystemResults : data.Ready .nop ∧ data.Ready (.pref false 1 0) ∧ data.Ready (.trcm 1 5) ∧ (data.ag 0).inStrip = false
    ∧ data.Ready .eret ∧ data.sysAt 0 0x10000 = true ∧ (data.ag 0).trap.inh = false ∧ ((within data).ag 0).trap.inh = true ∧ (within data).Ready .eret
    ∧ (within data).sysAt 0 0x10000 = true ∧ ((within data).ag 0).strip.buf = [] ∧ (debugged data).Ready .halt ∧ ((debugged data).ctx 0).debugger = true
    ∧ (data.ctx 0).debugger = false ∧ data.copiesDone 0 = true ∧ data.AllQuiet := by
  (repeat' apply And.intro) <;> decide
theorem witness_TrapEntry : localCause 0x33 = true ∧ localCause 0x02 = true ∧ ((handled data).ag 0).trap.inh = false ∧ ((handled data).ag 0).trap.tvec ≠ 0
    ∧ debugCause 0x30 = true ∧ debugCause 0x31 = true ∧ ((debugged data).ctx ((debugged data).ag 0).ctx).debugger = true ∧ (data.ctx (data.ag 0).ctx).debugger = false
    ∧ (handled data).xlate ((handled data).actor 0) ((handled data).recordSlot 0) Acc.store = .ok trapPlace ∧ trapPlace.mtype ≠ 2
    ∧ ((handled data).tile 0).watched = [] ∧ ((handled data).ag 0).inStrip = false ∧ ((handled data).ag 0).strip.buf = []
    ∧ ((handled (strip 0x02 3)).ag 0).inStrip = true ∧ ((handled (strip 0x02 3)).ag 0).trap.tvec ≠ 0 ∧ (data.ag 0).trap.tvec = 0 := by decide
theorem witness_OrderResults : data.MemoryOk ∧ (data.ag 0).inStrip = false ∧ data.Ready (.fence .acquire .die) ∧ ordRel .acquire = false
    ∧ ordRel .release = true ∧ Scope.die ≠ .hart ∧ data.PlainQueue ∧ data.Ready (.vlsync .die) ∧ isPilot data.cur = false
    ∧ isPilot pilot.cur = true ∧ (pilot.tile 0).watched = [] := by
  refine ⟨memoryOk_of _ (by decide), by decide, ⟨by decide, .inl (by decide)⟩, by decide, by decide, by decide, ?_, ⟨by decide, .inl (by decide)⟩, by decide⟩
  unfold State.PlainQueue Place.Plain
  decide


/-! Barriers, seals -/

/-- The agent's task takes part in level 0, whose group it is in alone; it has arrived `n` times. -/
def leveled (s : State) (n : Nat) : State :=
  let k := (s.ag s.cur).tkey
  let s := s.modTask k (fun t => { t with levels := [⟨1, 1, 0, 1, 1, true⟩] })
  { s with work := { s.work with groups := [{ launch := 0, level := 0, key := [], arrivals := [(k, n)] }] } }
/-- The page at 0x10000 may be sealed. -/
def sealable (s : State) : State := s.setPte 0x80008 0x1003F
/-- The first page is sealed. -/
def sealed_ (s : State) : State := { sealable s with fw := { s.fw with seals := [⟨0, 0x10000, 0, [1]⟩] } }
/-- The table of this module is full. -/
def fullSeals (s : State) : State := { s with fw := { s.fw with seals := List.replicate 256 ⟨9, 0, 0, []⟩ } }
/-- The base 0x10000 in a1, one page in s1, a length that is none in s2. -/
def sealing (s : State) : State := regs s 0x10000 0x8000 0 0x10000 0x10000000000010000

theorem witness_BarrierResults : (leveled data 0).Ready (.barv 0) ∧ ((leveled data 0).ag 0).inStrip = false
    ∧ ((leveled data 0).task 0).levels[(0 : Fin 8).val]? = some ⟨1, 1, 0, 1, 1, true⟩ ∧ ((leveled data 0).groupOf 0 0).any (fun z => !z.2.passed 0) = false
    ∧ ((leveled data 1).groupOf 0 0).any (fun z => !z.2.passed 0) = true ∧ (leveled data 0).AllQuiet ∧ (leveled data 0).link.relaxed = 0
    ∧ (data.task 0).levels[(0 : Fin 8).val]? = none := by
  (repeat' apply And.intro) <;> decide
theorem witness_SealResults : (sealing (sealable data)).Ready (.seal 1 1) ∧ ((sealing (sealable data)).ag 0).marks.clear = ((sealing (sealable data)).ag 0).marks
    ∧ ((sealing (sealable data)).ag 0).inStrip = false ∧ ((regs (sealable data) 0x10000 0x8000 0 0x10000 0).ag 0).rs 2 = 0x8000
    ∧ (sealing (sealable data)).sealPages (sealing (sealable data)).issue 0x10000 1 = .ok [1]
    ∧ ([1].any (fun p => (sealing (sealable data)).fw.seals.any (fun z => z.pages.contains p))) = false
    ∧ ([1].any (fun p => (sealed_ data).fw.seals.any (fun z => z.pages.contains p))) = true
    ∧ (∀ e ∈ (sealing (sealable data)).agents, e.2.mem.queue = [] ∧ e.2.strip.buf = [])
    ∧ ((sealing (sealable data)).ag 0).ra 2 = 0x10000000000010000
    ∧ (sealing (sealed_ data)).fw.seals.any (fun z => decide (z.part = 0 ∧ z.base = 0x10000)) = true
    ∧ data.xlate (data.actor 0) (data.eaddr 1 0 64) Acc.load = .ok there ∧ there.place.space ≠ .host
    ∧ (∀ m ∈ ([1].map (fun p => p / 2 ^ 28)).dedup, ((sealing (sealable data)).fw.seals.filter (fun z => z.home = m)).length < 256)
    ∧ (∃ m ∈ ([1].map (fun p => p / 2 ^ 28)).dedup, 256 ≤ ((fullSeals (sealing (sealable data))).fw.seals.filter (fun z => z.home = m)).length)
    ∧ ([1].any (fun p => (fullSeals (sealing (sealable data))).fw.seals.any (fun z => z.pages.contains p))) = false := by
  refine ⟨⟨by decide, .inl (by decide)⟩, by decide, by decide, by decide, rfl, ?_⟩
  (repeat' apply And.intro) <;> decide
theorem witness_SealResults_flush : there.place.space = .fabric ∧ there.mtype = 0 ∧ data.MemoryOk ∧ data.PlainQueue ∧ data.Ready (.flush 1 0)
    ∧ (∀ k < 64, ((⟨.fabric, there.place.addr / 64 * 64⟩ : Place).plus k).Plain) := by
  refine ⟨by decide, by decide, memoryOk_of _ (by decide), ?_, ⟨by decide, .inl (by decide)⟩, ?_⟩
  · unfold State.PlainQueue Place.Plain; decide
  · unfold Place.Plain; decide


/-! Tiles -/

/-- Tile registers with a shape and a computed value: register, type, rows, columns. -/
def tiles (s : State) (l : List (Fin 8 × Nat × Nat × Nat)) : State :=
  s.setTile 0 (l.foldl (fun t x => { t with
    tshp := t.tshp.set x.1 (BitVec.ofNat 24 (x.2.1 + x.2.2.1 * 2 ^ 8 + x.2.2.2 * 2 ^ 16))
    cur := t.cur.set x.1 (some t.nextId)
    versions := Assoc.set t.nextId ⟨x.2.1, x.2.2.1, x.2.2.2, none, 0, [(0, [(0, 0x3C), (1, 0x42)])]⟩ t.versions
    nextId := t.nextId + 1 }) {})
/-- A Pilot with t0 and t1 of f32 2 by 2, t2 of f16 2 by 2, t3 of f16 8 by 2, t4 of i8 (type 4) 2 by 2, t5 of f16 2 by 4, t6 of f32 2 by 1. -/
def tiled : State := regs (tiles pilot [(0, 12, 2, 2), (1, 12, 2, 2), (2, 10, 2, 2), (3, 10, 8, 2), (4, 4, 2, 2), (5, 10, 2, 4), (6, 12, 2, 1)])
  0x02000200 16 0x05000200 0x10800 0x10801
/-- A Pilot for TQMMA: t0 of f32 2 by 2, t1 of q8 2 by 32, t2 of q8 32 by 2, t3 of parameters 2 by 1, t4 of parameters 1 by 2. -/
def quantized : State := tiles pilot [(0, 12, 2, 2), (1, 15, 2, 32), (2, 15, 32, 2), (3, 16, 2, 1), (4, 16, 1, 2)]
/-- The state after a Pilot's instruction. -/
def then_ (i : Instr) (s : State) : State := match exec i s with
  | .next t => t
  | _ => s
/-- t0 to be computed by a TEW of itself and t1. -/
def pending : State := then_ (.tew 0 0 1 0) tiled
/-- The node of t0's version. -/
def pendingNode : Node := ((pending.tiles.ver 7).node).getD ⟨0, 0, .tld, 0, .rne, [], 0, 0, 0⟩
/-- A hart with an open strip of f32 and the tiles of `tiled`. -/
def tiledStrip : State := tiles (regs (strip 0x0C 2) 1 16 0 0x10800 0) [(0, 12, 2, 2), (1, 12, 2, 2)]
/-- The same with t2's shape legal and no value. -/
def emptyTile : State := tiledStrip.setTile 0 { tiledStrip.tile 0 with tshp := (tiledStrip.tile 0).tshp.set 2 0x02020C }

theorem holds_tiled : ∀ r : Fin 7, tiled.tiles.holds (Fin.castLE (by decide) r) := by
  intro r; refine ⟨by revert r; decide, r.val, ?_⟩; revert r; decide
theorem holds_quantized : ∀ r : Fin 5, quantized.tiles.holds (Fin.castLE (by decide) r) := by
  intro r; refine ⟨by revert r; decide, r.val, ?_⟩; revert r; decide
/-- The shape of a register of `tiled`, of `quantized`. -/
def shT (r : Fin 8) : Shape := tiled.tiles.shapeReg r
def shQ (r : Fin 8) : Shape := quantized.tiles.shapeReg r
theorem witness_TileAppendResults : (∀ i ∈ [Instr.tld 0 1 2, .tzero 0, .tmma 0 2 2, .tew 0 0 1 0, .tact 0 1 1 3, .tview 0 1 0, .tmmas 0 5 3 4], tiled.TileRoom i 0)
    ∧ tiled.TileRoom (.tred 6 0 1 false) 6 ∧ quantized.TileRoom (.tqmma 0 1 2 1 4 3) 0 := by
  unfold State.TileRoom State.Ready; decide
theorem witness_TileAppendResults_shapes :
    (tiled.tiles.watched.length < 64 ∧ ((tiled.ag 8).ra 1).toNat % 4 = 0 ∧ ((tiled.ag 8).rs 2).toInt % 4 = 0)
    ∧ ((shT 0).ty = 12 ∧ (shT 2).ty = 10 ∧ (shT 0).rows = (shT 2).rows ∧ (shT 0).cols = (shT 2).cols ∧ (shT 2).rows = (shT 2).cols)
    ∧ ((shQ 0).ty = 12 ∧ (shQ 1).ty = 15 ∧ (shQ 2).ty = 15 ∧ (shQ 3).ty = 16 ∧ (shQ 4).ty = 16 ∧ (shQ 0).rows = (shQ 1).rows
      ∧ (shQ 0).cols = (shQ 2).cols ∧ (shQ 2).rows = (shQ 1).cols ∧ (shQ 1).cols % 32 = 0 ∧ (shQ 3).rows = (shQ 1).rows
      ∧ (shQ 3).cols = (shQ 1).cols / 32 ∧ (shQ 4).rows = (shQ 1).cols / 32 ∧ (shQ 4).cols = (shQ 2).cols)
    ∧ ((shT 1).ty = 12 ∧ (shT 0).rows = (shT 1).rows ∧ (shT 0).cols = (shT 1).cols)
    ∧ ((shT 6).ty = 12 ∧ (shT 6).rows = (shT 0).rows ∧ (shT 6).cols = 1)
    ∧ ((∀ k ∈ [0, 2, 4, 6], ((tiled.ag 8).rs 0).toNat / 2 ^ k % 4 ≠ 2) ∧ viewImage ((tiled.ag 8).rs 0) 1 1 = (0, 0))
    ∧ ((shT 5).ty = 10 ∧ (shT 3).ty = 10 ∧ (shT 4).ty = 4 ∧ (shT 0).rows = (shT 5).rows ∧ (shT 4).rows = (shT 5).rows ∧ (shT 0).cols = (shT 3).cols
      ∧ (shT 3).rows % 4 = 0 ∧ 2 * (shT 5).cols = (shT 3).rows ∧ 4 * (shT 4).cols = (shT 3).rows) := by decide
theorem witness_TileForceResults_errors : pending.NoErrors ∧ tiled.tiles.reads = [] ∧ tiledStrip.tiles.reads = [] := ⟨noErrors_of _ (by decide), by decide, by decide⟩
theorem get_small {n : Nat} (hn : 0 < n) (v : Version) (h : v.data.all (fun r => r.2.all (fun e => decide (e.2 < n))) = true) (i j : Nat) : v.get i j < n := by
  have row := get_all (fun r : Assoc Nat => r.all (fun e => decide (e.2 < n))) [] rfl i v.data h
  exact of_decide_eq_true (get_all (fun x => decide (x < n)) 0 (decide_eq_true hn) j _ row)
theorem witness_TileForceResults : pending.RectAt (.tforce 0 1) 0 1 7 ∧ (pending.tiles.ver 7).node = some pendingNode
    ∧ pendingNode.mode ≠ .sr ∧ pendingNode.op = .tew 0 ∧ (pending.tiles.ver 7).ty = 12 ∧ pendingNode.srcs.map (fun x => (pending.tiles.ver x).ty) = [12, 12]
    ∧ (∀ x ∈ pendingNode.srcs, (pending.tiles.ver x).node = none) :=
  ⟨by unfold State.RectAt State.Ready; decide, by decide⟩
theorem witness_TileForceResults_types : (TileOp.tew 0).Typed 12 [12, 12] ∧ ∀ x ∈ pendingNode.srcs, ∀ i j, (pending.tiles.ver x).get i j < 2 ^ 32 := by
  refine ⟨⟨by decide, 12, 12, rfl, by decide⟩, fun x hx => get_small (by decide) _ ?_⟩
  revert x; decide
/-- t0 to be read from the page by a TLD. -/
def fetching : State := tiled.setTile 0 { tiled.tile 0 with
  cur := (tiled.tile 0).cur.set 0 (some 7), nextId := 8
  versions := Assoc.set 7 ⟨12, 2, 2, some { num := 0, order := 7, op := .tld, pc := 0x10000, mode := .rne, srcs := [], addr := 0x10800, stride := 16 }, 0, []⟩ (tiled.tile 0).versions }
/-- The engine's read of an element reaches its place. -/
def reachesAt (a : Addr) : Bool := match fetching.xlate (fetching.tileActor 0) a Acc.vload with
  | .ok h => decide (h.place = ⟨.fabric, a.toNat⟩)
  | .error _ => false
theorem witness_TileForceResults_memory : fetching.RectAt (.tforce 0 1) 0 1 7 ∧ ((fetching.tiles.ver 7).node.map (fun n => (n.op, n.mode, n.srcs, n.addr, n.stride))
      = some (.tld, .rne, [], 0x10800, 16)) ∧ (fetching.tiles.ver 7).computed = 0 ∧ (fetching.tiles.ver 7).data = []
    ∧ reachesAt 0x10800 = true ∧ reachesAt 0x10804 = true ∧ reachesAt 0x10810 = true ∧ reachesAt 0x10814 = true
    ∧ (∀ a ∈ [0x10800, 0x10804, 0x10810, 0x10814], fetching.heldAt ⟨.fabric, a⟩ = false ∧ fetching.badRead ⟨.fabric, a⟩ 4 = none) := by
  refine ⟨by unfold State.RectAt State.Ready; decide, by decide, by decide, by decide, ?_, ?_, ?_, ?_, ?_⟩ <;> decide +kernel
theorem witness_TileRegisterResults : tiled.Ready (.tst 0 1 2 1) ∧ tiled.tiles.cur[(7 : Fin 8)] = none ∧ tiled.RectAt (.tst 0 1 2 1) 0 1 0
    ∧ tiled.RectAt (.tforceA 0 1) 0 1 0 ∧ (tiled.tiles.ver 0).cols < (rectOf ((tiled.ag 8).rs 3)).col0 + (rectOf ((tiled.ag 8).rs 3)).cols
    ∧ tiled.tiles.feeds = [] ∧ (tiled.tiles.ver 0).node = none ∧ tiled.tiles.watched = [] ∧ (tiled.ag 8).strip.buf = []
    ∧ ((tiled.ag 8).ra 1).toNat % 4 = 0 ∧ ((tiled.ag 8).rs 2).toInt % 4 = 0 := by
  unfold State.RectAt State.Ready; decide
theorem witness_TileRegisterResults_transfers : tiledStrip.VecCalm (.tfeed 0 1 3) ∧ tiledStrip.CutReady ∧ tyINF tiledStrip.env.ty = true
    ∧ tiledStrip.env.ty = (emptyTile.tiles.shapeReg 2).ty ∧ ((tiledStrip.ag 0).rs 1).toNat < (emptyTile.tiles.shapeReg 2).rows ∧ tiledStrip.env.vl ≤ 2
    ∧ emptyTile.VecCalm (.tfeed 2 1 3) ∧ emptyTile.CutReady
    ∧ emptyTile.tiles.cur[(2 : Fin 8)] = none ∧ (emptyTile.tiles.shapeReg 2).legal = true ∧ tiledStrip.tiles.cur[(0 : Fin 8)] = some 0
    ∧ (tiledStrip.tiles.ver 0).node = none ∧ tiledStrip.VecCalm (.tdrain 0 1 3) ∧ tiledStrip.tiles.feeds = [] ∧ tiledStrip.Ready (.tstat 0 1 6)
    ∧ (∀ p ∈ tiledStrip.tiles.nodes, 0 ∉ p.2.srcs) := by
  (repeat' apply And.intro) <;> decide


/-! Walkers -/

/-- The image of R277, balanced parentheses around the letter x, with the header's words 24 to 39 as the cache of its state for the top 0. -/
def grammar : List Byte :=
  leBytes 4 0x31524D47 ++ leBytes 2 1 ++ leBytes 2 0 ++ leBytes 2 4 ++ leBytes 2 1 ++ leBytes 4 1 ++ leBytes 4 3 ++ leBytes 4 5 ++ leBytes 4 6 ++ leBytes 4 0
  ++ leBytes 4 320 ++ leBytes 4 336 ++ leBytes 4 360 ++ leBytes 4 400 ++ leBytes 4 408 ++ leBytes 4 504 ++ leBytes 8 0
  ++ (List.range 256).map (fun b => if b = 0x28 then 1 else if b = 0x29 then 2 else if b = 0x78 then 3 else 0)
  ++ (leBytes 4 0 ++ leBytes 2 3 ++ leBytes 2 3 ++ leBytes 4 24 ++ leBytes 2 0 ++ leBytes 2 0)
  ++ ([1, 1] ++ leBytes 6 0 ++ [2, 2] ++ leBytes 6 0 ++ [3, 0] ++ leBytes 6 0)
  ++ (leBytes 4 0 ++ leBytes 4 1 ++ leBytes 4 1 ++ leBytes 4 1 ++ leBytes 4 2 ++ leBytes 4 2 ++ leBytes 4 4 ++ leBytes 4 2 ++ leBytes 4 0 ++ leBytes 4 0x10000)
  ++ [0x28, 0x29, 0x28, 0x28, 0x78, 0x29, 0, 0]
  ++ (leBytes 4 1 ++ leBytes 4 3 ++ leBytes 8 0 ++ leBytes 4 4 ++ leBytes 4 0x280001 ++ leBytes 8 0x80000000 ++ leBytes 4 0 ++ leBytes 4 0x290000
    ++ leBytes 8 0x80000001 ++ leBytes 4 5 ++ leBytes 4 0x780001 ++ leBytes 8 0 ++ leBytes 4 0 ++ leBytes 4 0x280000 ++ leBytes 8 0x80000002
    ++ leBytes 4 0 ++ leBytes 4 0x290000 ++ leBytes 8 0x80000003)
/-- Its bytes at 0x100C00, those that are not zero. -/
def grammarMem : Mem :=
  [(1051648, 71), (1051649, 77), (1051650, 82), (1051651, 49), (1051652, 1), (1051656, 4), (1051658, 1), (1051660, 1), (1051664, 3), (1051668, 5), (1051672, 6), (1051680, 64), (1051681, 1), (1051684, 80), (1051685, 1), (1051688, 104), (1051689, 1)] ++
  [(1051692, 144), (1051693, 1), (1051696, 152), (1051697, 1), (1051700, 248), (1051701, 1), (1051752, 1), (1051753, 2), (1051832, 3), (1051972, 3), (1051974, 3), (1051976, 24), (1051984, 1), (1051985, 1), (1051992, 2), (1051993, 2)] ++
  [(1052000, 3), (1052012, 1), (1052016, 1), (1052020, 1), (1052024, 2), (1052028, 2), (1052032, 4), (1052036, 2), (1052046, 1), (1052048, 40), (1052049, 41), (1052050, 40), (1052051, 40), (1052052, 120), (1052053, 41), (1052056, 1), (1052060, 3)] ++
  [(1052072, 4), (1052076, 1), (1052078, 40), (1052083, 128), (1052094, 41), (1052096, 1), (1052099, 128), (1052104, 5), (1052108, 1), (1052110, 120), (1052126, 40), (1052128, 2), (1052131, 128), (1052142, 41), (1052144, 3), (1052147, 128)]
theorem test_grammar_placed : grammar.zipIdx.filterMap (fun b => if b.1 = 0 then none else some (0x100C00 + b.2, b.1)) = grammarMem := by decide
/-- Its header. -/
def grammarHdr : GrammarHdr := ⟨4, 1, 1, 3, 5, 0, 320, 336, 360, 400, 6, 408, 504⟩
/-- A hart, its page at 0x100000, with the image at a1 = 0x10C00 and a writable place at a2 = 0x14000; the spill area of slots 1 and 2 enabled. -/
def parsing (x y z : Word) : State :=
  let s := { regs hart x y z 0x10C00 0x14000 with mem := [(131072, 1), (131074, 4), (262144, 1), (262146, 6), (393216, 1), (393218, 8), (524296, 31), (524298, 16)] ++ grammarMem }
  s.modQy 0 (fun k => { k with walk := { k.walk with gspill := (k.walk.gspill.set 1 0x12001).set 2 0x16001 } })
/-- The walker bound. -/
def fresh : Walker := { image := 0x10C00, hdr := grammarHdr, spill := 0x12000, st := 0 }
/-- Slot 1 holds a walker. -/
def bound (s : State) (w : Walker) : State := s.modQy 0 (fun k => { k with walk := { k.walk with slots := k.walk.slots.set 1 (some w) } })
/-- A walker with a checkpoint at the bottom and one push since. -/
def pushed : Walker := { fresh with stack := [0], log := [0xFFFF], ckpts := [⟨0, 0, 0, 0, false⟩], tokens := 1 }
/-- The value a computation answers. -/
def gives {α : Type} [DecidableEq α] (r : Except Stop (α × State)) (x : α) : Bool := match r with
  | .ok p => decide (p.1 = x)
  | .error _ => false
theorem gives_ok {α : Type} [DecidableEq α] {r : Except Stop (α × State)} {x : α} (h : gives r x = true) : ∃ s1, r = .ok (x, s1) := by
  unfold gives at h
  split at h
  · rename_i p; exact ⟨p.2, by rw [← of_decide_eq_true h]⟩
  · exact absurd h (by decide)
/-- The walkers' state before an instruction of theirs. -/
def P1 : State := parsing 1 0 2
/-- Slot 1 bound, with nothing read. -/
def P2 : State := bound P1 fresh
/-- Slot 1 with a checkpoint and a step. -/
def P3 : State := bound P1 pushed
/-- Slot 1 with an error of its image. -/
def P4 : State := bound P1 { pushed with err := 2 }

theorem witness_WalkerBindResults_slots : P1.Ready (.gckpt 1) ∧ (P1.ag 0).inStrip = false ∧ ((P1.ag 0).rs 1).toNat ≤ 15 ∧ (P1.walks 0).at 1 = none
    ∧ 15 < (((parsing 16 0 0).ag 0).rs 1).toNat ∧ (parsing 16 0 0).Ready (.gckpt 1) ∧ ((parsing 16 0 0).ag 0).inStrip = false := by
  (repeat' apply And.intro) <;> decide
theorem witness_WalkerBindResults : P1.Ready (.gbindFree 1) ∧ ((P1.ag 0).rs 1).toNat ≤ 15 ∧ (P1.ag 0).inStrip = false ∧ ((P1.ag 0).ra 1).toNat % 64 = 0
    ∧ ((data.ag 0).ra 2).toNat % 64 ≠ 0 ∧ ((P1.walks 0).gspill.toList.getD 0 0).toNat % 2 = 0 ∧ ((P1.walks 0).gspill.toList.getD 1 0).toNat % 2 = 1
    ∧ (P2.walks 0).at 1 = some fresh ∧ ((P2.ag 0).rs 2).toNat ≤ 15 ∧ ((P2.ag 0).rs 3).toNat = 2 ∧ ((P2.walks 0).gspill.toList.getD 2 0).toNat % 2 = 1
    ∧ fresh.stack.length ≤ 64 ∧ fresh.log = [] ∧ fresh.hdr.size ≠ 0 ∧ pushed.hdr.size ≠ 0 ∧ (P1.walks 0).at 1 = none := by
  (repeat' apply And.intro) <;> decide
theorem witness_WalkerBindResults_header : gives (gheader P1.issue ((P1.ag 0).ra 1) (P1.begin_ P1.issue)) (some grammarHdr) = true := by decide +kernel
theorem witness_WalkerBindResults_no_header : gives (gheader P1.issue ((P1.ag 0).ra 2) (P1.begin_ P1.issue)) none = true := by decide +kernel
theorem witness_WalkerBindResults_status : gives (geosok P2.issue fresh (P2.begin_ P2.issue)) (some true) = true := by decide +kernel
theorem witness_WalkerStepResults : (P3.walks 0).at 1 = some pushed ∧ P3.Ready (.gckpt 1) ∧ (P3.ag 0).inStrip = false ∧ pushed.err = 0
    ∧ (P4.walks 0).at 1 = some { pushed with err := 2 } ∧ grammarHdr.ntok ≤ 5 ∧ pushed.ckpts.length ≤ 1 ∧ 0 < pushed.ckpts.length
    ∧ pushed.ckpts[pushed.ckpts.length - 1 - 0]? = some ⟨0, 0, 0, 0, false⟩ ∧ (undoLog (pushed.log.drop 0).reverse pushed.stack).2 = ([], [])
    ∧ ((P3.ag 0).rs 1).toNat ≤ 15 ∧ ((P3.ag 0).rs 2).toNat < pushed.ckpts.length := by
  (repeat' apply And.intro) <;> decide
theorem witness_WalkerStepResults_run : (match gstepRun P2.issue fresh 2 (P2.begin_ P2.issue) with
    | .ok ((c, w), s1) => match geosok P2.issue w s1 with
      | .ok (some _, s2) => match gstepSpill P2.issue fresh 2 s2 with
        | .ok _ => decide (c = 0 ∧ w.stack = [0, 0])
        | .error _ => false
      | _ => false
    | .error _ => false) = true := by decide +kernel
theorem witness_WalkerMemoryResults : (match checkEach P2.issue 8 (granuleAddrs 0x14000 (maskBytes false (List.replicate 6 false)).length) (P2.begin_ P2.issue) with
    | .ok (hs, s1) => decide (hs.all (fun h => decide (h.mtype ≠ 2 ∧ h.place.space ≠ .host ∧ (h.place.space = .fabric → devAt h.place.addr = none))))
      && (match gmaskRun P2.issue fresh s1 with
        | .ok _ => true
        | .error _ => false)
    | .error _ => false) = true ∧ P2.MemoryOk ∧ P2.AllQuiet ∧ (0x14000 : Addr).toNat % 64 = 0 := by
  refine ⟨by decide +kernel, memoryOk_of _ (by decide +kernel), ?_, by decide⟩
  unfold State.AllQuiet; decide
theorem witness_WalkerBindResults_errors : P2.NoErrors := noErrors_of _ (by decide +kernel)
theorem witness_WalkerMemoryResults_save : (match checkEach P2.issue 8 (granuleAddrs 0x20000000000004000 6464) (P2.begin_ P2.issue) with
    | .ok (hs, _) => hs.all (fun h => decide (h.mtype ≠ 2 ∧ h.place.space ≠ .host ∧ (h.place.space = .fabric → devAt h.place.addr = none)))
    | .error _ => false) = true := by decide +kernel
/-- The record of `fresh` with the tag 7 stands in the Wharf at 0x4000. -/
def P5 : State := P1.modQy 0 (fun k => { k with
  wharf := [(0x4000, 71), (0x4001, 76), (0x4002, 82), (0x4003, 83), (0x4004, 1), (0x4009, 12), (0x400A, 1), (0x4028, 7)] })
theorem witness_WalkerMemoryResults_restore : (match gloads P5.issue 0x20000000000004000 808 (P5.begin_ P5.issue) with
    | .ok (r, s1) => decide (byteField r 0 4 = 0x53524C47 ∧ byteField r 4 2 = 1 ∧ mkAddr (byteField r 16 1) (byteField r 8 8) = 0x10C00)
      && gives (gheader P5.issue 0x10C00 s1) (some grammarHdr) && decide (walkerOf r grammarHdr 0x12000 = some (fresh, 7))
    | .error _ => false) = true := by decide +kernel
/-- The page of the image and of the spill area, whose translation is held. -/
def page6 : Leaf := { pte := 0x10001F, base := 0x10000, size := 0x10000 }
/-- A walker instruction has begun, the translation held; the tables are gone. -/
def P6 : State := ({ P2.begin_ P2.issue with tlb := [⟨0, 0x10000, 0x10000, 0x10001F⟩] } : State).modPart 0 (fun p => { p with root := 2 ^ 60 })
/-- The same of an instruction on slot 1 with a checkpoint and a step. -/
def P7 : State := ({ P3 with tlb := [⟨0, 0x10000, 0x10000, 0x10001F⟩] } : State).modPart 0 (fun p => { p with root := 2 ^ 60 })
def P8 : State := P7.begin_ P7.issue
/-- A read there passes and gives a value, and nothing in the way changes the state. -/
def readsAs (u : State) (is : Issue) (a n x : Nat) : Bool := match u.check is (mkAddr 0 a) n n Acc.load noElem with
  | .ok h => decide (h.leaf = some page6 ∧ h.place.space = .fabric) && (u.badSeen is.g h.place n).isNone && decide (u.seenNat is.g h.place n = x)
  | _ => false
theorem gload_stays {u : State} {is : Issue} (hk : ∀ h : Hit, h.leaf = some page6 → u.keep (u.actor is.g) h = u) {a n x : Nat}
    (h : readsAs u is a n x = true) : gload is (mkAddr 0 a) n u = .ok (x, u) := by
  unfold readsAs at h
  split at h
  · rename_i hit e
    simp only [Bool.and_eq_true, decide_eq_true_eq, Option.isNone_iff_eq_none] at h
    obtain ⟨⟨⟨hl, hs⟩, hb⟩, hx⟩ := h
    have ha : access is (mkAddr 0 a) n Acc.load u = .ok (hit, u) := by
      unfold access; rw [e]; show Except.ok (hit, u.keep (u.actor is.g) hit) = _; rw [hk hit hl]
    have hr : readHit is (mkAddr 0 a) hit n u = .ok (x, u) := by unfold readHit State.scrub; rw [hb, hs, hx]
    unfold gload
    show Except.bind (access is (mkAddr 0 a) n Acc.load u) (fun r => readHit is (mkAddr 0 a) r.1 n r.2) = _
    rw [ha]; exact hr
  · cases h
theorem keep6 (h : Hit) (e : h.leaf = some page6) : P6.keep (P6.actor P2.issue.g) h = P6 := by unfold State.keep; rw [e]; rfl
theorem keep8 (h : Hit) (e : h.leaf = some page6) : P8.keep (P8.actor P7.issue.g) h = P8 := by unfold State.keep; rw [e]; rfl
/-- The bytes of the image. -/
def gbyte (o : Nat) : Nat := (grammar.getD o 0).toNat
theorem reads6_bytes : ∀ o < 504, readsAs P6 P2.issue (0x10C00 + o) 1 (fieldOf gbyte o 1) = true := by decide +kernel
theorem reads6_words : ∀ k < 63, readsAs P6 P2.issue (0x10C00 + 8 * k) 8 (fieldOf gbyte (8 * k) 8) = true := by decide +kernel
theorem reads6_spill : ∀ k < 256, readsAs P6 P2.issue (0x12000 + 2 * k) 2 0 = true := by decide +kernel
theorem addr6 (o : Nat) (h : o < 504) : (0x10C00 : Addr) + BitVec.ofNat 72 o = mkAddr 0 (0x10C00 + o) := by unfold mkAddr; bv_omega
/-- What the automaton reads stands there: for the walkers of this image whose stacks hold one symbol at most. -/
theorem imageReads6 (w : Walker) (hi : w.image = 0x10C00) (hs : w.spill = 0x12000) (hl : w.stack.length ≤ 1) :
    ImageReads P2.issue (fun u => u = P6) w 504 gbyte := by
  refine ⟨fun o => (grammar.getD o 0).isLt, ?_, ?_⟩
  · rintro u rfl o n hn ho
    refine ⟨P6, ?_, rfl⟩
    rw [hi, addr6 o (by omega)]
    rcases hn with rfl | ⟨rfl, hm⟩
    · exact gload_stays keep6 (reads6_bytes o (by omega))
    · have := gload_stays keep6 (reads6_words (o / 8) (by omega))
      rwa [Nat.mul_div_cancel' (Nat.dvd_of_mod_eq_zero hm)] at this
  · rintro u rfl k hk
    refine ⟨P6, ?_, rfl⟩
    unfold spillRead spillSym
    rw [hs]
    show Except.bind (gload P2.issue (mkAddr 0 (0x12000 + 2 * k)) 2 P6) (fun r => Except.ok ((), r.2)) = _
    rw [gload_stays keep6 (reads6_spill k (by omega))]; rfl
theorem witness_WalkerStepResults_automaton : ImageReads P2.issue (fun u => u = P6) fresh 504 gbyte ∧ ImageReads P2.issue (fun u => u = P6) pushed 504 gbyte
    ∧ grammarHdr.Laid 504 ∧ fresh.st < grammarHdr.nstate ∧ pushed.st < grammarHdr.nstate ∧ pushed.stack.length ≤ 1024 ∧ fresh.err = 0 ∧ pushed.err = 0
    ∧ fresh.ckpts = [] ∧ pushed.ckpts ≠ [] ∧ pushed.log.length + [0, 0].length ≤ 2048
    ∧ stepOf grammarHdr gbyte fresh 2 = (0, { fresh with stack := [0, 0], tokens := 1 }) ∧ (stepOf grammarHdr gbyte fresh 1).1 = 1 ∧ eosOf grammarHdr gbyte fresh = some true :=
  ⟨imageReads6 _ rfl rfl (by decide), imageReads6 _ rfl rfl (by decide), by unfold GrammarHdr.Laid; decide, by decide⟩
/-- The image read as one with two transitions: the state's entry is malformed. -/
def twisted : Walker := { fresh with hdr := { grammarHdr with ntrans := 2 } }
theorem witness_WalkerMemoryResults_mask : ImageReads P2.issue (fun u => u = P6) twisted 504 gbyte ∧ twisted.hdr.Laid 504 ∧ stateFits twisted.hdr gbyte 0 = false
    ∧ stateFits grammarHdr gbyte 0 = true ∧ (∀ w ∈ [fresh, pushed], ∀ t < 5, (stepOf grammarHdr gbyte w t).1 ≠ 3)
    ∧ (2 ≤ fieldOf gbyte 326 2 ∧ pushed.stack.head? = some (fieldOf gbyte 332 2) ∧ fresh.stack.head? = none ∧ fieldOf gbyte 332 2 ≠ 0xFFFF
      ∧ fieldOf gbyte 328 4 + 2 * 8 ≤ 504 ∧ ∀ t < 5, ¬ ((gbyte (24 + t / 8)).testBit (t % 8) = true ∧ (gbyte (32 + t / 8)).testBit (t % 8) = true))
    ∧ (gbyte 24).testBit 1 = true :=
  ⟨imageReads6 _ rfl rfl (by decide), by unfold GrammarHdr.Laid; decide, by decide⟩
theorem witness_WalkerMemoryResults_trie : ∀ w ∈ [fresh, pushed, twisted], ∀ t < 5, ∀ k ≤ fieldOf gbyte (360 + 8 * t + 4) 2, ∀ whole : Bool,
    (whole = true → k = fieldOf gbyte (360 + 8 * t + 4) 2) →
    (match gtrieOk P2.issue w t k whole P6 with | .ok (b, s) => decide (b = true ∧ s = P6) | .error _ => false) = true := by decide +kernel
theorem spillReadable_of {s u : State} {as : List Addr} (hu : s.begin_ s.issue = u) (h : ∀ a ∈ as, spillRead s.issue a u = .ok ((), u)) : s.SpillReadable as := by
  subst hu
  exact ⟨fun v => v = s.begin_ s.issue, rfl, fun v hv => by subst hv; rfl, fun v hv a ha => by subst hv; exact ⟨_, h a ha, rfl⟩⟩
theorem undo_reads : (List.range (pushed.log.drop 0).reverse.length).map (fun j => spillLog 0x12000 (pushed.log.length - 1 - j)) = [mkAddr 0 0x12800] := by
  decide +kernel
theorem witness_WalkerStepResults_undo : P7.SpillReadable ((List.range (pushed.log.drop 0).reverse.length).map (fun j => spillLog 0x12000 (pushed.log.length - 1 - j)))
    ∧ (P7.walks 0).at 1 = some pushed ∧ P7.Ready (.gckpt 1) ∧ (P7.ag 0).inStrip = false := by
  refine ⟨spillReadable_of (u := P8) (by rw [P8]) fun a ha => ?_, by decide +kernel, ?_, by decide +kernel⟩
  · have e : a = mkAddr 0 0x12800 := List.mem_singleton.1 (undo_reads ▸ ha)
    unfold spillRead
    show Except.bind (gload P7.issue a 2 P8) (fun r => Except.ok ((), r.2)) = _
    rw [e, gload_stays keep8 (x := 0) (by decide +kernel)]; rfl
  · unfold State.Ready; decide +kernel
theorem witness_WalkerMemoryResults_refused : gives (gloads P1.issue 0x20000000000004000 808 (P1.begin_ P1.issue)) 0 = true ∧ recordFits 0 = false := by
  decide +kernel


/-! ### Vectors: ten 32-bit integer elements, eight 16-bit floats, ten unsigned bytes -/

/-- The hypotheses of the vector statements hold whatever the instruction. -/
theorem calm (t vl : Nat) (i : Instr) (h : (isPilot (strip t vl).cur = false ∧ ((strip t vl).ag (strip t vl).cur).strip.shut = false
    ∧ ((strip t vl).ag (strip t vl).cur).strip.susp = false ∧ ((strip t vl).ag (strip t vl).cur).status = .run
    ∧ ((strip t vl).ag (strip t vl).cur).regs.pfx = []
    ∧ ((strip t vl).ag (strip t vl).cur).vec.marks = [] ∧ ((strip t vl).ag (strip t vl).cur).vec.poison = []
    ∧ ((strip t vl).ag (strip t vl).cur).vec.expired = [] ∧ (strip t vl).landings (strip t vl).cur = []
    ∧ ((strip t vl).ag (strip t vl).cur).vec.map.v.toList.Nodup ∧ ((strip t vl).ag (strip t vl).cur).vec.map.m.toList.Nodup
    ∧ 8 ≤ ((strip t vl).freePhys (strip t vl).cur).length ∧ 0 < ((strip t vl).ag (strip t vl).cur).strip.vlen
    ∧ ((strip t vl).ag (strip t vl).cur).strip.vl.toNat * ((strip t vl).ag (strip t vl).cur).venv.w
      ≤ ((strip t vl).ag (strip t vl).cur).venv.g * ((strip t vl).ag (strip t vl).cur).strip.vlen)) : (strip t vl).VecCalm i :=
  ⟨⟨h.2.2.2.1, .inl h.2.2.2.2.1⟩, h.1, h.2.1, h.2.2.1, h.2.2.2.2.2⟩
theorem calm_ints (i : Instr) : (strip 0x02 10).VecCalm i := calm _ _ i (by decide)
theorem calm_halves (i : Instr) : (strip 0x08 8).VecCalm i := calm _ _ i (by decide)
theorem calm_bytes (i : Instr) : (strip 0x04 10).VecCalm i := calm _ _ i (by decide)
theorem witness_VectorBinaryResults : (strip 0x02 10).VecCalm (VOp.add.vv 1 2 3 none false) ∧ (strip 0x02 10).Accepts VOp.add.types [1, 2, 3]
    ∧ (strip 0x02 10).Accepts (VOp.add.formTypes (.imm (wideInt ((strip 0x02 10).ag 0).regs.pfx 6 63))) [1, 2]
    ∧ VOp.add.vi 1 2 63 none false = some (.vaddVi 1 2 63 none false) := by
  refine ⟨calm_ints _, ?_, ?_, rfl⟩ <;> (unfold State.Accepts; decide)
theorem witness_VectorUnaryResults : (strip 0x02 10).VecCalm (UOp.clz.instr 1 2 none false) ∧ (strip 0x02 10).Accepts UOp.clz.types [1, 2] := by
  refine ⟨calm_ints _, ?_⟩; unfold State.Accepts; decide
theorem witness_IntegerElementResults : 0 < 8 ∧ 200 < 2 ^ 8 ∧ ((strip 0x04 10).env.w = 8 ∧ isF (strip 0x04 10).env.ty = false) := by decide
theorem witness_FloatElementResults : isF (strip 0x08 8).env.ty = true ∧ (strip 0x08 8).env.w = (floatRow (strip 0x08 8).env.ty).1 ∧ isF 12 = true ∧ 32 = (floatRow 12).1
    ∧ datum 12 0x7FC00000 = .nan ∧ datum 12 0x7F800000 = .inf false ∧ datum 12 0xFF800000 = .inf true ∧ datum 8 0x7F = .nan ∧ (.nan : Datum).below .nan = false
    ∧ (Datum.inf true).below (.inf false) = true := by decide
theorem witness_FloatElementResults_numbers : datum 12 0x40800000 = .num false (2 ^ (2 : Int)) ∧ datum 12 0xC0800000 = .num true (2 ^ (2 : Int))
    ∧ datum 12 0x80000000 = .num true 0 ∧ (Datum.inf true).invalidProduct (.num false 0) ∧ ¬ (Datum.inf true).invalidProduct .nan := by
  refine ⟨?_, ?_, ?_, .inl ⟨true, false, rfl, rfl⟩, ?_⟩
  · simp [datum, floatRow]; norm_num
  · simp [datum, floatRow]; norm_num
  · simp [datum, floatRow]
  · rintro (⟨_, _, _, h⟩ | ⟨_, _, h, _⟩) <;> cases h
theorem witness_CompareResults : (strip 0x02 10).VecCalm (VRel.ltn.instr 1 2 3 none false) ∧ (strip 0x02 10).Accepts tyINF [2, 3]
    ∧ isF (strip 0x02 10).env.ty = false := by
  refine ⟨calm_ints _, ?_⟩; unfold State.Accepts; decide
theorem witness_CompareResults_float : (strip 0x08 8).VecCalm (VRel.ltn.instr 1 2 3 none false) ∧ (strip 0x08 8).Accepts tyINF [2, 3]
    ∧ isF (strip 0x08 8).env.ty = true := by
  refine ⟨calm_halves _, ?_⟩; unfold State.Accepts; decide
theorem witness_MaskResults : (strip 0x02 10).VecCalm (.mset 1 none false) := calm_ints _
theorem witness_PermutationResults : (strip 0x02 10).VecCalm (.vidx 1 none false) ∧ (strip 0x02 10).Accepts tyINF [1]
    ∧ (strip 0x02 10).Accepts tyIN [1] ∧ (strip 0x02 10).Accepts tyINF [1, 2] ∧ (strip 0x02 10).Accepts tyINF [1, 2, 3]
    ∧ (strip 0x02 10).Accepts tyAny [1, 2, 3] := by
  refine ⟨calm_ints _, ?_⟩; unfold State.Accepts; decide
theorem witness_ReductionResults : (strip 0x02 10).VecCalm (.vscan 1 2 none false) ∧ (strip 0x02 10).Accepts tyINF [1, 2]
    ∧ isF (strip 0x02 10).env.ty = false ∧ ((strip 0x02 10).ag 0).strip.segm.getLsbD 4 = false ∧ (strip 0x02 10).act none ≠ []
    ∧ (strip 0x02 10).act (some 0) = [] := by
  refine ⟨calm_ints _, ?_⟩; unfold State.Accepts; decide
/-- Two segments: SEGON with the mask m0, whose bits 0 and 4 are set. -/
def segmented (t vl : Nat) : State := edit (strip t vl) (fun a => { a with
  strip := { a.strip with segm := 0x10 }, vec := { a.vec with masks := a.vec.masks.set 0 0x11 } })
theorem witness_ReductionResults_segments : ((strip 0x02 10).act none = [List.range 10].flatten ∧ (strip 0x02 10).act none ≠ [])
    ∧ (∀ t ∈ [0x02, 0x08], ((segmented t 8).ag 0).mreg 0 = 0x11 ∧ ((segmented t 8).ag 0).strip.segm.getLsbD 4 = true ∧ ((segmented t 8).ag 0).strip.segm.toNat % 16 = 0
      ∧ [[0, 1, 2, 3], [4, 5, 6, 7]].flatten = (segmented t 8).act none)
    ∧ isF (segmented 0x02 8).env.ty = false ∧ isF (segmented 0x08 8).env.ty = true
    ∧ ∀ t ∈ [0x02, 0x08], ∀ g ∈ [[0, 1, 2, 3], [4, 5, 6, 7]], ∀ i ∈ g, (g.head? = some i ↔ ((segmented t 8).act none).head? = some i
      ∨ ∃ k : Fin 12, ((segmented t 8).ag 0).strip.segm.toNat % 16 = k.val ∧ (((segmented t 8).ag 0).mreg k).getLsbD i = true) := by
  refine ⟨?_, ?_, ?_, ?_, ?_⟩ <;> decide
theorem witness_ConvertResults : (strip 0x02 10).VecCalm (.vcvt 1 2 0 1 none false) ∧ (strip 0x02 10).Accepts tyINF [2]
    ∧ (strip 0x02 10).env.g ∈ [1, 2, 4] ∧ isF 1 = false ∧ isF (strip 0x02 10).env.ty = false ∧ isF 12 = true
    ∧ (strip 0x08 8).VecCalm (.vcvt 1 2 0 12 none false) ∧ (strip 0x08 8).Accepts tyINF [2] ∧ (strip 0x08 8).env.g ∈ [1, 2, 4]
    ∧ isF (strip 0x08 8).env.ty = true ∧ (strip 0x08 8).env.ty ≠ 12 ∧ (strip 0x08 8).env.ty < 14 := by
  refine ⟨calm_ints _, ?_, by decide, by decide, by decide, by decide, calm_halves _, ?_, by decide⟩ <;> (unfold State.Accepts; decide)
/-- Eight 16-bit floats with the quantization parameters in v2 and v3, first off, then on. -/
theorem witness_QuantizeResults : (strip 0x08 8).VecCalm (.vqnt 4 5 0 true 1 none false) ∧ (strip 0x08 8).Accepts isF [4, 5]
    ∧ ((strip 0x08 8).ag 0).fp.qparm.getLsbD 6 = false
    ∧ (edit (strip 0x08 8) (fun a => { a with fp := { a.fp with qparm := 0x42 } })).Accepts isF [4, 5]
    ∧ ((edit (strip 0x08 8) (fun a => { a with fp := { a.fp with qparm := 0x42 } })).ag 0).fp.qparm.getLsbD 6 = true
    ∧ (0x42 : Nat) % 64 + 1 < 48 := by
  refine ⟨calm_halves _, ?_⟩; unfold State.Accepts; decide
theorem witness_DependenceResults : (strip 0x04 10).VecCalm (.vconf 1 2 none false) ∧ (strip 0x04 10).Accepts (fun t => !isQ t) [1, 2]
    ∧ (strip 0x04 10).env.vl ≤ 2 ^ (strip 0x04 10).env.w - 1 ∧ (strip 0x04 10).VecCalm (.vtopk 1 2 3 none false)
    ∧ (strip 0x04 10).Accepts tyINF [2] := by
  refine ⟨calm_bytes _, ?_, by decide, calm_bytes _, ?_⟩ <;> (unfold State.Accepts; decide)

/-! ### Opening, ending and cutting a strip (R76-R79) -/

/-- A hart that may open a strip on its one quad, the type 0x02 and the length 100 in its registers. -/
def opener : State := edit (regs hart 100 0x02 0 0 0) (fun a => { a with
  task := { a.task with qmin := 1, qpref := 1 }, strip := { a.strip with quads := 1, live := 15, vlcap := 64, cap := 64 } })
theorem witness_StripResults_opens : isPilot opener.cur = false ∧ (opener.ag 0).status = .run ∧ (opener.ag 0).strip.susp = false
    ∧ (opener.ag 0).strip.buf = [] ∧ (opener.ag 0).strip.isOpen = false ∧ (opener.ag 0).strip.ppend = false ∧ (opener.ag 0).strip.lpend = false
    ∧ (opener.ag 0).marks.clear = (opener.ag 0).marks ∧ (opener.ag 0).task.qmin = popCount (opener.ag 0).strip.quads.toNat 8
    ∧ (opener.ag 0).task.qpref = (opener.ag 0).task.qmin
    ∧ opener.lanesOf (quayOf opener.cur) (opener.ag 0).strip.quads.toNat = (opener.ag 0).strip.live
    ∧ (opener.qy (quayOf opener.cur)).retired = 0 ∧ (opener.qy (quayOf opener.cur)).leaseq = [] ∧ vtLegal 0x02 = true
    ∧ ({ (opener.ag 0).strip with cap := (opener.ag 0).strip.vlcap } : Strip).vlmaxOf 0x02 = some 32
    ∧ vtLegal 0x4E = true ∧ 14 ≤ vtType 0x4E := by decide
theorem test_vsetl_takes_the_least : after (.vsetl 3 1 2) opener (fun t => ((t.ag 0).rs 3, (t.ag 0).strip.vl, (t.ag 0).strip.shut))
    = some (32, 32, false) := by decide
/-- A strip that has buffered two bytes. -/
def buffered : State := edit (strip 0x02 10) (fun a => { a with strip := { a.strip with
  buf := [⟨0x10800, ⟨.fabric, 0x10800⟩, 1, none, false, false⟩, ⟨0x10801, ⟨.fabric, 0x10801⟩, 2, none, false, false⟩] } })
theorem witness_StripResults_buffered : buffered.Ready .vend ∧ isPilot buffered.cur = false ∧ (buffered.ag 0).strip.susp = false
    ∧ (buffered.tile 0).watched = [] ∧ ((buffered.ag 0).strip.buf.map (fun b => b.place)).Nodup ∧ (buffered.ag 0).strip.isOpen = true := by
  refine ⟨⟨by decide, .inl (by decide)⟩, by decide⟩
theorem witness_StripResults_ends : hart.Ready .vend ∧ (strip 0x02 10).Ready .vend ∧ isPilot hart.cur = false ∧ (hart.ag 0).strip.isOpen = false
    ∧ ((strip 0x02 10).ag 0).strip.isOpen = true ∧ ((strip 0x02 10).ag 0).strip.buf = [] ∧ ((strip 0x02 10).tile 0).watched = [] :=
  ⟨ready_hart _, (calm_ints _).1, by decide⟩


/-! ### Vector memory, berths and copies -/

/-- What a computation answers, or a default. -/
def okOr {ε α : Type} (d : α) (r : Except ε α) : α := match r with
  | .ok x => x
  | .error _ => d
/-- Whether it answers. -/
def isOk {ε α : Type} (r : Except ε α) : Bool := match r with
  | .ok _ => true
  | .error _ => false
theorem ok_of {ε α : Type} {r : Except ε α} (d : α) (h : isOk r = true) : r = .ok (okOr d r) := by
  unfold isOk at h
  split at h
  · rfl
  · cases h

/-- Four 32-bit elements, a1 at 0x10800, s1 zero, s2 a stride of 8. -/
def moved : State := regs (strip 0x02 4) 0 8 4000 0x10800 0x10900
/-- The places of its elements in a mode. -/
def hitsOf (k : Acc) (mode : VMode) : List Hit := okOr [] (moved.checkElems moved.issue 4 4 k ((moved.act none).map (fun j => ⟨j, moved.elemAddr mode 1 j⟩)))
theorem calm_moved : moved.Ready .nop ∧ moved.VecCalm .nop := by
  unfold State.VecCalm State.Ready; decide
/-- What calm means does not look at the instruction when no PFX word stands before it. -/
theorem calm_any {s : State} (i : Instr) (h : s.VecCalm .nop) (hp : (s.ag s.cur).regs.pfx = []) : s.VecCalm i :=
  ⟨⟨h.1.1, .inl hp⟩, h.2⟩
theorem witness_VectorLoadResults : moved.VecCalm (.vld 4 1 1 none false) ∧ moved.Accepts tyAny (4 :: (VMode.unit 1).regs)
    ∧ moved.Accepts tyINF (4 :: (VMode.index 6 true).regs)
    ∧ (∀ mode ∈ [VMode.unit 1, .stride 2, .index 6 true], moved.checkElems moved.issue 4 4 Acc.vload ((moved.act none).map (fun j => ⟨j, moved.elemAddr mode 1 j⟩))
        = .ok (hitsOf Acc.vload mode) ∧ ∀ h ∈ hitsOf Acc.vload mode, moved.badSeen moved.cur h.place 4 = none) := by
  refine ⟨calm_any _ calm_moved.2 (by decide), by unfold State.Accepts; decide, by unfold State.Accepts; decide, fun mode hm => ?_⟩
  exact ⟨ok_of [] (by revert mode; decide), by revert mode; decide⟩
/-- The same at the end of the page: two elements lie in it. -/
def ending : State := regs (strip 0x02 4) 0 8 0 0x1FFF8 0
/-- What the third element's check answers. -/
def missed : TrapInfo := match ending.check ending.issue (ending.elemAddr (.unit 1) 1 2) 4 4 Acc.vload 2 with
  | .bad t => t
  | _ => { cause := 0x31 }
/-- The places of the first two. -/
def fits2 : List Hit := okOr [] (ending.checkElems ending.issue 4 4 Acc.vload ([0, 1].map (fun j => ⟨j, ending.elemAddr (.unit 1) 1 j⟩)))
theorem witness_VectorLoadResults_first : ending.VecCalm (.vldff 4 1 1 none false) ∧ ending.Accepts tyINF [4] ∧ ending.act none = [0, 1] ++ 2 :: [3]
    ∧ ending.checkElems ending.issue 4 4 Acc.vload ([0, 1].map (fun j => ⟨j, ending.elemAddr (.unit 1) 1 j⟩)) = .ok fits2
    ∧ (∀ h ∈ fits2, ending.badSeen ending.cur h.place 4 = none)
    ∧ ending.check ending.issue (ending.elemAddr (.unit 1) 1 2) 4 4 Acc.vload 2 = .bad missed ∧ missed.cause = 0x09 := by
  refine ⟨calm_any _ ?_ (by decide), by unfold State.Accepts; decide, by decide, ok_of [] (by decide), by decide, rfl, by decide⟩
  unfold State.VecCalm State.Ready; decide
/-- A packed block of four 32-bit elements at a1, the first and the third stored. -/
def packed : State := moved.setBytes ((leBytes 8 0x40200000002 ++ leBytes 8 5 ++ leBytes 4 7 ++ leBytes 4 9).zipIdx.map (fun b => (⟨.fabric, 0x10800 + b.2⟩, b.1)))
/-- The state after a part of it was read. -/
def partOf (a : Addr) (n : Nat) (s : State) : State := match packedPart packed.issue a n s with
  | .ok p => p.2
  | .error _ => s
theorem part_ok {a : Addr} {n v : Nat} {s : State} (h : gives (packedPart packed.issue a n s) v = true) :
    packedPart packed.issue a n s = .ok (v, partOf a n s) := by
  obtain ⟨u, hu⟩ := gives_ok h
  unfold partOf; rw [hu]
theorem witness_VectorLoadResults_packed :
    let b := packed.begin_ packed.issue
    let s1 := partOf 0x10800 8 b
    let s2 := partOf 0x10808 8 s1
    packed.VecCalm (.vldc 4 1 1 none false) ∧ packed.Accepts tyINF [4] ∧ popCount 5 4 = 0x40200000002 % 2 ^ 32
    ∧ packedPart packed.issue 0x10800 8 b = .ok (0x40200000002, s1) ∧ packedPart packed.issue 0x10808 8 s1 = .ok (5, s2)
    ∧ packedPart packed.issue 0x10810 8 s2 = .ok (0x900000007, partOf 0x10810 8 s2) := by
  refine ⟨calm_any _ ?_ (by decide), by unfold State.Accepts; decide, by decide, part_ok (by decide +kernel), part_ok (by decide +kernel), part_ok (by decide +kernel)⟩
  unfold State.VecCalm State.Ready; decide
/-- The units of a store of v4, and their places. -/
def unitsOf (u : Issue → M (List StoreUnit)) : List StoreUnit := (okOr ([], moved) (u moved.issue (moved.begin_ moved.issue))).1
def placesOf (n : Nat) (us : List StoreUnit) : List Hit := okOr [] ((moved.begin_ moved.issue).checkElems moved.issue n n Acc.store (us.map (·.elem)))
theorem witness_VectorStoreResults : ∀ p ∈ [(4, vstUnits tyAny (.unit 1) 4 1 none), (4, vstUnits tyINF (.stride 2) 4 1 none), (4, vstUnits tyINF (.index 6 true) 4 1 none),
      (8, vstcUnits 4 1 3 none)],
    isOk (p.2 moved.issue (moved.begin_ moved.issue)) = true ∧ isOk ((moved.begin_ moved.issue).checkElems moved.issue p.1 p.1 Acc.store ((unitsOf p.2).map (·.elem))) = true
    ∧ (∀ h ∈ placesOf p.1 (unitsOf p.2), h.mtype ≠ 2) ∧ (moved.vstoreRule p.2).cut = false ∧ (moved.vstoreRule p.2).pre = false := by decide
/-- A packed block at an address of no multiple of 8, and one without room: s0 gives no byte. -/
theorem witness_VectorStoreResults_traps : ((regs (strip 0x02 4) 0 8 4000 0x10804 0).ag 0).ra 1 = 0x10804 ∧ (0x10804 : Addr).toNat % 8 ≠ 0
    ∧ ((moved.ag 0).ra 1).toNat % 8 = 0 ∧ ((moved.ag 0).rs 0).toNat < 8 ∧ moved.Accepts tyINF [4] := by
  refine ⟨by decide, by decide, by decide, by decide, ?_⟩; unfold State.Accepts; decide
/-- Places of atomics of two widths; v6 holds zeros. -/
def pairs : State := regs (strip 0x03 4) 0 8 0 0x10800 0
theorem witness_VectorAtomicResults : moved.MemoryOk ∧ moved.AllQuiet ∧ moved.CutReady ∧ moved.env.ty = 2 ∧ pairs.MemoryOk ∧ pairs.AllQuiet ∧ pairs.CutReady ∧ pairs.env.ty = 3
    ∧ moved.VecCalm (AtomOp.cas.vector 4 1 6 none .acqRel) ∧ pairs.VecCalm (.vamocasw 4 1 6 none .acqRel)
    ∧ isOk (moved.checkElems moved.issue 4 4 Acc.atomic ((moved.act none).map (fun k => ⟨k, moved.elemAddr (.index 6 false) 1 k⟩))) = true
    ∧ isOk (pairs.checkElems pairs.issue 16 16 Acc.atomic ([0, 2].map (fun k => ⟨k, pairs.elemAddr (.index 6 false) 1 k⟩))) = true
    ∧ there.place.Plain ∧ moved.badRead there.place 16 = none := by
  refine ⟨memoryOk_of _ (by decide), by unfold State.AllQuiet; decide, by unfold State.CutReady; decide, by decide, memoryOk_of _ (by decide), by unfold State.AllQuiet; decide,
    by unfold State.CutReady; decide, by decide, calm_any _ calm_moved.2 (by decide), calm_any _ ?_ (by decide), by decide, by decide, by unfold Place.Plain; decide, by decide⟩
  unfold State.VecCalm State.Ready; decide
/-- The places of the atomics' elements. -/
def casPlaces (s : State) : List Hit := okOr [] (s.checkElems s.issue 4 4 Acc.atomic ((s.act none).map (fun k => ⟨k, s.elemAddr (.index 6 false) 1 k⟩)))
def pairPlaces (s : State) : List Hit := okOr [] (s.checkElems s.issue 16 16 Acc.atomic ([0, 2].map (fun k => ⟨k, s.elemAddr (.index 6 false) 1 k⟩)))
theorem witness_VectorAtomicResults_home : (∀ h ∈ casPlaces moved ++ pairPlaces pairs, moved.away h.place = false)
    ∧ (casPlaces (far moved) ≠ [] ∧ ∀ h ∈ casPlaces (far moved), (far moved).away h.place = true)
    ∧ (pairPlaces (far pairs) ≠ [] ∧ ∀ h ∈ pairPlaces (far pairs), (far pairs).away h.place = true)
    ∧ (∀ s ∈ [far moved, far pairs], (s.ag 0).status = .run ∧ (s.ag 0).regs.pfx = [] ∧ s.AllQuiet ∧ s.CutReady) := by
  refine ⟨by decide, by decide, by decide, ?_⟩
  unfold State.AllQuiet State.CutReady; decide

/-- Berth 3 is a hart's own with the configuration of R224: four doublewords a row, slot size code 2, two row strides. -/
def berthed (s : State) : State := s.modQy 0 (fun q => { q with berths := q.berths.set 3 { q.berths[3] with owner := some 0, bcfg := 0x80000404004, bstr := 0x2000000040 } })
/-- It belongs to another. -/
def taken : State := hart.modQy 0 (fun q => { q with berths := q.berths.set 3 { q.berths[3] with owner := some 3 } })
theorem witness_BerthResults : hart.Ready (.brst 3) ∧ isPilot hart.cur = false ∧ (hart.berth 0 3).owner = none ∧ (hart.berth 0 3).copies = []
    ∧ ((berthed hart).berth 0 3).owner = some 0 ∧ ((berthed hart).berth 0 3).fault = none ∧ (taken.berth 0 3).owner = some 3
    ∧ hart.Ready (.waitc 31 0 0 0) ∧ (hart.waitCounts hart.cur).1 ≤ 0 ∧ ¬ ((regs hart 0 0 0 0 0).ag 0).mem.loadsOut > 0
    ∧ ((edit hart (fun a => { a with mem := { a.mem with loadsOut := 2 } })).ag 0).mem.loadsOut = 2 :=
  ⟨ready_hart _, by decide, by decide, by decide, by decide, by decide, by decide, ready_hart _, by decide⟩
theorem witness_PushResults : ∀ s ∈ [berthed moved, berthed (regs hart 2 4 0 0x10800 0x20000000000000000)],
    (s.berth 0 3).owner = some s.cur ∧ (s.berth 0 3).fault = none ∧ (s.qy 0).copyCount < 64 ∧ s.AllQuiet
    ∧ (∀ k ∈ [CopyKind.gthw, .sctw, .gthv true, .bcpy], configBad k (s.berth 0 3).bcfg 4 = false) := by
  unfold State.AllQuiet; decide
theorem witness_PushResults_strip : (berthed moved).VecCalm (.gthw 3 1 6 none 0) ∧ (berthed moved).CutReady ∧ tyINF (berthed moved).env.ty = true
    ∧ ((berthed (regs hart 2 4 0 0x10800 0)).ag 0).inStrip = false := by
  refine ⟨calm_any _ ?_ (by decide), by unfold State.CutReady; decide, by decide, by decide⟩
  unfold State.VecCalm State.Ready; decide

/-- A Pilot with t0 of q4 2 by 2, registers as `tiled` has them. -/
def nibbled : State := regs (tiles pilot [(0, 14, 2, 2)]) 0x02000200 16 0x05000200 0x10800 0x10801
/-- The places of the elements that TST stores. -/
def tstPlaces (s : State) : M (List Hit) :=
  checkEach s.issue (max 1 (tileBits (s.tiles.ver 0).ty / 8)) ((rectOf ((s.ag 8).rs 1)).elems.map (fun e =>
    (tileAddr ((s.ag 8).ra 1) ((s.ag 8).rs 2).toInt (tileBits (s.tiles.ver 0).ty) e.1 e.2).1))
theorem witness_TileRegisterResults_store : ∀ s ∈ [tiled, nibbled], isOk (tstPlaces s ((s.begin_ s.issue).setTile 0 s.tiles)) = true
    ∧ (∀ h ∈ (okOr ([], s) (tstPlaces s ((s.begin_ s.issue).setTile 0 s.tiles))).1, h.mtype ≠ 2 ∧ h.place.Plain) ∧ (s.tiles.ver 0).node = none ∧ s.tiles.watched = []
    ∧ s.tiles.reads = [] ∧ (s.ag 8).strip.buf = [] ∧ (s.ag 8).mem.queue = [] ∧ (s.ag 8).mem.wc = [] := by
  unfold Place.Plain; decide +kernel
theorem witness_TileRegisterResults_nibbles : nibbled.MemoryOk ∧ nibbled.RectAt (.tst 0 1 2 1) 0 1 0 ∧ tileBits (nibbled.tiles.ver 0).ty = 4 ∧ tileBits (tiled.tiles.ver 0).ty ≠ 4
    ∧ ((nibbled.ag 8).rs 2).toInt % 1 = 0 := by
  refine ⟨memoryOk_of _ (by decide), ?_⟩
  unfold State.RectAt State.Ready; decide


/-! ### Tasks and futures -/

/-- A future of word `w` and value 9 at a1, s1 = 5, s2 = 2; the launch has two instances running. -/
def future (w : Nat) : State :=
  let s := (regs hart 5 2 0 0x10800 0x10980).setBytes ((leBytes 8 9 ++ leBytes 8 w).zipIdx.map (fun b => (⟨.fabric, 0x10800 + b.2⟩, b.1)))
  { s with work := { s.work with launches := [(0, { live := true, running := 2 })] } }
theorem futureAt (w : Nat) (h : w ∈ [0, 1, 2, 3, 8]) (i : Instr) : (future w).FutureAt i 1 ⟨.fabric, 0x10800⟩ := by
  have key : ∀ w ∈ [0, 1, 2, 3, 8], ((future w).ag 0).status = .run ∧ ((future w).ag 0).regs.pfx = [] ∧ ((future w).ag 0).inStrip = false
      ∧ (Memory.wf (future w).mem && Memory.wf (future w).link.mem && (future w).quays.all (fun e => Quay.wf e.2)) = true ∧ (future w).AllQuiet
      ∧ (future w).link.relaxed = 0 ∧ (⟨.fabric, 0x10800⟩ : Place).Plain ∧ isOk ((future w).futurePlace ((future w).actor 0) (((future w).ag 0).ra 1)) = true
      ∧ okOr ⟨.host, 0⟩ ((future w).futurePlace ((future w).actor 0) (((future w).ag 0).ra 1)) = ⟨.fabric, 0x10800⟩
      ∧ (future w).watchHit (future w).issue (((future w).ag 0).ra 1) 16 Acc.atomic = none ∧ (future w).badRead ⟨.fabric, 0x10800⟩ 16 = none
      ∧ (future w).quays.all (fun e => e.2.ce.isEmpty) = true ∧ (future w).heldAt ⟨.fabric, 0x10800⟩ = false := by
    unfold State.AllQuiet Place.Plain; decide
  obtain ⟨a, b, c, d, e, f, g, k, l, m, n, o, p⟩ := key w h
  refine ⟨⟨a, .inl b⟩, c, memoryOk_of _ d, e, f, g, noErrors_of _ o, p, ?_, m, n⟩
  have := ok_of (⟨.host, 0⟩ : Place) k
  rw [l] at this
  exact this
theorem witness_TaskResults : (∀ w ∈ [0, 1, 2, 3, 8], (future w).FutureAt (.fset 1 2 .domain) 1 ⟨.fabric, 0x10800⟩ ∧ (future w).FutureAt (.fget 3 1 .domain) 1 ⟨.fabric, 0x10800⟩
      ∧ (future w).FutureAt (.fwait 3 1 .domain) 1 ⟨.fabric, 0x10800⟩)
    ∧ (future 0).Ready (.lease 1 2) ∧ (future 0).Ready (.exit 1 .domain) ∧ (future 0).Ready .yield := by
  refine ⟨fun w h => ⟨futureAt w h _, futureAt w h _, futureAt w h _⟩, ?_, ?_, ?_⟩ <;> exact ⟨by decide, .inl (by decide)⟩
theorem witness_TaskResults_values : (∀ w ∈ [0, 1, 2, 3, 8], (future w).futWord ⟨.fabric, 0x10800⟩ = w ∧ (future w).copiesDone 0 = true)
    ∧ (future 0).away ⟨.fabric, 0x10800⟩ = false ∧ (far (future 0)).away ⟨.fabric, 0x10800⟩ = true
    ∧ ((future 0).die ((future 0).homeKey 0x10800)).waits.length < 4096 ∧ isPilot (future 0).cur = false ∧ ((future 0).ag 0).strip.isOpen = false ∧ (future 0).AllQuiet
    ∧ (Assoc.find? ((future 0).ag 0).tkey (future 0).work.tasks).isSome = true ∧ ((future 0).task ((future 0).ag 0).tkey).kind = .hart 0 []
    ∧ 2 ≤ ((future 0).launch 0).running ∧ (future 0).work.jobs = [] := by
  unfold State.AllQuiet; decide

/-- A task queue's descriptor at a1 (its ring at 0x12000 with a size, a tail, its flags) and an expanded record at a2. -/
def spawner (flags size tail : Nat) : State :=
  (future 0).setBytes ((leBytes 16 0x12000 ++ leBytes 16 0 ++ leBytes 4 size ++ leBytes 2 0 ++ leBytes 2 flags ++ leBytes 8 tail ++ leBytes 8 0).zipIdx.map (fun b =>
    (⟨.fabric, 0x10800 + b.2⟩, b.1)) ++ [(⟨.fabric, 0x10980⟩, 4), (⟨.fabric, 0x109C0⟩, 3)])
/-- What SPAWN reads there. -/
def spawnRead (s : State) : Nat × Nat := (okOr ((0, 0), s) (spawnReads s.issue 0x10800 0x10980 (s.begin_ s.issue))).1
theorem witness_SpawnResults : ∀ s ∈ [spawner 0 256 0, spawner 4 256 0, spawner 0 256 0x100000000],
    (s.ag 0).status = .run ∧ (s.ag 0).inStrip = false ∧ s.AllQuiet ∧ s.quays.all (fun e => e.2.ce.isEmpty) = true ∧ s.link.relaxed = 0 ∧ isOk (spawnReads s.issue 0x10800 0x10980 (s.begin_ s.issue)) = true
    ∧ (spawnRead s).1 = leNat (s.bytes ⟨.fabric, 0x10800⟩ 320) := by
  unfold State.AllQuiet; decide +kernel
/-- A queue with room behind its tail, one whose ring ends with the record, one that it does not fit behind, and a full one. -/
theorem witness_SpawnResults_records : let x := exampleRecord 0 0x2000 1
    (∀ k < 11, (0x7FF : Nat).testBit k = true) ∧ (byteField (descriptor 256 0 0 0) 38 2).testBit 0 = false ∧ (packedForm x 0x7FF).length = 80
    ∧ (∀ k < 11, (0x44 : Nat).testBit k = true ↔ (byteField (descriptor 256 1 80 x) 38 2).testBit 0 = false ∨
        byteField (exampleRecord 1 0x2010 1) (recordField k).1 (recordField k).2 ≠ byteField (byteField (descriptor 256 1 80 x) 64 112) (recordField k).1 (recordField k).2)
    ∧ (∀ k < 11, (0 : Nat).testBit k = true ↔ (byteField (descriptor 256 1 80 x) 38 2).testBit 0 = false ∨
        byteField x (recordField k).1 (recordField k).2 ≠ byteField (byteField (descriptor 256 1 80 x) 64 112) (recordField k).1 (recordField k).2)
    ∧ (∀ p ∈ [(256, 80), (160, 80), (128, 80)], byteField (descriptor p.1 0 p.2 x) 32 4 = p.1 ∧ byteField (descriptor p.1 0 p.2 x) 40 4 = 80
      ∧ byteField (descriptor p.1 0 p.2 x) 48 4 = 0 ∧ byteField (descriptor p.1 0 p.2 x) 44 4 = byteField (descriptor p.1 0 p.2 x) 52 4)
    ∧ byteField (descriptor 128 0 (2 ^ 32) x) 44 4 ≠ byteField (descriptor 128 0 (2 ^ 32) x) 52 4 := by decide +kernel
/-- The plan of a record in an empty ring, and of a full one. -/
def spawnTo : SpawnPlan := (spawnPlan (spawnRead (spawner 0 256 0)).1 (spawnRead (spawner 0 256 0)).2).getD ⟨none, 0, [], 0⟩
theorem witness_SpawnResults_plan : (spawnPlan (spawnRead (spawner 0 256 0)).1 (spawnRead (spawner 0 256 0)).2 = some spawnTo)
    ∧ (byteField (spawnRead (spawner 4 256 0)).1 38 2).testBit 2 = true
    ∧ spawnPlan (spawnRead (spawner 0 256 0x100000000)).1 (spawnRead (spawner 0 256 0x100000000)).2 = none
    ∧ isOk (spawnSpans (spawner 0 256 0).issue 0x10800 0x12000 spawnTo ((spawner 0 256 0).begin_ (spawner 0 256 0).issue)) = true :=
  ⟨by decide +kernel, by decide +kernel, by decide +kernel, by decide +kernel⟩


/-! ### Host commands -/

/-- A command with its arguments at the head of a function's ring, and bytes of host memory at 0x8000. -/
def commanded (s : State) (f op : Nat) (args file : List Byte) : State :=
  (s.modFunc f (fun d => { d with cren := true, crsize := 6, crbase := 0x4000, crtail := 1 })).setBytes
    ((leBytes 4 7 ++ leBytes 2 op ++ leBytes 2 0 ++ args).zipIdx.map (fun b => (⟨.host, 0x4000 + b.2⟩, b.1)) ++ file.zipIdx.map (fun b => (⟨.host, 0x8000 + b.2⟩, b.1)))
/-- Its record as a number. -/
def recordOf (s : State) (f : Nat) : Nat := leNat (s.hostBytes (s.func f).headAt 64)
/-- A PART_CREATE block: Pier 1, root 0x40000, keys 1 and 2, VF 1. -/
def blockBytes : List Byte :=
  leBytes 8 2 ++ leBytes 8 0x40000 ++ leBytes 8 0 ++ leBytes 8 0 ++ leBytes 8 0 ++ leBytes 8 0 ++ leBytes 4 1 ++ leBytes 12 0 ++ leBytes 8 0 ++ leBytes 8 0 ++ leBytes 8 1
  ++ leBytes 8 2 ++ leBytes 32 0 ++ leBytes 48 1 ++ leBytes 80 0
/-- An RCO file of one segment of 64 bytes at 0x30000. -/
def rcoBytes : List Byte :=
  leBytes 4 0x314F4352 ++ leBytes 2 1 ++ leBytes 2 1 ++ leBytes 2 0 ++ leBytes 2 0xB0 ++ leBytes 4 128 ++ leBytes 4 168 ++ leBytes 108 0
  ++ leBytes 8 0x30000 ++ leBytes 8 64 ++ leBytes 8 168 ++ leBytes 8 64 ++ leBytes 8 5 ++ leBytes 64 0x1234
/-- The module with its keys, a VF of partition 0 and a code object that no context is in. -/
def governed : State :=
  ({ hart with fw := { hart.fw with keys := [1, 2], nextCode := 2, nextCtx := 1, codes := hart.fw.codes ++ [(1, { part := 0, segs := [⟨0x50000, 0x10000, 5⟩] })] } } : State).modFunc 3
    (fun d => { d with part := some 0 })
/-- The same with no agent placed and the context saved. -/
def vacant : State := { governed with agents := [], work := {} }
/-- Each command, by its function and code. -/
def cmdPartCreate : State := commanded governed 0 0x01 (leBytes 8 0x8000 ++ leBytes 4 256) blockBytes
def cmdPartDestroy : State := commanded governed 0 0x02 (leBytes 2 0) []
def cmdPartReset : State := commanded governed 0 0x03 (leBytes 2 0) []
def cmdCodeLoad : State := commanded governed 3 0x04 (leBytes 8 0x8000 ++ leBytes 8 232 ++ leBytes 2 0) rcoBytes
def cmdCodeUnload : State := commanded governed 3 0x05 (leBytes 4 1 ++ leBytes 1 0) []
def cmdCtxCreate : State := commanded governed 3 0x06 (leBytes 24 4 ++ leBytes 4 5 ++ leBytes 4 0 ++ leBytes 8 0x3000) []
def cmdCtxSave : State := commanded { vacant with mem := [], tlb := [⟨0, 0, 2 ^ 30, 0x1F⟩] } 3 0x07 (leBytes 4 0 ++ leBytes 4 0 ++ leBytes 8 0x10000 ++ leBytes 8 0) []
def cmdCtxRestore : State := (commanded governed 3 0x08 (leBytes 8 0x14000 ++ leBytes 8 0 ++ leBytes 24 4 ++ leBytes 8 0x3000) []).setBytes
  ((leBytes 4 0x31585443 ++ leBytes 2 1 ++ leBytes 2 0 ++ leBytes 2 0xB0 ++ leBytes 2 0 ++ leBytes 2 0 ++ leBytes 18 0 ++ leBytes 8 320).zipIdx.map (fun b => (⟨.fabric, 0x14000 + b.2⟩, b.1)))
def cmdQueueCreate : State := commanded governed 3 0x09 (leBytes 1 0 ++ leBytes 1 2 ++ leBytes 2 0 ++ leBytes 4 9 ++ leBytes 8 0x9000 ++ leBytes 8 0 ++ leBytes 8 6 ++ leBytes 8 0x8800) []
def cmdQueueDestroy : State := commanded (governed.modLq 9 (fun q => { q with owned := true, func := 3, progress := 4, next := 4 })) 3 0x0A (leBytes 4 0 ++ leBytes 4 9) []
def cmdDumpGrant : State := commanded (governed.modPart 0 (fun p => { p with dumps := [none, some ⟨4, false⟩] })) 0 0x0B (leBytes 8 0 ++ leBytes 8 4) []
def cmdJournalRead : State := commanded (governed.modJournal 0 (fun _ => [⟨0, 5, 3, 9, 1, [1, 2], 0, 9⟩, ⟨1, 6, 3, 9, 2, [1, 2], 0, 9⟩])) 0 0x0C
  (leBytes 8 1 ++ leBytes 4 5 ++ leBytes 2 0 ++ leBytes 2 0 ++ leBytes 8 0x8000) []
def cmdAttest : State := commanded governed 3 0x0D (leBytes 32 0x77 ++ leBytes 8 0x8000) []
def cmdResolve : State :=
  let s := governed.modPart 0 (fun p => { p with ring := [⟨{ hart.record (hart.issue) { cause := 0x09 } 0 with seq := 3, flags := 2 }, false⟩], tqProd := 1, seq := 3 })
  commanded (s.modAg 0 (fun a => { a with status := .replay 3 })) 3 0x0E (leBytes 4 3) []
def cmdProxyDone : State :=
  let s := governed.modPart 0 (fun p => { p with mail := p.mail.set 2 { state := 1, width := 8, count := 1, seq := 3, elems := [⟨.fetchAdd, 8, 0x10800, 0x8000, 4, 0, 0⟩], agent := 0 } })
  commanded (s.modAg 0 (fun a => { a with status := .proxy 2 })) 3 0x0F (leBytes 1 2) (leBytes 8 6)
def cmdHwcAllot : State := commanded governed 0 0x10 (leBytes 1 0 ++ leBytes 1 3 ++ leBytes 2 0) []

/-- A command stands at the head of its function's ring. -/
def stands (s : State) (f op : Nat) : Bool := (Memory.wf s.mem && Memory.wf s.link.mem && s.quays.all (fun e => Quay.wf e.2))
  && (s.agents.all (fun e => decide (e.2.mem.queue = [] ∧ e.2.mem.wc = [])) && decide (s.link.relaxed = 0)
    && decide ((s.func f).running = none ∧ (s.func f).cren = true ∧ (s.func f).crhead ≠ (s.func f).crtail ∧ (s.func f).crerr = false
      ∧ byteField (recordOf s f) 4 2 = op ∧ byteField (recordOf s f) 6 2 = 0) && (s.replayed f (recordOf s f)).isNone)
theorem commands_of {s : State} {f op : Nat} (h : stands s f op = true) : s.Commands f (recordOf s f) op := by
  have a : (Memory.wf s.mem && Memory.wf s.link.mem && s.quays.all (fun e => Quay.wf e.2)) = true := (Bool.and_eq_true_iff.1 h).1
  simp only [stands, Bool.and_eq_true, decide_eq_true_eq, List.all_eq_true] at h
  obtain ⟨-, ⟨⟨b, b2⟩, c⟩, d⟩ := h
  exact ⟨memoryOk_of _ a, ⟨b, b2⟩, c.1, c.2.1, c.2.2.1, c.2.2.2.1, rfl, c.2.2.2.2.1, c.2.2.2.2.2, Option.isNone_iff_eq_none.1 d⟩
theorem witness_CommandResults : cmdPartCreate.Commands 0 (recordOf cmdPartCreate 0) 0x01 ∧ cmdPartDestroy.Commands 0 (recordOf cmdPartDestroy 0) 0x02
    ∧ cmdPartReset.Commands 0 (recordOf cmdPartReset 0) 0x03 ∧ cmdCodeLoad.Commands 3 (recordOf cmdCodeLoad 3) 0x04 ∧ cmdCodeUnload.Commands 3 (recordOf cmdCodeUnload 3) 0x05
    ∧ cmdCtxCreate.Commands 3 (recordOf cmdCtxCreate 3) 0x06 ∧ cmdCtxSave.Commands 3 (recordOf cmdCtxSave 3) 0x07 ∧ cmdCtxRestore.Commands 3 (recordOf cmdCtxRestore 3) 0x08
    ∧ cmdQueueCreate.Commands 3 (recordOf cmdQueueCreate 3) 0x09 ∧ cmdQueueDestroy.Commands 3 (recordOf cmdQueueDestroy 3) 0x0A ∧ cmdDumpGrant.Commands 0 (recordOf cmdDumpGrant 0) 0x0B
    ∧ cmdJournalRead.Commands 0 (recordOf cmdJournalRead 0) 0x0C ∧ cmdAttest.Commands 3 (recordOf cmdAttest 3) 0x0D ∧ cmdResolve.Commands 3 (recordOf cmdResolve 3) 0x0E
    ∧ cmdProxyDone.Commands 3 (recordOf cmdProxyDone 3) 0x0F ∧ cmdHwcAllot.Commands 0 (recordOf cmdHwcAllot 0) 0x10 := by
  refine ⟨?_, ?_, ?_, ?_, ?_, ?_, ?_, ?_, ?_, ?_, ?_, ?_, ?_, ?_, ?_, ?_⟩ <;> apply commands_of <;> decide +kernel
/-- The physical function 0, which has the partition 1, resets launch queue 9 of the partition 0. -/
def cmdQueueResetPf : State := commanded ((governed.modFunc 0 (fun d => { d with part := some 1 })).modLq 9 (fun q => { q with owned := true, part := 0, func := 3 })) 0 0x09
  (leBytes 1 0 ++ leBytes 1 2 ++ leBytes 2 1 ++ leBytes 4 9 ++ leBytes 8 0x9000 ++ leBytes 8 0 ++ leBytes 8 6 ++ leBytes 8 0x8800) []
theorem witness_CommandResults_reset_pf : cmdQueueResetPf.Commands 0 (recordOf cmdQueueResetPf 0) 0x09 ∧ argsClear (recordOf cmdQueueResetPf 0) [(0, 3), (4, 21), (32, 8)] = true
    ∧ argField (recordOf cmdQueueResetPf 0) 2 1 = 1 ∧ (cmdQueueResetPf.lq 9).owned = true ∧ (cmdQueueResetPf.lq 9).part = 0 ∧ isPf 0 = true := by
  refine ⟨commands_of (by decide +kernel), ?_, ?_, ?_, ?_, ?_⟩ <;> decide +kernel
/-- What else their entries ask, one after the other. -/
theorem witness_CommandResults_parts : (isPf 0 = true ∧ (cmdPartCreate.func 0).part = none ∧ argsClear (recordOf cmdPartCreate 0) [(0, 12)] = true
      ∧ cmdPartCreate.blockLegal (leNat (cmdPartCreate.hostBytes 0x8000 256)) = true ∧ cmdPartCreate.freePart = some 1
      ∧ ∀ z ∈ cmdPartCreate.fw.parts, z.2.exists_ = true → z.2.piers &&& 2 = 0 ∧ z.2.vfs &&& 1 = 0 ∧ byteField (leNat (cmdPartCreate.hostBytes 0x8000 256)) 72 4 = 0)
    ∧ (argsClear (recordOf cmdPartDestroy 0) [(0, 2)] = true ∧ cmdPartDestroy.work.jobs = [] ∧ cmdPartDestroy.copiesFly 0 = false ∧ (∀ l ∈ cmdPartDestroy.work.launches, l.2.part ≠ 0)
      ∧ (∀ d ∈ cmdPartDestroy.fw.funcs, d.1 ≠ 0 → d.2.running = none) ∧ (cmdPartDestroy.part 0).exists_ = true ∧ cmdPartDestroy.own 0 0 = true
      ∧ argsClear (recordOf cmdPartReset 0) [(0, 2)] = true ∧ cmdPartReset.work.jobs = [])
    ∧ (argsClear (recordOf cmdCodeLoad 3) [(0, 18)] = true ∧ (rcoSegments (leNat (cmdCodeLoad.hostBytes 0x8000 232)) 232).isSome = true
      ∧ ((rcoSegments (leNat (cmdCodeLoad.hostBytes 0x8000 232)) 232).getD []).all (fun z => !z.1.flags.testBit 3) = true
      ∧ rcoStepping (leNat (cmdCodeLoad.hostBytes 0x8000 232)) = false)
    ∧ (argsClear (recordOf cmdCodeUnload 3) [(0, 5)] = true ∧ (Assoc.find? 1 cmdCodeUnload.fw.codes).isSome = true ∧ cmdCodeUnload.own 3 0 = true
      ∧ ∀ e ∈ cmdCodeUnload.fw.ctxs, cmdCodeUnload.ctxPcIn e.1 [⟨0x50000, 0x10000, 5⟩] = none)
    ∧ (cmdCtxCreate.partOfQuays (quayBits 4) = some 0 ∧ argsClear (recordOf cmdCtxCreate 3) [(0, 28), (32, 8)] = true ∧ cmdCtxCreate.quaysTaken (quayBits 4) = false)
    ∧ (cmdQueueCreate.pagePart 3 = some 0 ∧ argsClear (recordOf cmdQueueCreate 3) [(0, 3), (4, 21), (32, 8)] = true ∧ (cmdQueueCreate.lq 9).owned = false)
    ∧ (argsClear (recordOf cmdQueueDestroy 3) [(0, 1), (4, 4)] = true ∧ (cmdQueueDestroy.lq 9).owned = true ∧ (cmdQueueDestroy.lq 9).func = 3
      ∧ (cmdQueueDestroy.lq 9).next ≤ (cmdQueueDestroy.lq 9).progress) := by
  refine ⟨?_, ?_, ?_, ?_, ?_, ?_, ?_⟩ <;> decide +kernel
theorem witness_CommandResults_reads : (argsClear (recordOf cmdDumpGrant 0) [(0, 3), (8, 8)] = true ∧ ∃ d ∈ (cmdDumpGrant.part 0).dumps, ∃ y, d = some y ∧ y.seq = 4)
    ∧ (argsClear (recordOf cmdJournalRead 0) [(0, 14), (16, 8)] = true ∧ cmdJournalRead.own 0 0 = true ∧ cmdJournalRead.journalKey 0 ≠ 0)
    ∧ argsClear (recordOf cmdAttest 3) [(0, 40)] = true
    ∧ (argsClear (recordOf cmdResolve 3) [(0, 4)] = true ∧ cmdResolve.resolvable 0 3 = true ∧ (cmdResolve.ag 0).status = .replay 3)
    ∧ (argsClear (recordOf cmdProxyDone 3) [(0, 1)] = true ∧ ((cmdProxyDone.part 0).mail.toList.getD 2 {}).state = 1 ∧ (cmdProxyDone.ag 0).status = .proxy 2)
    ∧ (argsClear (recordOf cmdHwcAllot 0) [(0, 4)] = true ∧ ∀ n < 8, ((cmdHwcAllot.die 0).comp.toList.getD n {}).part = none) :=
  ⟨⟨by decide +kernel, some ⟨4, false⟩, by decide +kernel, _, rfl, rfl⟩, by decide +kernel, by decide +kernel, by decide +kernel, by decide +kernel, by decide +kernel⟩

theorem length_leBytes : ∀ n x, (leBytes n x).length = n
  | 0, _ => rfl
  | n + 1, x => by simp [leBytes, length_leBytes n]
theorem length_padTo (n : Nat) (l : List Byte) : (padTo n l).length = max l.length n := by
  simp only [padTo, List.length_append, List.length_replicate]; omega
theorem length_pad64 (l : List Byte) : (pad64 l).length = (l.length + 63) / 64 * 64 := by
  rw [pad64, length_padTo]; omega
theorem length_flatMap_mem {α β : Type} (f : α → List β) (n : Nat) : ∀ l : List α, (∀ x ∈ l, (f x).length = n) → (l.flatMap f).length = l.length * n
  | [], _ => by simp
  | a :: l, h => by
    rw [List.flatMap_cons, List.length_append, h a (by simp), length_flatMap_mem f n l (fun x hx => h x (by simp [hx])), List.length_cons, Nat.succ_mul]; omega
theorem length_flatMap_of {α β : Type} (f : α → List β) (n : Nat) (h : ∀ x, (f x).length = n) (l : List α) : (l.flatMap f).length = l.length * n :=
  length_flatMap_mem f n l (fun x _ => h x)
/-- The image of a context with nothing saved: an empty tile engine, free berths, unbound walkers and the Wharf. -/
theorem image_length (s : State) (p q f : Nat) (h : s.qy q = {}) : (s.image p q f []).length = 5880512 := by
  have tile : (s.tile q).bytes.length = 96 + 192 * 8192 := by
    have : s.tile q = ({} : TileState) := by unfold State.tile; rw [h]
    have e : ({} : TileState).bytes = ({} : TileState).bytes.take 96 ++ padTo (192 * 8192) [] := rfl
    rw [this, e, List.length_append, length_padTo]; decide
  have berth : ∀ slot, ((s.qy q).berthBytes slot).length = 1024 := by
    intro slot
    rw [h, Quay.berthBytes, length_flatMap_of _ 64]
    · rfl
    · intro b; simp only [List.length_append, length_leBytes]
  have walk : (s.qy q).walk.bytes.length = 16 + 128 + 16 * 6464 := by
    rw [h, Walkers.bytes, List.length_append, List.length_append, List.length_append, length_leBytes, length_leBytes, length_flatMap_of _ 8 (fun _ => length_leBytes _ _),
      length_flatMap_mem _ 6464]
    · rfl
    · intro x hx
      have : x = none := List.eq_of_mem_replicate (n := 16) hx
      subst this
      exact List.length_replicate
  have wharf : (s.wharfBytes q).length = 24 + 8 + 8 + 24 + 8192 + 2 ^ 22 := by
    rw [State.wharfBytes, h]
    simp only [List.length_append, length_leBytes, List.length_map, List.length_range, State.bytes, length_flatMap_of _ 8 (fun _ => length_leBytes _ _)]
    rfl
  have offs (g : Nat → List Byte → Nat × Nat) (u : Nat → List Byte → Nat) : ∀ (l : List (List Byte)) (acc : List (Nat × Nat) × Nat),
      (l.foldl (fun acc b => (acc.1 ++ [g acc.2 b], u acc.2 b)) acc).1.length = acc.1.length + l.length := by
    intro l
    induction l with
    | nil => intro acc; rfl
    | cons b l ih => intro acc; rw [List.foldl_cons, ih, List.length_append, List.length_cons, List.length_cons, List.length_nil]; omega
  have secs (a b c d : List Byte) : ([[]] ++ List.map (fun _ => []) (List.range 8) ++ [a, b, c, d,
      List.flatMap s.taskBytes (List.filterMap (fun _ => none) (8 :: List.range 8))]) = [[], [], [], [], [], [], [], [], [], a, b, c, d, []] := rfl
  unfold State.image
  simp only [List.find?_nil, List.length_append, length_leBytes, length_padTo]
  rw [secs, length_flatMap_of _ 16 (fun x => by rw [List.length_append, length_leBytes, length_leBytes]),
    offs (fun n b => if b = [] then (0, 0) else (n, b.length)) (fun n b => n + (pad64 b).length)]
  simp only [List.flatMap_cons, List.flatMap_nil, List.length_append, length_pad64, tile, berth, walk, wharf, List.length_cons, List.length_nil]
  rfl
theorem padded {l : List Byte} (h : l.length = 5880512) : (pad64 l).length = 5880512 := by rw [length_pad64, h]
theorem ctxImage_length (s : State) (c q : Nat) (h : (s.ctx c).quays = [q]) (hq : s.qy q = {}) (hs : s.savedOn c q = []) : (s.ctxImage c).length = 5880512 := by
  have e : s.ctxImage c = pad64 (s.image (s.ctx c).part q (s.imageFlags c []) []) := by
    unfold State.ctxImage; dsimp only; rw [h]; simp only [List.flatMap_cons, List.flatMap_nil, List.append_nil, hs]
  rw [e, padded (image_length _ _ _ _ hq)]
/-- CTX_SAVE's last part: the image can be stored. -/
theorem witness_CommandResults_save : argsClear (recordOf cmdCtxSave 3) [(0, 4), (8, 16)] = true ∧ (cmdCtxSave.ctx 0).exists_ = true
    ∧ slotAddr (recordOf cmdCtxSave 3) 16 = (0x10000, true) ∧ cmdCtxSave.own 3 0 = true ∧ cmdCtxSave.ctxRuns 0 = false ∧ cmdCtxSave.saving 0 (some 3) = false
    ∧ (∀ q ∈ (cmdCtxSave.ctx 0).quays, cmdCtxSave.copiesOut q = false ∧ (cmdCtxSave.tile q).feeds = []) := by
  refine ⟨?_, ?_, ?_, ?_, ?_, ?_, ?_⟩ <;> decide +kernel
theorem witness_CommandResults_save_place : isOk (cmdCtxSave.rowSide (cmdCtxSave.hmActor 0 none) 0x10000 (cmdCtxSave.ctxImage 0).length 1 Acc.store) = true := by
  rw [ctxImage_length cmdCtxSave 0 0 (by decide +kernel) (by decide +kernel) (by decide +kernel)]
  decide +kernel
/-- CTX_RESTORE: the image is read and accepted. -/
theorem witness_CommandResults_restore :
    let u := cmdCtxRestore.accept 3 (recordOf cmdCtxRestore 3)
    let y := (u.readImages (u.hmActor 0 none) (quayBits 4) 0x14000).getD []
    cmdCtxRestore.partOfQuays (quayBits 4) = some 0 ∧ argsClear (recordOf cmdCtxRestore 3) [(0, 48)] = true ∧ slotAddr (recordOf cmdCtxRestore 3) 8 = (0x14000, true)
    ∧ cmdCtxRestore.own 3 0 = true ∧ (u.readImages (u.hmActor 0 none) (quayBits 4) 0x14000).isSome = true ∧ y.length = 1
    ∧ (u.restoreCtx 3 0 y 0x3000).1 = 0 := by
  refine ⟨?_, ?_, ?_, ?_, ?_, ?_, ?_⟩ <;> decide +kernel
/-- Whether a block that begins a range or follows something in use is free. -/
def hasBlock (s : State) (p : Nat) : Bool :=
  (((s.part p).ranges.map (fun (r : Nat × Nat) => (r.1 + 2 ^ 17 - 1) / 2 ^ 17 * 2 ^ 17)) ++ (s.inUse p).map (fun (u : Nat × Nat) => (u.1 + u.2 + 2 ^ 17 - 1) / 2 ^ 17 * 2 ^ 17)).any
    (blockFree (s.part p).ranges (s.inUse p))
/-- Then one is found, whatever the free choice. -/
theorem takePage_isSome (s : State) (p : Nat) (h : hasBlock s p = true) : (s.takePage p).isSome = true := by
  have f : ∀ l : List Nat, l.any (blockFree (s.part p).ranges (s.inUse p)) = true → (l.find? (blockFree (s.part p).ranges (s.inUse p))).isSome = true := by
    intro l hl; rw [List.find?_isSome]; simpa using hl
  unfold State.takePage
  dsimp only
  rw [Option.isSome_map]
  split
  · rfl
  · exact f _ h
/-- The pages of the code that is loaded: it asks for one. -/
def loadedAll (s : State) : Option State :=
  let y := leNat (s.hostBytes 0x8000 232)
  let gs := (rcoSegments y 232).getD []
  (segmentPages (gs.map (·.1))).foldl (fun (acc : Option State) va => acc.bind (fun s => s.loadPage 0 y gs va)) (some (s.accept 3 (recordOf s 3)))
theorem witness_CommandResults_code : (loadedAll cmdCodeLoad).isSome = true := by
  have pages : segmentPages (((rcoSegments (leNat (cmdCodeLoad.hostBytes 0x8000 232)) 232).getD []).map (·.1)) = [0x30000] := by decide +kernel
  have found : (((cmdCodeLoad.accept 3 (recordOf cmdCodeLoad 3)).dropCached 0 0x30000).pteAt 4 0 0 ((cmdCodeLoad.accept 3 (recordOf cmdCodeLoad 3)).part 0).root 0x30000).any
      (fun r => hasBlock r.2 0) = true := by decide +kernel
  obtain ⟨r, hr, hb⟩ := (Option.any_eq_true _ _).1 found
  unfold loadedAll
  dsimp only
  rw [pages, List.foldl_cons, List.foldl_nil, Option.bind_some]
  unfold State.loadPage State.mapPage
  rw [hr]
  simpa using takePage_isSome _ _ hb
theorem witness_CommandResults_code_none : loadedAll (cmdCodeLoad.modPart 0 (fun p => { p with ranges := [] })) = none := by decide +kernel
/-- CODE_UNLOAD of code that a context's PC lies in, and with FORCE when no agent runs. -/
def cmdCodeHeld : State := commanded governed 3 0x05 (leBytes 4 0 ++ leBytes 1 0) []
def cmdCodeForced : State := commanded vacant 3 0x05 (leBytes 4 0 ++ leBytes 1 1) []
theorem witness_CommandResults_unload : cmdCodeHeld.Commands 3 (recordOf cmdCodeHeld 3) 0x05 ∧ cmdCodeForced.Commands 3 (recordOf cmdCodeForced 3) 0x05
    ∧ ((cmdCodeHeld.ctx 0).exists_ = true ∧ (cmdCodeHeld.ctx 0).part = 0 ∧ (cmdCodeHeld.ctxPcIn 0 [⟨0x10000, 0x10000, 0xF⟩]).isSome = true)
    ∧ (∀ e ∈ cmdCodeForced.fw.ctxs, cmdCodeForced.ctxRuns e.1 = false) := by
  refine ⟨commands_of ?_, commands_of ?_, ?_, ?_⟩ <;> decide +kernel
/-- PROXY_DONE of one FADD of 8 bytes at the bus address 0x8000, away from the record's outcome. -/
theorem witness_CommandResults_proxy : ((cmdProxyDone.part 0).mail.toList.getD 2 {}).elems = [⟨.fetchAdd, 8, 0x10800, 0x8000, 4, 0, 0⟩]
    ∧ ((8 : Nat) ≤ 16) ∧ (cmdProxyDone.func 3).headAt + 64 ≤ 0x8000 := by decide +kernel
/-- QUEUE_CREATE of a queue that is reset. -/
def cmdQueueReset : State := commanded (governed.modLq 9 (fun q => { q with owned := true, func := 3, progress := 4, next := 5 })) 3 0x09
  (leBytes 1 0 ++ leBytes 1 2 ++ leBytes 1 1 ++ leBytes 1 0 ++ leBytes 4 9 ++ leBytes 8 0x9000 ++ leBytes 8 0 ++ leBytes 8 6 ++ leBytes 8 0x8800) []
theorem witness_CommandResults_reset : cmdQueueReset.Commands 3 (recordOf cmdQueueReset 3) 0x09 ∧ argsClear (recordOf cmdQueueReset 3) [(0, 3), (4, 21), (32, 8)] = true
    ∧ (argField (recordOf cmdQueueReset 3) 2 1 = 1 ∧ (cmdQueueReset.lq 9).owned = true ∧ (cmdQueueReset.lq 9).part = 0) := by
  refine ⟨commands_of ?_, ?_, ?_⟩ <;> decide +kernel


/-! ### Debug commands -/

/-- A command stands in function 3's slot: its code, agent, Quay 0, context 0, item, value, buffer, length; the context has a debugger unless it attaches. -/
def dbg (s : State) (op agent item value buf len : Nat) : State :=
  let s := (s.modCtx 0 (fun c => { c with debugger := decide (op ≠ 1) })).modFunc 3 (fun d => { d with dbgBusy := true, dbgCmd := Vector.ofFn (fun i =>
    (leBytes 1 op ++ leBytes 1 agent ++ leBytes 2 0 ++ leBytes 4 0 ++ leBytes 8 item ++ leBytes 16 value ++ leBytes 8 buf ++ leBytes 4 len ++ leBytes 12 0 ++ leBytes 4 0x77
      ++ leBytes 4 0).getD i.val 0) })
  s
/-- The command as a number. -/
def slotOf (s : State) : Nat := leNat (s.func 3).dbgCmd.toList
/-- The hart halted by the debugger. -/
def halted : State := governed.modAg 0 (fun a => { a with status := .halted, trap := { a.trap with tepc := 0x10040 }, marks := { a.marks with byDebug := true } })
/-- The hart halted by its own HALT. -/
def halting : State := governed.modAg 0 (fun a => { a with status := .halted, trap := { a.trap with tepc := 0x10040 } })
/-- A tile register t0 of f32 2 by 2 to be computed, beside the hart. -/
def nodeQuay : State := { governed with quays := pending.quays }
theorem debugs_of {s : State} {op : Nat} (h : ((s.func 3).dbgBusy && decide (byteField (slotOf s) 0 1 = op ∧ byteField (slotOf s) 4 4 = 0)
    && decide ((s.ctx 0).exists_ = true ∧ s.pagePart 3 = some (s.ctx 0).part) && decide (op = 1 ∨ (s.ctx 0).debugger = true)) = true) : s.Debugs 3 (slotOf s) 0 op := by
  simp only [Bool.and_eq_true, decide_eq_true_eq] at h
  exact ⟨h.1.1.1, rfl, h.1.1.2.1, h.1.1.2.2, h.1.2.1, h.1.2.2, h.2⟩
theorem witness_DebugResults : (dbg governed 1 0 0 0 0 0).Debugs 3 (slotOf (dbg governed 1 0 0 0 0 0)) 0 1 ∧ (dbg governed 2 0 0 0 0 0).Debugs 3 (slotOf (dbg governed 2 0 0 0 0 0)) 0 2
    ∧ (dbg governed 3 0 0 0 0 0).Debugs 3 (slotOf (dbg governed 3 0 0 0 0 0)) 0 3 ∧ (dbg halted 4 0 0 0 0 0).Debugs 3 (slotOf (dbg halted 4 0 0 0 0 0)) 0 4
    ∧ (dbg halting 5 0 0 0 0 0).Debugs 3 (slotOf (dbg halting 5 0 0 0 0 0)) 0 5 ∧ (dbg halted 6 0 0x5000 0 0 0).Debugs 3 (slotOf (dbg halted 6 0 0x5000 0 0 0)) 0 6
    ∧ (dbg halted 7 0 3 9 0 0).Debugs 3 (slotOf (dbg halted 7 0 3 9 0 0)) 0 7 ∧ (dbg halted 8 0 0 0 0x8000 4096).Debugs 3 (slotOf (dbg halted 8 0 0 0 0x8000 4096)) 0 8
    ∧ (dbg governed 9 0 0 0 0 0).Debugs 3 (slotOf (dbg governed 9 0 0 0 0 0)) 0 9 ∧ (dbg governed 10 0 0 0 0 0).Debugs 3 (slotOf (dbg governed 10 0 0 0 0 0)) 0 10
    ∧ (dbg governed 11 0 0 0 0x8000 0x200000).Debugs 3 (slotOf (dbg governed 11 0 0 0 0x8000 0x200000)) 0 11
    ∧ (dbg nodeQuay 12 0 0 0x0100010000000000 0 0).Debugs 3 (slotOf (dbg nodeQuay 12 0 0 0x0100010000000000 0 0)) 0 12
    ∧ (dbg halted 13 0 0 0 0x8000 4096).Debugs 3 (slotOf (dbg halted 13 0 0 0 0x8000 4096)) 0 13 ∧ (dbg halted 14 0 0 0 0 0).Debugs 3 (slotOf (dbg halted 14 0 0 0 0 0)) 0 14
    ∧ (dbg governed 15 0 0 0 0 0).Debugs 3 (slotOf (dbg governed 15 0 0 0 0 0)) 0 15 := by
  refine ⟨?_, ?_, ?_, ?_, ?_, ?_, ?_, ?_, ?_, ?_, ?_, ?_, ?_, ?_, ?_⟩ <;> apply debugs_of <;> decide +kernel
theorem witness_DebugResults_agents : (∀ p ∈ [(dbg halted 4 0 0 0 0 0), dbg halting 5 0 0 0 0 0, dbg halted 6 0 3 0 0 0, dbg halted 7 0 0x5000 0 0 0, dbg halted 8 0 0 0 0x8000 4096],
      p.NamesHalted (slotOf p) 0 0) ∧ (dbg halted 4 0 0 0 0 0).named 0 0 0 = [.slot 0] ∧ ((dbg governed 3 0 0 0 0 0).ag 0).haltable = true ∧ isPilot 0 = false
    ∧ (dbg governed 3 0 0 0 0 0).named 0 0 0 = [.slot 0] ∧ byteField (slotOf (dbg halted 6 0 0x5000 0 0 0)) 8 8 / 2 ^ 12 % 16 = 5
    ∧ ((halted.ag 0).bufferBytes.length ≤ 4096 ∧ (halted.ag 0).trace.bytes.length ≤ 4096)
    ∧ ((nodeQuay.tile 0).cur.toList.getD 0 none = some 7 ∧ ((nodeQuay.tile 0).ver 7).rows = 2)
    ∧ (∀ e ∈ halted.agents, e.2.part = 0 → e.2.status = .absent ∨ (halted.ag e.1).status = .halted) ∧ (∀ e ∈ governed.agents, e.2.part = 0 → (governed.ag e.1).marks.byPart = false) := by
  unfold State.NamesHalted
  refine ⟨?_, ?_, ?_, ?_, ?_, ?_, ?_, ?_, ?_, ?_⟩ <;> decide +kernel
theorem witness_DebugResults_refused : ((dbg governed 3 0 0 0 0 0).modFunc 3 (fun d => { d with part := none })).pagePart 3 ≠ some 0
    ∧ (((dbg governed 3 0 0 0 0 0).modCtx 0 (fun c => { c with debugger := false })).ctx 0).debugger = false ∧ byteField (slotOf (dbg governed 3 0 0 0 0 0)) 0 1 = 3
    ∧ (governed.tile 0).bytes.take 1 = [0] ∧ (governed.ctx 0).quays.contains 0 = true := by
  refine ⟨?_, ?_, ?_, ?_, ?_⟩ <;> decide +kernel
/-- t0 to be read by a TLD from a page that is not mapped. -/
def badNodeQuay : State := { governed with quays := (then_ (.tld 0 1 2) (regs tiled 0x02000200 16 0x05000200 0x70000000 0)).quays }
/-- The register's version, and what forcing its one block answers. -/
def badForce : Option TileFault := ((badNodeQuay.tile 0).force (badNodeQuay.tileRead 0 none) 7 ((rectOf 0x01000100).units ((badNodeQuay.tile 0).ver 7).shape)).2
theorem witness_DebugResults_dforce : (dbg badNodeQuay 12 0 0 0x0100010000000000 0x8000 63).Debugs 3 (slotOf (dbg badNodeQuay 12 0 0 0x0100010000000000 0x8000 63)) 0 12
    ∧ (dbg badNodeQuay 12 0 0 0x0100010000000000 0x8000 64).Debugs 3 (slotOf (dbg badNodeQuay 12 0 0 0x0100010000000000 0x8000 64)) 0 12
    ∧ (badNodeQuay.tile 0).cur.toList.getD 0 none = some 7 ∧ badForce.isSome = true ∧ (∀ e, badForce = some e → e.cause ≠ 0)
    ∧ (∀ n ∈ [63, 64], byteField (slotOf (dbg badNodeQuay 12 0 0 0x0100010000000000 0x8000 n)) 40 4 = n)
    ∧ byteField (slotOf (dbg badNodeQuay 12 0 0 0x0100010000000000 0x8000 64)) 20 4 = 0x01000100 ∧ (badNodeQuay.func 3).dbgAts = none ∧ (badNodeQuay.func 3).dbgFail = none := by
  refine ⟨debugs_of ?_, debugs_of ?_, ?_, ?_, ?_, ?_, ?_, ?_, ?_⟩
  · decide +kernel
  · decide +kernel
  · decide +kernel
  · decide +kernel
  · have : badForce.all (fun e => decide (e.cause ≠ 0)) = true := by decide +kernel
    intro e h; rw [h] at this; simpa using this
  all_goals decide +kernel
theorem witness_DebugResults_detach : (governed.haltedOf 0).filter (fun t => !(governed.dbgAg t).marks.byPart) = [] := by decide +kernel


/-! ### Host writes -/

/-- Function 3 with its command ring on. -/
def ringed : State := governed.modFunc 3 (fun d => { d with cren := true, crsize := 6, crbase := 0x4000, crtail := 1 })
/-- Launch queue 9 of function 3, resident or not. -/
def hostQueue (resident : Bool) : State :=
  governed.modLq 9 (fun q => { q with owned := true, func := 3, resident := resident, size := 64, progress := 5, tail := 6, next := 6 })
/-- Function 3 invalidates the page at 0x10000, whose translation is cached. -/
def invalidates : State :=
  { governed.modFunc 3 (fun d => { d with inval := some ⟨0x10000, 0x10000, false⟩ }) with tlb := [⟨0, 0x10000, 0x10000, 0x1001F⟩, ⟨0, 0x30000, 0x10000, 0x1001F⟩] }
/-- Bytes in memory at 0x10800, for BAR2. -/
def aperture : State := governed.setBytes ((List.range 32).map (fun k => (⟨.fabric, 0x10800 + k⟩, BitVec.ofNat 8 (k * 7 + 1))))
/-- What the Harbour Master reads there, and the places of a host write of five bytes. -/
def barRead (n al : Nat) (k : Acc) : List (Place × Nat) × Nat := okOr ([], 0) (aperture.hmRead (aperture.hmActor 0 none) 0x10808 n al k)
def barSide : List (Place × Nat) := okOr [] (aperture.rowSide (aperture.hmActor 0 none) 0x10801 5 1 Acc.store)
theorem witness_HostWriteResults : (governed.func 3).cren = false ∧ (ringed.func 3).cren = true ∧ (ringed.func 3).crsize = 6 ∧ (ringed.func 3).crhead < 2 ^ 32
    ∧ (ringed.func 3).crtail < 2 ^ 32 ∧ (governed.func 3).inval = none ∧ (invalidates.func 3).inval = some ⟨0x10000, 0x10000, false⟩ ∧ invalidates.pagePart 3 = some 0
    ∧ (∀ e ∈ invalidates.agents, e.2.strip.buf = [] ∧ e.2.mem.queue = [] ∧ e.2.mem.wc = [] ∧ e.2.marks.plan = []) ∧ (∀ e ∈ invalidates.work.tasks, e.2.saved = none)
    ∧ ((governed.ctx 0).exists_ = true ∧ governed.pagePart 3 = some (governed.ctx 0).part ∧ (governed.ag 0).status ≠ .absent) := by
  refine ⟨?_, ?_, ?_, ?_, ?_, ?_, ?_, ?_, ?_, ?_, ?_⟩ <;> decide +kernel
theorem witness_HostWriteResults_queue : (∀ r ∈ [true, false], ((hostQueue r).lq 9).owned = true ∧ ((hostQueue r).lq 9).func = 3 ∧ ((hostQueue r).lq 9).resident = r
      ∧ ((hostQueue r).lq 9).switching = false)
    ∧ (let y := (hostQueue true).lq 9; y.tail ≤ 8 ∧ 8 ≤ y.progress + y.size ∧ ¬ (y.tail ≤ 80 ∧ 80 ≤ y.progress + y.size) ∧ y.progress + (8 + 2 ^ 32 - y.progress % 2 ^ 32) % 2 ^ 32 = 8)
    ∧ whashLegal (whashMasks ((governed.qy 0).whash.toList.set 0 0x0008208000041040)) = true ∧ governed.wharfBusy 0 = false
    ∧ (0x0008208000041040 : Word) &&& 0x003FFFFF003FFFFF = 0x0008208000041040 ∧ (∀ e ∈ governed.agents, e.2.mem.queue = []) := by
  refine ⟨?_, ?_, ?_, ?_, ?_, ?_⟩ <;> decide +kernel
/-- The same with 1 GiB mapped, for an address that the mailbox cannot lie at together with the first. -/
def aperture2 : State := { governed with mem := [], tlb := [⟨0, 0, 2 ^ 30, 0x1F⟩] }
def barRead2 (n al : Nat) (k : Acc) : List (Place × Nat) × Nat := okOr ([], 0) (aperture2.hmRead (aperture2.hmActor 0 none) 0x30808 n al k)
def barSide2 : List (Place × Nat) := okOr [] (aperture2.rowSide (aperture2.hmActor 0 none) 0x30801 5 1 Acc.store)
theorem bar_outside (s : State) (k n : Nat) (hk : k ≤ 8) (hn : n ≤ 8) : s.OutsideMail 0 (mkAddr 0 (0x10800 + k)) n ∨ s.OutsideMail 0 (mkAddr 0 (0x30800 + k)) n := by
  have e : ∀ j ≤ 0x30808, (offOf (mkAddr 0 j)).toNat = j := by
    intro j h; unfold offOf mkAddr; rw [BitVec.toNat_setWidth, BitVec.toNat_ofNat]; omega
  unfold State.OutsideMail mailSize
  rw [e _ (by omega), e _ (by omega)]
  omega
theorem witness_HostWriteResults_bar : (aperture.MemoryOk ∧ aperture2.MemoryOk) ∧ (aperture.pagePart 3 = some 0 ∧ aperture2.pagePart 3 = some 0)
    ∧ ((0x10808 : Addr) = mkAddr 0 ((aperture.part 0).bar2 + 0x10808) ∧ (0x30808 : Addr) = mkAddr 0 ((aperture2.part 0).bar2 + 0x30808)) :=
  ⟨⟨memoryOk_of _ (by decide +kernel), memoryOk_of _ (by decide +kernel)⟩, by decide +kernel, by decide +kernel⟩
theorem witness_HostWriteResults_bar_outside (s : State) (n : Nat) (hn : n ≤ 8) : (s.OutsideMail 0 (mkAddr 0 (0x10800 + 8)) n ∨ s.OutsideMail 0 (mkAddr 0 (0x30800 + 8)) n)
    ∧ (s.OutsideMail 0 (mkAddr 0 (0x10800 + 1)) n ∨ s.OutsideMail 0 (mkAddr 0 (0x30800 + 1)) n) :=
  ⟨bar_outside s 8 n (by decide) hn, bar_outside s 1 n (by decide) hn⟩
theorem witness_HostWriteResults_bar_read : aperture.hmRead (aperture.hmActor 0 none) 0x10808 8 1 Acc.load = .ok (barRead 8 1 Acc.load)
    ∧ aperture2.hmRead (aperture2.hmActor 0 none) 0x30808 8 1 Acc.load = .ok (barRead2 8 1 Acc.load)
    ∧ (∀ w ∈ [4, 8], (aperture.hmRead (aperture.hmActor 0 none) 0x10808 w w Acc.atomic = .ok (barRead w w Acc.atomic)
        ∧ ∀ r ∈ spread (barRead w w Acc.atomic).1, r.Plain ∧ aperture.rawByte r = aperture.byte r)
      ∧ aperture2.hmRead (aperture2.hmActor 0 none) 0x30808 w w Acc.atomic = .ok (barRead2 w w Acc.atomic)
        ∧ ∀ r ∈ spread (barRead2 w w Acc.atomic).1, r.Plain ∧ aperture2.rawByte r = aperture2.byte r) := by
  refine ⟨ok_of ([], 0) (by decide +kernel), ok_of ([], 0) (by decide +kernel), fun w hw => ⟨⟨ok_of ([], 0) (by revert w; decide +kernel), ?_⟩, ok_of ([], 0) (by revert w; decide +kernel), ?_⟩⟩ <;>
    (unfold Place.Plain; revert w; decide +kernel)
/-- One of 16 bytes, and where the memory is another module's. -/
theorem witness_HostWriteResults_bar_home : (isOk (aperture.hmRead (aperture.hmActor 0 none) 0x10800 16 16 Acc.atomic)
      && isOk ((far aperture).hmRead ((far aperture).hmActor 0 none) 0x10800 16 16 Acc.atomic)) = true
    ∧ (∀ r ∈ (spread (okOr ([], 0) (aperture.hmRead (aperture.hmActor 0 none) 0x10800 16 16 Acc.atomic)).1).take 1, aperture.away r = false)
    ∧ (∃ r ∈ (spread (okOr ([], 0) ((far aperture).hmRead ((far aperture).hmActor 0 none) 0x10800 16 16 Acc.atomic)).1).take 1, (far aperture).away r = true)
    ∧ (far aperture).pagePart 3 = some 0 := by
  refine ⟨?_, ?_, ?_, ?_⟩ <;> decide +kernel
/-- A copy into the Wharf. -/
def wharfCopy : Copy := { kind := .bcpy, agent := 0, serial := 1, base := 0, count := 2, src := 0x10800, dst := 0x20000000000000000, sstr := 8, dstr := 8, bytes := 8 }
/-- It is in flight. -/
def busyWharf : State := governed.modQy 0 (fun q => { q with berths := q.berths.set 3 { q.berths[3] with owner := some 0, copies := [wharfCopy] } })
theorem witness_HostWriteResults_busy : (busyWharf.wharfBusy 0 = true ∧ whashLegal (whashMasks ((busyWharf.qy 0).whash.toList.set 0 0x0008208000041040)) = true)
    ∧ (∀ e ∈ busyWharf.agents, e.2.mem.queue = []) ∧ (governed.qy 0).hashPend = none := by
  refine ⟨?_, ?_, ?_⟩ <;> decide +kernel
theorem witness_HostWriteResults_bar_write : aperture.rowSide (aperture.hmActor 0 none) 0x10801 5 1 Acc.store = .ok barSide ∧ (∀ r ∈ spread barSide, r.Plain)
    ∧ aperture2.rowSide (aperture2.hmActor 0 none) 0x30801 5 1 Acc.store = .ok barSide2 ∧ (∀ r ∈ spread barSide2, r.Plain) := by
  refine ⟨ok_of [] (by decide +kernel), ?_, ok_of [] (by decide +kernel), ?_⟩ <;> (unfold Place.Plain; decide +kernel)
/-- A partition with another aperture and reserved memory. -/
def mailPart (b r : Nat) (p : Part) : Part := { p with bar2 := b, resBase := r }
/-- The aperture begins at `b`, reserved memory at `r`. -/
def mailed (b r : Nat) : State := governed.modPart 0 (mailPart b r)
theorem mailed_part (b r : Nat) : (mailed b r).part 0 = mailPart b r (governed.part 0) := by unfold mailed State.modPart; exact Assoc.get_set_self _ _ _ _
theorem mailed_at {b r o t : Nat} (ho : Config.mailOffset 0 % (((governed.part 0).resSize - mailSize) / 64 + 1) = o) (h : r + 64 * o = t * 2 ^ 44) : (mailed b r).mailAt 0 = t * 2 ^ 44 := by
  unfold State.mailAt; rw [mailed_part]; unfold mailPart; dsimp only; rw [ho]; exact h
theorem devAt_mail (t k : Nat) (h : k < 8) : devAt (t * 2 ^ 44 + 0 + k) = none := by unfold devAt devBase; dsimp only; rw [if_neg (by omega)]
theorem badRead_clean (s : State) (a n : Nat) (h : s.poison = []) (u : s.ue = []) : s.badRead ⟨.fabric, a⟩ n = none := by
  unfold State.badRead Place.span
  rw [List.findSome?_eq_none_iff]
  intro q hq
  obtain ⟨k, -, rfl⟩ := List.mem_map.1 hq
  simp [State.uncorrectable, State.poisoned, Place.plus, h, u]
/-- The aperture begins at the mailbox, wherever it lies in reserved memory, and that where the mailbox begins at the start of a module's memory. -/
theorem witness_HostWriteResults_mail : ∃ r, (mailed (Config.proxyBase 0).toNat r).MemoryOk ∧ (mailed (Config.proxyBase 0).toNat r).pagePart 3 = some 0
    ∧ (offOf (mkAddr 0 (((mailed (Config.proxyBase 0).toNat r).part 0).bar2 + 0))).toNat = (Config.proxyBase 0).toNat ∧ 0 + 8 ≤ mailSize
    ∧ (mailed (Config.proxyBase 0).toNat r).badRead ⟨.fabric, (mailed (Config.proxyBase 0).toNat r).mailAt 0 + 0⟩ 8 = none
    ∧ ∀ q ∈ (⟨.fabric, (mailed (Config.proxyBase 0).toNat r).mailAt 0 + 0⟩ : Place).span 8, q.Plain := by
  generalize ho : Config.mailOffset 0 % (((governed.part 0).resSize - mailSize) / 64 + 1) = o
  obtain ⟨r, t, hr⟩ : ∃ r t, r + 64 * o = t * 2 ^ 44 := ⟨64 * o * (2 ^ 44 - 1), 64 * o, by omega⟩
  generalize Config.proxyBase 0 = b
  refine ⟨r, memoryOk_of _ (by rfl), rfl, ?_, by decide, badRead_clean _ _ _ rfl rfl, ?_⟩
  · rw [mailed_part]; unfold offOf mkAddr mailPart; rw [BitVec.toNat_setWidth, BitVec.toNat_ofNat]; dsimp only; omega
  · intro q hq
    unfold Place.span at hq
    obtain ⟨k, hk, rfl⟩ := List.mem_map.1 hq
    have hk : k < 8 := List.mem_range.1 hk
    refine ⟨by simp [Place.plus], fun _ => ?_⟩
    unfold Place.plus
    rw [mailed_at ho hr]
    exact devAt_mail _ _ hk


/-! ### The Harbour Master's events -/

/-- Bytes at an address of the fabric. -/
def fabric (a : Nat) (bs : List Byte) : List (Place × Byte) := bs.zipIdx.map (fun b => (⟨.fabric, a + b.2⟩, b.1))
/-- A launch record of one level with one hart of one quad, entry 0x10000. -/
def launchBytes : List Byte :=
  leBytes 4 0x3148434C ++ leBytes 2 1 ++ leBytes 1 1 ++ leBytes 9 0 ++ leBytes 16 0x10000 ++ leBytes 96 0 ++ leBytes 4 1 ++ leBytes 2 0 ++ leBytes 1 1 ++ leBytes 1 1 ++ leBytes 8 0
  ++ leBytes 112 0
/-- Queue 9 with its entry 2 next, queue 4 at progress 10, a launch record at 0x10A00. -/
def queued (entry : List Byte) : State :=
  ((governed.modLq 9 (fun q => { q with owned := true, resident := true, ring := 0x6000, size := 64, tail := 3, next := 2, progress := 2, progAddr := 0x9000 })).modLq 4
    (fun q => { q with progress := 10 })).setBytes (entry.zipIdx.map (fun b => (⟨.host, 0x6080 + b.2⟩, b.1)) ++ fabric 0x10A00 launchBytes)
def qNop : State := queued []
def qLaunch : State := queued (leBytes 8 1 ++ leBytes 16 0x10A00)
def qWait (v : Nat) : State := queued (leBytes 24 2 ++ leBytes 8 v ++ leBytes 2 4)
def qSignal : State := queued (leBytes 8 3 ++ leBytes 16 0x10800 ++ leBytes 8 0x55)
/-- The next entry of queue 9. -/
def entryOf (s : State) : Nat := (s.nextEntry 9).getD 0
/-- What queue 9's events ask. -/
def mayStart (s : State) (kind : Nat) : Bool := (Memory.wf s.mem && Memory.wf s.link.mem && s.quays.all (fun e => Quay.wf e.2))
  && (decide (s.nextEntry 9 = some (entryOf s) ∧ entryOf s % 256 = kind ∧ s.work.jobs = [] ∧ (s.lq 9).waits = [] ∧ (s.lq 9).progress = (s.lq 9).next ∧ (s.lq 9).doneSet = [])
    && s.fw.lqs.all (fun y => decide (y.2.waits = [])) && s.agents.all (fun e => decide (e.2.mem.queue = [] ∧ e.2.mem.wc = [])) && decide (s.link.relaxed = 0))
/-- The launch record that is read. -/
def recordRead : Nat := okOr 0 ((qLaunch.modLq 9 (fun y => { y with next := y.next + 1 })).readLaunch (qLaunch.hmActor 0 none) 0x10A00)
theorem witness_SchedulerResults : mayStart qNop 0 = true ∧ mayStart qLaunch 1 = true ∧ mayStart (qWait 5) 2 = true ∧ mayStart (qWait 50) 2 = true ∧ mayStart qSignal 3 = true
    ∧ isOk (qSignal.rowSide (qSignal.hmActor 0 none) 0x10800 8 8 Acc.store) = true
    ∧ isOk ((qLaunch.modLq 9 (fun y => { y with next := y.next + 1 })).readLaunch (qLaunch.hmActor 0 none) 0x10A00) = true
    ∧ (launchOf recordRead).any (fun r => qLaunch.canPlace 0 r) = true
    ∧ (byteField (entryOf (qWait 5)) 24 8 ≤ ((qWait 5).lq 4).progress ∧ byteField (entryOf (qWait 5)) 32 2 = 4 ∧ ((qWait 50).lq 4).progress < byteField (entryOf (qWait 50)) 24 8) := by
  refine ⟨?_, ?_, ?_, ?_, ?_, ?_, ?_, ?_, ?_⟩ <;> decide +kernel
/-- Queue 9 as it stands for a switch. -/
def switches (resident switching entering : Bool) : State :=
  governed.modLq 9 (fun q => { q with owned := true, size := 64, tail := 1, resident := resident, switching := switching, entering := entering, mirror := [2] })
/-- All the places are taken, and queue 600, of a higher priority, waits for one. -/
def crowded : State := { governed with fw := { governed.fw with lqs :=
  (600, { owned := true, size := 64, prio := 2, mirror := [1] }) :: (List.range 512).map (fun k => (k, { owned := true, size := 64, resident := true })) } }
/-- Launch 1 of one hart, to be placed. -/
def waved : State := { governed with work := { governed.work with launches := [(1, { live := true, total := 1, record := (launchOf recordRead).getD {} })], nextLaunch := 2 } }
/-- Where its unit is placed. -/
def wavePlaces : Option (List (List Nat × Nat)) :=
  waved.nextUnit 1 (fun n => !waved.heldBack n (waved.launch 1).effPrio (waved.launch 1).since (some 1))
/-- Task queue 5: its descriptor at 0x10800, its ring at 0x10980, a packed record of F2 there. -/
def tasked (f : TaskQueue → TaskQueue) : State :=
  (governed.modTq 5 (fun t => f { t with owned := true, resident := true, desc := 0x10800 })).setBytes (fabric 0x10A00 launchBytes ++ fabric 0x10800
    (leBytes 16 0x10980 ++ leBytes 16 0x10A00 ++ leBytes 4 64 ++ leBytes 8 0 ++ leBytes 4 1) ++ fabric 0x10980 (leBytes 2 4 ++ leBytes 4 0))
def decodes : State := tasked id
def launches : State := tasked (fun t => { t with ready := [⟨0, 0, {}, 0, 0, 0⟩], seq := 1 })
def descOf (s : State) : Nat := okOr 0 (s.readDesc (s.hmActor 0 none) 0x10800)
theorem witness_SchedulerResults_switch : (∀ x ∈ [(false, true, true), (true, true, false), (false, true, false)],
      ((switches x.1 x.2.1 x.2.2).lq 9).resident = x.1 ∧ ((switches x.1 x.2.1 x.2.2).lq 9).switching = x.2.1 ∧ ((switches x.1 x.2.1 x.2.2).lq 9).entering = x.2.2)
    ∧ ((switches false false false).entersNext 9 = true ∧ ((switches false false false).fw.lqs.filter (fun y => y.2.holdsPlace)).length < residentQueues)
    ∧ ((crowded.lq 9).switching = false ∧ crowded.leavesNext 9 = true) := by
  refine ⟨?_, ?_, ?_⟩ <;> decide +kernel
theorem witness_SchedulerResults_queues : (let y := waved.launch 1; y.live = true ∧ y.placed.length < y.total ∧ waved.work.jobs = [] ∧ wavePlaces.isSome = true)
    ∧ (let y := decodes.tq 5; y.owned = true ∧ y.resident = true ∧ y.stopped = false ∧ decodes.work.jobs = [] ∧ isOk (decodes.readDesc (decodes.hmActor 0 none) y.desc) = true
      ∧ byteField (descOf decodes) 44 4 ≠ y.seq ∧ (slotAddr (descOf decodes) 0).1 = 0x10980 ∧ y.off + packedSize 4 ≤ byteField (descOf decodes) 32 4 ∧ packedSize 4 = 8 ∧ y.doomed = []
      ∧ isOk (decodes.hmRead (decodes.hmActor 0 none) 0x10980 8 8 Acc.load) = true
      ∧ (okOr ([], 0) (decodes.hmRead (decodes.hmActor 0 none) 0x10980 8 8 Acc.load)).2 % 2 ^ 16 = 4) := by
  refine ⟨?_, ?_⟩ <;> decide +kernel
theorem witness_SchedulerResults_launch : (let y := launches.tq 5
      y.owned = true ∧ y.resident = true ∧ launches.work.jobs = [] ∧ y.ready.find? (fun d => decide (d.seq = 0 ∧ d.preds = 0)) = some ⟨0, 0, {}, 0, 0, 0⟩
      ∧ isOk (launches.readDesc (launches.hmActor 0 none) y.desc) = true ∧ (slotAddr (descOf launches) 16).1 = 0x10A00
      ∧ isOk (launches.readLaunch (launches.hmActor 0 none) 0x10A00) = true)
    ∧ (let L := (launchOf (okOr 0 (launches.readLaunch (launches.hmActor 0 none) 0x10A00))).getD {}
      (launchOf (okOr 0 (launches.readLaunch (launches.hmActor 0 none) 0x10A00))).isSome = true ∧ (∀ p ∈ L.levels.zip (({} : TaskRecord).index L.levels), p.2 < p.1.extent)
      ∧ hartScopes L.levels 1 = true
      ∧ launches.quaysFor 5 L.levels ((({} : TaskRecord).index L.levels).drop (hartLevels L.levels).length) (launches.part 0).quays true ≠ []
      ∧ (launches.quaysFor 5 L.levels ((({} : TaskRecord).index L.levels).drop (hartLevels L.levels).length) (launches.heldQuays 0) false).find?
          (fun n => launches.hartRoom n (({} : TaskRecord).leaseOf L.levels).1 && !launches.heldBack n (⟨0, 0, {}, 0, 0, 0⟩ : Decoded).effPrio 0 none) = some 0) := by
  refine ⟨?_, ?_⟩ <;> decide +kernel
/-- Task 3 is ready to resume on Quay 0. -/
def resumes : State := { governed with work := { governed.work with tasks := governed.work.tasks ++ [(3, { state := .ready, saved := some { status := .run, regs := { pc := 0x10044 } } })] } }
/-- Another module's launch 2, one Quay instance of it. -/
def remoteOne : RemoteStart := ⟨5, 2, 0x10A00, 0, 0, [], []⟩
def remoteState : State :=
  { governed.setBytes (fabric 0x10A00 launchBytes) with work := { governed.work with placing := [(remoteOne, 4)], nextReady := 5 } }
/-- Launch 1 has two instances on other modules. -/
def reported : State := { governed with work := { governed.work with launches := [(1, { live := true, remote := 2 })] } }
theorem witness_SchedulerResults_tasks : (resumes.mayTake 3 1 = true ∧ (resumes.task 3).saved.isSome = true ∧ (resumes.task 3).needs = 0
      ∧ (resumes.ctx (resumes.task 3).ctx).doomed = none ∧ resumes.noSlot 3 = false ∧ (resumes.task 3).state = .ready
      ∧ resumes.heldBack (resumes.task 3).quay (resumes.task 3).effPrio (resumes.task 3).since (resumes.task 3).kind.launch = false)
    ∧ (remoteState.work.jobs = [] ∧ isOk (remoteState.readLaunch (remoteState.hmActor 0 none) 0x10A00) = true
      ∧ (launchOf (okOr 0 (remoteState.readLaunch (remoteState.hmActor 0 none) 0x10A00))).any (fun r => remoteState.roomFor r 0 && remoteState.countersFit (remoteState.remoteGroups remoteOne r)) = true
      ∧ remoteState.ctxAt 0 0 = some 0 ∧ (launchOf (okOr 0 (remoteState.readLaunch (remoteState.hmActor 0 none) 0x10A00))).any (fun r => !remoteState.heldBack 0 r.prio 4 none) = true
      ∧ remoteState.work.placing.find? (fun y => decide (y.1 = remoteOne)) = some (remoteOne, 4) ∧ ∀ z ∈ remoteState.work.launches, z.2.origin ≠ some (5, 2))
    ∧ (2 ≤ (reported.launch 1).remote ∧ reported.work.jobs = []) := by
  refine ⟨?_, ?_, ?_⟩ <;> decide +kernel
/-- The hart waits in its lease step. -/
def leasing : State := (governed.modQy 0 (fun y => { y with leaseq := [0] })).modAg 0 (fun a => { a with strip := { a.strip with lpend := true, quads := 0 } })
/-- Another task of the same priority waits for Quay 0. -/
def rivaled : State := { governed with work := { governed.work with tasks := governed.work.tasks ++ [(3, { kind := .queued 5 0 {}, state := .ready })] } }
/-- A hart in a strip whose pre-emption is overdue. -/
def overdue : State := (strip 0x02 4).modAg 0 (fun a => { a with strip := { a.strip with ppend := true } })
/-- A host interrupt is pending and enabled. -/
def interrupted : State := governed.modAg 0 (fun a => { a with trap := { a.trap with irq := true, ien := 2, tvec := 0x10400 } })
/-- The hart has stopped at a fatal trap; its launch has two harts running. -/
def fatalRecord : TrapRecord := governed.record governed.issue { cause := 0x29 } 4
def fallen : State := { governed.modAg 0 (fun a => { a with status := .fatal fatalRecord }) with
  work := { governed.work with launches := [(0, { live := true, running := 2 })] } }
theorem witness_SchedulerResults_agents : ((leasing.leaseWaits 0).contains 0 = true ∧ leasing.leaseAhead 0 = false ∧ (leasing.ag 0).task.qmin ≤ (leasing.freeQuads 0).length)
    ∧ ((rivaled.task 0).state = .running 0 ∧ rivaled.waitsFor 0 (rivaled.task 0).effPrio (rivaled.task 0).kind.launch = true)
    ∧ ((overdue.ag 0).strip.ppend = true ∧ (overdue.ag 0).inStrip = true ∧ (overdue.ag 0).strip.noabort = false ∧ (overdue.ag 0).status = .run ∧ (overdue.ag 0).regs.pfx = [] ∧ overdue.copiesDone 0 = true
      ∧ (overdue.ag 0).mem.queue = [] ∧ (overdue.ag 0).mem.wc = [])
    ∧ ((interrupted.ag 0).running = true ∧ (interrupted.ag 0).atBoundary = true ∧ interrupted.intDue 0 = true ∧ interrupted.preDue 0 = false)
    ∧ ((fallen.ag 0).status = .fatal fatalRecord ∧ (fallen.ag 0).marks.phase = 0 ∧ (fallen.part 0).freeDump = none ∧ fallen.copiesDone 0 = true
      ∧ (Assoc.find? (fallen.ag 0).tkey fallen.work.tasks).isSome = true ∧ (fallen.task 0).kind = .hart 0 [] ∧ 2 ≤ (fallen.launch 0).running ∧ fallen.work.jobs = []) := by
  refine ⟨?_, ?_, ?_, ?_, ?_⟩ <;> decide +kernel


/-! ### The events of the engines -/

/-- A copy of two rows of eight bytes from 0x10800 to 0x10900, with more of its fields. -/
def twoRows (f : Copy → Copy) : Copy := f ⟨.bcpy, 0, 1, 0, 2, [], 0x10800, 0x10900, 8, 8, 8, 0, 0, [], [], none, none, none, none⟩
/-- Berth 3 holds a copy. -/
def copying (c : Copy) : State := governed.modQy 0 (fun q => { q with berths := q.berths.set 3 { q.berths[3] with owner := some 0, expect := 2, copies := [c] } })
/-- Two 32-bit elements gathered to physical register 50. -/
def toReg : Copy := twoRows (fun c => { c with kind := .gthv false, rows := [0, 4], sstr := 1, bytes := 4, width := 32, vlen := 1024, phys := [50] })
/-- A copy task of three rows. -/
def taskCopy : Copy := twoRows (fun c => { c with agent := 100003, count := 3 })
def taskCopying : State := governed.modQy 0 (fun q => { q with tcopies := [(2, taskCopy)] })
/-- What a row asks of the engine of Quay 0. -/
def rowMoves (s : State) (c : Copy) (row : Nat) : Prop :=
  row < c.count ∧ row ∉ c.landed ∧ c.stall = none ∧ c.ats = none ∧ (s.qy 0).freeze = false ∧ (s.qy 0).salvage = false ∧ s.firstFail 0 c row = none
  ∧ s.mustFollow 0 c row = false ∧ isOk (s.rowCheck 0 c row) = true ∧ s.rowHeld 0 (okOr ([], []) (s.rowCheck 0 c row)) = false ∧ (s.tile 0).watched = []
  ∧ ∀ p ∈ spread (okOr ([], []) (s.rowCheck 0 c row)).2, p.space = .fabric → devAt p.addr = none
/-- A transfer of TFEED waits for version 7, and an asynchronous force of it. -/
def fed : State := pending.setTile 0 { pending.tile 0 with feeds := [⟨0, 1, 7, 1, [5, 6]⟩], asyncs := [⟨8, 1, 7, 3, none, none⟩] }
/-- A comparator of partition 0 has matched a write. -/
def aHit : CompHit := ⟨0, 0x1080, 2, 1, 0, 3, 0, 0, 0x42, 9⟩
def matched : State := governed.modDie 0 (fun d => { d with comp := d.comp.set 2 { part := some 0, line := some 0x42 }, hits := [aHit] })
/-- The hart's register 5 was written ephemeral. -/
def fleeting : State := governed.modAg 0 (fun a => { a with vec := { a.vec with eph := [32 * 5 + 2] } })
theorem witness_EngineResults_copies : (copying (twoRows id)).quays.all (fun e => Quay.wf e.2) = true ∧ (copying (twoRows id)).MemoryOk ∧ (copying toReg).MemoryOk ∧ taskCopying.MemoryOk
    ∧ (((copying (twoRows id)).berth 0 3).copies = [twoRows id] ∧ ∀ o ∈ [0, 1], rowMoves (copying (twoRows id)) (twoRows id) o ∧ ((twoRows id).dstOf o).isSome = true)
    ∧ (((copying toReg).berth 0 3).copies = [toReg] ∧ (∀ o ∈ [0, 1], rowMoves (copying toReg) toReg o) ∧ toReg.dstOf 1 = none ∧ ((copying toReg).ag 0).status ≠ .absent
      ∧ ((copying toReg).ag 0).vec.expired = [])
    ∧ (Assoc.find? 2 (taskCopying.qy 0).tcopies = some taskCopy ∧ rowMoves taskCopying taskCopy 0 ∧ taskCopy.landed.length + 1 < taskCopy.count ∧ (taskCopy.dstOf 0).isSome = true) := by
  unfold rowMoves
  refine ⟨by decide +kernel, memoryOk_of _ (by decide +kernel), memoryOk_of _ (by decide +kernel), memoryOk_of _ (by decide +kernel), ?_, ?_, ?_⟩ <;> decide +kernel
theorem witness_EngineResults : (fed.NoErrors ∧ (fed.tile 0).feeds = [⟨0, 1, 7, 1, [5, 6]⟩] ∧ (Assoc.find? 7 (fed.tile 0).versions).isSome = true
      ∧ (fed.tile 0).asyncs = [⟨8, 1, 7, 3, none, none⟩])
    ∧ ((matched.die 0).hits = [aHit] ∧ aHit.kind < 2 ^ 8 ∧ aHit.slot < 2 ^ 8 ∧ aHit.bytes < 2 ^ 16 ∧ aHit.mod < 2 ^ 16 ∧ aHit.quay < 2 ^ 16)
    ∧ ((fleeting.ag 0).vec.eph.contains (32 * 5 + 2) = true ∧ (5, 2) ∉ (fleeting.ag 0).vec.expired) := by
  refine ⟨⟨noErrors_of _ (by decide +kernel), ?_⟩, ?_, ?_⟩ <;> decide +kernel


/-! ### The events of stores, futures, barriers and trap records -/

/-- A barrier group of two tasks: both have arrived, or one; on this module only, or with one participant on another, which has arrived. -/
def barred (second away : Nat) : State := { governed.modPart 0 (fun p => { p with peers := [(5, [])] }) with
  work := { governed.work with
    launches := [(0, { live := true })]
    groups := [{ launch := 0, level := 1, key := [], arrivals := [(0, 1), (3, second)], timeout := 1000, remote := away, away := away }] } }
/-- Task 3 is parked on the future at 0x10800, whose wake-up is on its way. -/
def waking : State :=
  let s := future 1
  ({ s with work := { s.work with tasks := s.work.tasks ++ [(3, ({ state := .parked 0x10800, futPa := 0x10800, get := true, dest := 4, saved := some { status := .run } } : Task))] } } : State).modDie
    (s.homeKey 0x10800) (fun d => { d with waits := [(0x10800, 3)], wakes := [⟨0x10800, 1, 0x77⟩] })
/-- The hart has a committed store, a load out, a line of the write-combining buffer. -/
def stored : State := governed.modAg 0 (fun a => { a with
  mem := { a.mem with queue := [⟨0, none, false, [(⟨.fabric, 0x10800⟩, 7), (⟨.fabric, 0x10801⟩, 8)], false⟩], loadsOut := 1, wc := [⟨0, 0x200, false, [(0x8000, 1), (0x8001, 2)]⟩] } })
/-- A committed store to a host line. -/
def storedHost : State := governed.modAg 0 (fun a => { a with mem := { a.mem with queue := [⟨0, none, false, [(⟨.host, 0x8000⟩, 7), (⟨.host, 0x8001⟩, 8)], false⟩] } })
/-- Records are held: of some flags, causes and agents. -/
def heldBack (l : List (Nat × Nat × Nat)) : State :=
  governed.modPart 0 (fun p => { p with held := l.map (fun f => { fatalRecord with flags := f.1, cause := f.2.1, srcix := f.2.2 }) })
/-- The hart waits for its record to be posted. -/
def unposting : State := governed.modAg 0 (fun a => { a with status := .unposted { fatalRecord with cause := 9, flags := 2 } })
theorem witness_EventResults_stores : stored.MemoryOk ∧ storedHost.MemoryOk ∧ (∀ p ∈ (stored.ag 0).mem.queue, ∀ y ∈ p.bytes, y.1.Plain)
    ∧ mayPerform (stored.ag 0).mem.queue 0 = true ∧ mayPerform (storedHost.ag 0).mem.queue 0 = true ∧ (storedHost.ag 0).mem.wc = []
    ∧ (∀ p ∈ (storedHost.ag 0).mem.queue, p.bytes ≠ [] ∧ (∀ y ∈ p.bytes, y.1.space = .host ∧ y.1.addr / 64 = 0x200)
      ∧ ((p.bytes.map (fun y => (y.1.addr, y.2))).foldl (fun (m : Assoc Byte) b => Assoc.set b.1 b.2 m) []).length ≠ 64)
    ∧ (stored.ag 0).mem.wc.getLast? = some ⟨0, 0x200, false, [(0x8000, 1), (0x8001, 2)]⟩ := by
  refine ⟨memoryOk_of _ (by decide +kernel), memoryOk_of _ (by decide +kernel), by unfold Place.Plain; decide +kernel, ?_, ?_, ?_, ?_, ?_⟩ <;> decide +kernel
theorem witness_EventResults : (∀ w ∈ [0, 1], ∀ y ∈ (barred 1 w).work.groups, y.die < 8 ∧ y.fresh = false ∧ (∀ a ∈ y.arrivals, y.phase < a.2 ∨ a.1 ∈ y.gone) ∧ y.remote ≤ y.away + y.lost
      ∧ y.remote = w ∧ ((barred 1 w).part ((barred 1 w).launch y.launch).part).peers ≠ [])
    ∧ (∀ y ∈ (barred 0 0).work.groups, y.die < 8 ∧ y.posted = false ∧ y.timeout ≠ 0 ∧ y.fresh = false ∧ y.complete = false ∧ y.stopped = 0
      ∧ ∀ a ∈ y.arrivals, (barred 0 0).taskHalted a.1 = false)
    ∧ (let h := waking.homeKey 0x10800
      (waking.die h).wakes.find? (fun v => decide (v.addr = 0x10800)) = some ⟨0x10800, 1, 0x77⟩ ∧ (waking.die h).waits = [(0x10800, 3)] ∧ (∀ p ∈ waking.fw.parts, p.2.moored = []) ∧ (waking.task 3).state = .parked 0x10800
      ∧ (waking.task 3).saved.isSome = true)
    ∧ (∀ c ∈ [0x29, 0x32], ∀ f ∈ [4, 2], let P := (heldBack [(f, c, 0)]).part 0
      P.held.length = 1 ∧ (∀ y ∈ P.held, y.cause = c ∧ (y.flags.testBit 2 = true ∧ 1 ≤ P.slotsFree ∨ 3 ≤ P.slotsFree ∧ ∀ z ∈ P.held, z.flags.testBit 2 = false)))
    ∧ (let P := (heldBack [(2, 9, 1), (4, 0x29, 0)]).part 0
      P.held.length = 2 ∧ 1 ≤ P.slotsFree ∧ (∀ z ∈ P.held.take 1, z.flags.testBit 2 = false ∧ ∀ a ∈ P.held.drop 1, z.sameSource a = false ∧ a.flags.testBit 2 = true ∧ a.cause ≠ 0x32))
    ∧ ((unposting.part 0).held = [] ∧ 3 ≤ (unposting.part 0).slotsFree ∧ (unposting.ag 0).part = 0 ∧ (unposting.ag 0).status = .unposted { fatalRecord with cause := 9, flags := 2 }
      ∧ unposting.agents.length = 1) := by
  refine ⟨?_, ?_, ?_, ?_, ?_, ?_⟩ <;> decide +kernel

/-! ### The events of the links -/

/-- The hart waits for a host translation of 0x5004. -/
def translating : State := governed.modAg 0 (fun a => { a with status := .ats 0x5004 })
/-- A strip that has buffered a host store at 0x5004. -/
def hostStrip : State := (strip 0x02 4).modAg 0 (fun a => { a with strip := { a.strip with buf := [⟨2 ^ 64 + 0x5004, ⟨.host, 0x9004⟩, 7, none, false, false⟩] } })
/-- An invalidation of port 0 is under way. -/
def invalidating : State := { governed with link := { governed.link with invalidating := [(0, 0, 0x5000, 0x1000)] } }
/-- The hart waits for the answer to page requests. -/
def paging : State := { (governed.modAg 0 (fun a => { a with status := .pri 2 1 })) with link := { governed.link with groups := [(2, ⟨0, 0, true, [5], 0, 0⟩)] } }
/-- The hart waits for a host atomic. -/
def atomicOut (op : HostOp) : State := governed.modAg 0 (fun a => { a with status := .atomic ⟨op, 8, 0x5000, 0x9000, 4, 6, 1⟩ })
/-- A flit of a message from module 5 to module 0, with a sequence number. -/
def flitOf (x : LinkMsg) (seq : Nat) : List Byte := x.flit 0 5 seq 0xFFFF
/-- The messages that a clause of the flits speaks of, with operands at which it holds. -/
def linkMessages : List LinkMsg :=
  [.other, .pause true, .replay, .store 0 0 0 0x10800 [1, 2], .amo 7 0 0 0 0 0x10800 8 5 0, .response 7 9, .wait 7 0 0 0 3 0x10800 0 0 false,
    .wait 7 0 0 0 3 0x10800 0 0 true, .fset 7 0 0 0 0x10800 0x77 1, .wake (5 * 2 ^ 44) 1 0x77, .halt 5 2 1 [] true, .ended 1 0 0 false]
/-- The hart waits for the answer of another module to its request 7. -/
def remoteAsk : State := governed.modAg 0 (fun a => { a with status := .remote 7 0 (.amo 7 0 0 0 0 (5 * 2 ^ 44) 8 5 0) })
/-- A barrier group of module 5's launch 2. -/
def haltNamed : State := { governed with work := { governed.work with
  launches := [(0, { live := true, origin := some (5, 2) })], groups := [{ launch := 0, level := 1, key := [], arrivals := [(0, 1)] }] } }
/-- Launch 1 has two instances on other modules. -/
def reports : State := { governed with work := { governed.work with launches := [(1, { live := true, remote := 2 })] } }
theorem witness_LinkResults_host : (translating.ag 0).status = .ats 0x5004 ∧ (∀ e ∈ governed.agents, e.2.strip.buf = []) ∧ (∀ e ∈ governed.work.tasks, e.2.saved = none)
    ∧ (hostStrip.agents = [(0, hostStrip.ag 0)] ∧ (∃ b ∈ (hostStrip.ag 0).strip.buf, b.va / 2 ^ 64 = 1 ∧ 0x5000 ≤ b.va % 2 ^ 64 ∧ b.va % 2 ^ 64 < 0x5000 + 0x1000)
      ∧ (hostStrip.ag 0).strip.noabort = false ∧ (hostStrip.ag 0).status = .run ∧ portOf (hostStrip.ctx (hostStrip.ag 0).ctx).func = 0 ∧ (∀ e ∈ hostStrip.work.tasks, e.2.saved = none))
    ∧ (invalidating.link.invalidating.find? (fun i => decide (i.1 = 0)) = some (0, 0, 0x5000, 0x1000)
      ∧ ∀ e ∈ invalidating.agents, e.2.strip.buf = [] ∧ e.2.marks.plan = [] ∧ e.2.mem.queue = [] ∧ e.2.mem.wc = [])
    ∧ (Assoc.find? 2 paging.link.groups = some ⟨0, 0, true, [5], 0, 0⟩ ∧ paging.work.jobs = [] ∧ (paging.ag 0).status = .pri 2 1)
    ∧ (∀ op ∈ [HostOp.fetchAdd, .swap, .cas], ((atomicOut op).ag 0).status = .atomic ⟨op, 8, 0x5000, 0x9000, 4, 6, 1⟩) := by
  refine ⟨?_, ?_, ?_, ?_, ?_, ?_, ?_⟩ <;> decide +kernel
theorem witness_LinkResults_memory : ∀ op ∈ [HostOp.fetchAdd, .swap, .cas], (atomicOut op).MemoryOk := fun op h => memoryOk_of _ (by revert op; decide +kernel)
theorem witness_LinkResults : (∀ k ∈ [0, 1, 0xFFFF], flitOk (flitOf .other k) = true) ∧ flitOk (List.replicate 256 0) = false
    ∧ (let ahead (k : Nat) : Nat := (flitField (flitOf .other k) 252 2 + 2 ^ 16 - (Assoc.get {} 3 governed.link.jetty).expect) % 2 ^ 16
      ahead 0 = 0 ∧ 0 < ahead 1 ∧ ahead 1 < 2 ^ 15 ∧ 2 ^ 15 ≤ ahead 0xFFFF)
    ∧ (∀ x ∈ linkMessages, x.fits = true ∧ flitOk (flitOf x 0) = true ∧ flitSays (flitOf x 0) x = true ∧ flitEnds (flitOf x 0) = (governed.modid, 5))
    ∧ flitSays (flitOf .other 0) .replay = false
    ∧ (0x10800 / 2 ^ 44 = governed.modid ∧ devAt 0x10800 = none ∧ (∀ i < 16, devAt (0x10800 + i) = none) ∧ futSt (governed.futWord ⟨.fabric, 0x10800⟩) = 0
      ∧ setCode (governed.futWord ⟨.fabric, 0x10800⟩) = 0 ∧ (governed.die (governed.homeKey 0x10800)).waits.length < 4096 ∧ AtomOp.add.number true = 0
      ∧ futSt ((future 1).futWord ⟨.fabric, 0x10800⟩) ≠ 0 ∧ setCode ((future 1).futWord ⟨.fabric, 0x10800⟩) ≠ 0 ∧ 5 * 2 ^ 44 / 2 ^ 44 ≠ governed.modid ∧ devAt (5 * 2 ^ 44) = none)
    ∧ (remoteAsk.asker 7 = some (0, 0, .amo 7 0 0 0 0 (5 * 2 ^ 44) 8 5 0) ∧ haltNamed.namedGroup 5 2 1 [] = some 0 ∧ haltNamed.work.groups[0]?.isSome = true)
    ∧ (2 ≤ (reports.launch 1).remote ∧ reports.work.jobs = []) := by
  refine ⟨?_, ?_, ?_, ?_, ?_, ?_, ?_, ?_⟩ <;> decide +kernel
theorem witness_LinkResults_module : (∃ x, governed.ag 0 = x ∧ x.status = .run ∧ (0 : Nat) % 16 ≠ 9)
    ∧ ((stored.ag 0).status = .run ∧ (stored.ag 0).mem.queue ≠ [] ∧ (((stored.modAg 0 (fun a => { a with mem := { a.mem with wc := [] } })).ag 0).mem.wc = []))
    ∧ (((copying (twoRows id)).berth 0 3).copies = [twoRows id] ∧ (twoRows id).meets 0x10804 = true ∧ ∀ m < 3, ((copying (twoRows id)).berth 0 (Fin.ofNat 16 m)).copies = [])
    ∧ (∀ e ∈ State.reset.agents, e.2.status = .absent) ∧ 100 < State.reset.clock := by
  refine ⟨⟨_, rfl, ?_⟩, ?_, ?_, ?_⟩ <;> decide +kernel
end Sys2Proof.Tests
end

section
/-! The control register instructions (R10, R62, R63, R339): what reading a control register depends on, what a write of one changes,
and how the instructions run. The statement O39 is settled at the end. -/

namespace Sys2Proof.Machine

/-! ### What reading a control register depends on (R62, R63) -/

@[simp] theorem modAg_cycleOf (s : State) (g : Nat) (f : Agent → Agent) (j : Nat) : (s.modAg g f).cycleOf j = s.cycleOf j := rfl

/-- The HOST bit of ipend is the agent's own; its timer bit stands while the trap registers keep tmcmp. -/
theorem modAg_ipend_same {s : State} {g : Nat} {f : Agent → Agent} (h : (f (s.ag g)).trap.tmcmp = (s.ag g).trap.tmcmp)
    (hi : (f (s.ag g)).trap.irq = (s.ag g).trap.irq) : (s.modAg g f).ipend g = s.ipend g := by
  simp [State.ipend, h, hi]

@[simp] theorem csr_rsvacc (s : State) (g : Nat) : s.csr g 0x720 = s.rsvacc := by simp [State.csr]

theorem countRsv_csr (s : State) (g : Nat) {m : Nat} (h : m ≠ 0x720) : s.countRsv.csr g m = s.csr g m := by
  simp only [State.csr, if_neg h]
  rfl

/-- The beginning of an instruction changes no control register. -/
theorem begin_csr (s : State) (m : Nat) : (s.begin_ s.issue).csr s.cur m = s.csr s.cur m := by
  have hi : (s.begin_ s.issue).ipend s.cur = s.ipend s.cur := modAg_ipend_same rfl rfl
  simp only [State.csr, hi]
  simp only [State.begin_, issue_g, modAg_ag_self, modAg_qy, modAg_part, modAg_modid, modAg_cycleOf, modAg_rsvacc]
  rfl

/-- Writing a scalar register and retiring change no control register but instret and tctl, whose WSUP is used up (R350). -/
theorem retired_csr (s : State) (g : Nat) (d : Fin 32) (v pc : Word) (c : Bool) {m : Nat} (h : m ≠ 0x011) (h' : m ≠ 0x708) :
    (s.modAg g (fun a => (a.ws d v).retired pc c)).csr g m = s.csr g m := by
  have hi : (s.modAg g (fun a => (a.ws d v).retired pc c)).ipend g = s.ipend g :=
    modAg_ipend_same (by simp [Agent.retired]) (by simp [Agent.retired])
  simp only [State.csr, if_neg h, if_neg h', hi]
  simp only [modAg_ag_self, modAg_qy, modAg_part, modAg_modid, modAg_cycleOf, modAg_rsvacc,
    Agent.retired, ws_trap, ws_strip, ws_fp, ws_task, ws_part]

/-! ### What a write of a control register does (R10, R63) -/

/-- What a write of a control register leaves of its agent: everything but the trap, strip, number-format and task registers. -/
structure Agent.Beside (a b : Agent) : Prop where
  status : b.status = a.status
  regs : b.regs = a.regs
  inStrip : b.inStrip = a.inStrip
  vec : b.vec = a.vec
  mem : b.mem = a.mem

/-- Control register `n` of an agent now reads `new`, and every other one but ipend, which follows tmcmp, reads as before. -/
structure State.CsrOnly (s t : State) (g n : Nat) (new : Word) : Prop where
  holds : t.csr g n = new
  kept : ∀ m, m ≠ n → m ≠ 0x027 → t.csr g m = s.csr g m

/-- A write of control register `n` by agent `g`, which `count` reserved accesses have been counted for. The counter is the register
0x720, so its own reading is said by `counts`. -/
structure State.CsrPut (s t : State) (g n : Nat) (new count : Word) : Prop where
  others : ∀ j, j ≠ g → t.ag j = s.ag j
  bytes : ∀ p, t.byte p = s.byte p
  agent : (s.ag g).Beside (t.ag g)
  holds : t.csr g n = new
  kept : ∀ m, m ≠ n → m ∉ [0x027, 0x720] → t.csr g m = s.csr g m
  counts : t.rsvacc = s.rsvacc + count

theorem Agent.Beside.refl (a : Agent) : a.Beside a := ⟨rfl, rfl, rfl, rfl, rfl⟩

/-- A write that only changes registers of its agent. -/
theorem csrPut_agent {s : State} {g n : Nat} {new : Word} (f : Agent → Agent) (hf : ∀ a : Agent, a.Beside (f a))
    (h : s.CsrOnly (s.modAg g f) g n new) : s.CsrPut (s.modAg g f) g n new 0 where
  others j hj := modAg_ag_ne s g f hj
  bytes _ := rfl
  agent := by simpa using hf _
  holds := h.holds
  kept m hm h' := h.kept m hm (by simp_all)
  counts := by simp

/-- A change of a Quay beside its Wharf leaves every byte. -/
theorem modQy_byte (s : State) (q : Nat) {f : Quay → Quay} (hf : ∀ y : Quay, (f y).wharf = y.wharf ∧ (f y).epoch = y.epoch) (p : Place) :
    (s.modQy q f).byte p = s.byte p := by
  obtain ⟨sp, a⟩ := p
  cases sp with
  | fabric => rfl
  | host => rfl
  | wharf r =>
    by_cases h : r = q
    · subst h
      simp [State.byte, Quay.blank, hf]
    · simp [State.byte, modQy_qy_ne s _ f h]

/-- A write that only changes registers of its agent's Quay. -/
theorem csrPut_quay {s : State} {g n : Nat} {new : Word} (f : Quay → Quay)
    (hf : ∀ y : Quay, (f y).wharf = y.wharf ∧ (f y).epoch = y.epoch) (h : s.CsrOnly (s.modQy (quayOf g) f) g n new) :
    s.CsrPut (s.modQy (quayOf g) f) g n new 0 where
  others _ _ := rfl
  bytes := modQy_byte s _ hf
  agent := .refl _
  holds := h.holds
  kept m hm h' := h.kept m hm (by simp_all)
  counts := by simp

/-- One register of a row of numbers, from `base` to `top`, is written. -/
theorem csrOnly_row {s t : State} {g base top k : Nat} {new : Word} (hk : base + k ≤ top)
    (hin : ∀ j, base + j ≤ top → t.csr g (base + j) = if j = k then new else s.csr g (base + j))
    (hout : ∀ m, ¬ (base ≤ m ∧ m ≤ top) → m ≠ 0x027 → t.csr g m = s.csr g m) : s.CsrOnly t g (base + k) new where
  holds := by simp [hin k hk]
  kept m hm h' := by
    by_cases hr : base ≤ m ∧ m ≤ top
    · obtain ⟨j, rfl⟩ := Nat.exists_eq_add_of_le hr.1
      rw [hin j hr.2, if_neg (fun e => hm (by rw [e]))]
    · exact hout m hr h'

/-! ### Fields that hold a part of a word -/

/-- A field of `k` bits holds a word that fits it. -/
theorem ofNat_setWidth_toNat {v : Word} {k : Nat} (h : v.toNat < 2 ^ k) : BitVec.ofNat 64 (v.setWidth k).toNat = v := by
  apply BitVec.eq_of_toNat_eq
  simp [Nat.mod_eq_of_lt h]

/-- A flag holds a word that is 0 or 1. -/
theorem ofNat_getLsbD_zero {v : Word} (h : v.toNat ≤ 1) : BitVec.ofNat 64 (if v.getLsbD 0 then 2 ^ 0 else 0) = v := by
  have : v = 0 ∨ v = 1 := by bv_omega
  rcases this with rfl | rfl <;> rfl

/-- An entry of a vector after one has been replaced. -/
theorem setIx_getD {α : Type} {n : Nat} (v : Vector α n) {k : Nat} (hk : k < n) (j : Nat) (x d : α) :
    (setIx v k x).toList.getD j d = if j = k then x else v.toList.getD j d := by
  rw [setIx, dif_pos hk, Vector.toList_set, List.getD_eq_getElem?_getD, List.getD_eq_getElem?_getD, List.getElem?_set]
  by_cases h : j = k
  · subst h; simp [hk]
  · simp [h, Ne.symm h]

/-- What the new entry shares with the old is shared by every entry. -/
theorem setIx_getD_proj {α β : Type} {n : Nat} (p : α → β) (v : Vector α n) {k : Nat} (hk : k < n) {x d : α} (h : p x = p (v.toList.getD k d))
    (j : Nat) : p ((setIx v k x).toList.getD j d) = p (v.toList.getD j d) := by
  rw [setIx_getD v hk]
  split
  · next e => rw [e, h]
  · rfl

/-- A berth's owner is not changed by a write of its registers. -/
theorem ownedBits_setIx (y : Quay) {k : Nat} (hk : k < 16) {b : Berth} (h : b.owner = (y.berths.toList.getD k {}).owner) (f : Nat → Bool) :
    ({ y with berths := setIx y.berths k b } : Quay).ownedBits f = y.ownedBits f := by
  simp only [Quay.ownedBits, setIx_getD_proj Berth.owner y.berths hk h]

/-! ### How a register in a row of numbers reads -/

theorem csr_bcfg (s : State) (g : Nat) {k : Nat} (hk : 0x300 + k ≤ 0x30F) :
    s.csr g (0x300 + k) = ((s.qy (quayOf g)).berths.toList.getD k {}).bcfg := by
  simp (disch := omega) only [State.csr, if_neg, if_pos, Nat.add_sub_cancel_left]

theorem csr_bstr (s : State) (g : Nat) {k : Nat} (hk : 0x310 + k ≤ 0x31F) :
    s.csr g (0x310 + k) = ((s.qy (quayOf g)).berths.toList.getD k {}).bstr := by
  simp (disch := omega) only [State.csr, if_neg, if_pos, Nat.add_sub_cancel_left]

theorem csr_tshp (s : State) (g : Nat) {k : Nat} (hk : 0x410 + k ≤ 0x417) :
    s.csr g (0x410 + k) = BitVec.ofNat 64 ((s.qy (quayOf g)).tile.tshp.toList.getD k 0).toNat := by
  simp (disch := omega) only [State.csr, if_neg, if_pos, Nat.add_sub_cancel_left]

theorem csr_gspill (s : State) (g : Nat) {k : Nat} (hk : 0x510 + k ≤ 0x51F) :
    s.csr g (0x510 + k) = (s.qy (quayOf g)).walk.gspill.toList.getD k 0 := by
  simp (disch := omega) only [State.csr, if_neg, if_pos, Nat.add_sub_cancel_left]

theorem csr_wpa (s : State) (g : Nat) {k : Nat} (hk : 0x700 + k ≤ 0x703) : s.csr g (0x700 + k) = (s.ag g).trap.wpa.toList.getD k 0 := by
  simp (disch := omega) only [State.csr, if_neg, if_pos, Nat.add_sub_cancel_left]

theorem csr_wpm (s : State) (g : Nat) {k : Nat} (hk : 0x704 + k ≤ 0x707) : s.csr g (0x704 + k) = (s.ag g).trap.wpm.toList.getD k 0 := by
  simp (disch := omega) only [State.csr, if_neg, if_pos, Nat.add_sub_cancel_left]

/-! ### Setting a register -/

/-- `csrSet` sets register `n` to `v`. -/
def State.CsrSets (s : State) (is : Issue) (n : Nat) (v : Word) : Prop :=
  ∃ t, csrSet is n v s = .ok ((), t) ∧ s.CsrPut t is.g n v 0

/-- The plain registers of an agent that stand alone: those of fewer than 64 bits first. -/
def agentCsrs : List Nat := [0x026, 0x104, 0x107, 0x201, 0x020, 0x021, 0x022, 0x023, 0x028, 0x202, 0x203, 0x204, 0x603]
/-- The plain registers of a Quay that stand alone. -/
def quayCsrs : List Nat := [0x401, 0x402, 0x500, 0x323]

/-- Each changes one field of its agent: ien, vlcap, ephm and fflags are narrower than a word, the others are words. -/
theorem csrSets_agent (s : State) (is : Issue) {n : Nat} {v : Word} (hn : n ∈ agentCsrs) (hv : v.toNat ≤ csrMask n) : s.CsrSets is n v := by
  simp only [agentCsrs, List.mem_cons, List.not_mem_nil, or_false] at hn
  rcases hn with rfl | rfl | rfl | rfl | rfl | rfl | rfl | rfl | rfl | rfl | rfl | rfl | rfl
  all_goals
    refine ⟨_, rfl, csrPut_agent _ (fun a => ⟨rfl, rfl, rfl, rfl, rfl⟩) ⟨?_, fun m h h' => ?_⟩⟩
    rotate_left
    · simp only [State.csr, if_neg h, if_neg h']
      simp only [modAg_ag_self, modAg_qy, modAg_part, modAg_modid, modAg_cycleOf, modAg_rsvacc]
      rfl
    simp only [State.csr, modAg_ag_self]
  · exact ofNat_setWidth_toNat (Nat.lt_of_le_of_lt hv (by decide))
  · exact ofNat_setWidth_toNat (Nat.lt_of_le_of_lt hv (by decide))
  · exact ofNat_setWidth_toNat (Nat.lt_of_le_of_lt hv (by decide))
  · exact ofNat_setWidth_toNat (Nat.lt_of_le_of_lt hv (by decide))
  all_goals rfl

/-- Each changes one field of its agent's Quay: tpol is a flag, tflags and gtrap are narrower than a word, wbconf is a word. -/
theorem csrSets_quay (s : State) (is : Issue) {n : Nat} {v : Word} (hn : n ∈ quayCsrs) (hv : v.toNat ≤ csrMask n) : s.CsrSets is n v := by
  simp only [quayCsrs, List.mem_cons, List.not_mem_nil, or_false] at hn
  rcases hn with rfl | rfl | rfl | rfl
  all_goals
    refine ⟨_, rfl, csrPut_quay _ (fun y => ⟨rfl, rfl⟩) ⟨?_, fun m h h' => ?_⟩⟩
    rotate_left
    · simp only [State.csr, if_neg h, if_neg h', modQy_qy_self]
      rfl
    simp only [State.csr, modQy_qy_self]
  · exact ofNat_getLsbD_zero hv
  · exact ofNat_setWidth_toNat (Nat.lt_of_le_of_lt hv (by decide))
  · exact ofNat_setWidth_toNat (Nat.lt_of_le_of_lt hv (by decide))
  · rfl

theorem csrSets_bcfg (s : State) (is : Issue) {k : Nat} (v : Word) (hk : 0x300 + k ≤ 0x30F) : s.CsrSets is (0x300 + k) v := by
  have hk' : k < 16 := by omega
  refine ⟨s.modQy (quayOf is.g) (fun y => { y with berths := setIx y.berths k { y.berths.toList.getD k {} with bcfg := v } }), ?_,
    csrPut_quay _ (fun y => ⟨rfl, rfl⟩) (csrOnly_row hk (fun j hj => ?_) (fun m hm h' => ?_))⟩
  · simp (disch := omega) only [csrSet, if_neg, if_pos, Nat.add_sub_cancel_left]
    rfl
  · simp only [csr_bcfg _ _ hj, modQy_qy_self, setIx_getD _ hk', apply_ite Berth.bcfg]
  · simp only [State.csr, if_neg hm, if_neg h', modQy_qy_self, ownedBits_setIx _ hk', setIx_getD_proj Berth.bstr _ hk']
    rfl

theorem csrSets_bstr (s : State) (is : Issue) {k : Nat} (v : Word) (hk : 0x310 + k ≤ 0x31F) : s.CsrSets is (0x310 + k) v := by
  have hk' : k < 16 := by omega
  refine ⟨s.modQy (quayOf is.g) (fun y => { y with berths := setIx y.berths k { y.berths.toList.getD k {} with bstr := v } }), ?_,
    csrPut_quay _ (fun y => ⟨rfl, rfl⟩) (csrOnly_row hk (fun j hj => ?_) (fun m hm h' => ?_))⟩
  · simp (disch := omega) only [csrSet, if_neg, if_pos, Nat.add_sub_cancel_left]
    rfl
  · simp only [csr_bstr _ _ hj, modQy_qy_self, setIx_getD _ hk', apply_ite Berth.bstr]
  · simp only [State.csr, if_neg hm, if_neg h', modQy_qy_self, ownedBits_setIx _ hk', setIx_getD_proj Berth.bcfg _ hk']
    rfl

theorem csrSets_tshp (s : State) (is : Issue) {k : Nat} {v : Word} (hk : 0x410 + k ≤ 0x417) (hv : v.toNat < 2 ^ 24) :
    s.CsrSets is (0x410 + k) v := by
  have hk' : k < 8 := by omega
  refine ⟨s.modQy (quayOf is.g) (fun y => { y with tile := { y.tile with tshp := setIx y.tile.tshp k (v.setWidth 24) } }), ?_,
    csrPut_quay _ (fun y => ⟨rfl, rfl⟩) (csrOnly_row hk (fun j hj => ?_) (fun m hm h' => ?_))⟩
  · simp (disch := omega) only [csrSet, if_neg, if_pos, Nat.add_sub_cancel_left]
    rfl
  · simp only [csr_tshp _ _ hj, modQy_qy_self, setIx_getD _ hk', apply_ite BitVec.toNat, apply_ite (BitVec.ofNat 64),
      ofNat_setWidth_toNat hv]
  · simp only [State.csr, if_neg hm, if_neg h', modQy_qy_self]
    rfl

theorem csrSets_gspill (s : State) (is : Issue) {k : Nat} (v : Word) (hk : 0x510 + k ≤ 0x51F) : s.CsrSets is (0x510 + k) v := by
  have hk' : k < 16 := by omega
  refine ⟨s.modQy (quayOf is.g) (fun y => { y with walk := { y.walk with gspill := setIx y.walk.gspill k v } }), ?_,
    csrPut_quay _ (fun y => ⟨rfl, rfl⟩) (csrOnly_row hk (fun j hj => ?_) (fun m hm h' => ?_))⟩
  · simp (disch := omega) only [csrSet, if_neg, if_pos, Nat.add_sub_cancel_left]
    rfl
  · simp only [csr_gspill _ _ hj, modQy_qy_self, setIx_getD _ hk']
  · simp only [State.csr, if_neg hm, if_neg h', modQy_qy_self]
    rfl

theorem csrSets_wpa (s : State) (is : Issue) {k : Nat} (v : Word) (hk : 0x700 + k ≤ 0x703) : s.CsrSets is (0x700 + k) v := by
  have hk' : k < 4 := by omega
  refine ⟨s.modAg is.g (fun a => a.modTrap (fun t => { t with wpa := setIx t.wpa k v })), ?_,
    csrPut_agent _ (fun a => ⟨rfl, rfl, rfl, rfl, rfl⟩) (csrOnly_row hk (fun j hj => ?_) (fun m hm h' => ?_))⟩
  · simp (disch := omega) only [csrSet, if_neg, if_pos, Nat.add_sub_cancel_left]
    rfl
  · simp only [csr_wpa _ _ hj, modAg_ag_self, Agent.modTrap, setIx_getD _ hk']
  · simp only [State.csr, if_neg hm, if_neg h']
    simp only [modAg_ag_self, modAg_qy, modAg_part, modAg_modid, modAg_cycleOf, modAg_rsvacc]
    rfl

theorem csrSets_wpm (s : State) (is : Issue) {k : Nat} (v : Word) (hk : 0x704 + k ≤ 0x707) : s.CsrSets is (0x704 + k) v := by
  have hk' : k < 4 := by omega
  refine ⟨s.modAg is.g (fun a => a.modTrap (fun t => { t with wpm := setIx t.wpm k v })), ?_,
    csrPut_agent _ (fun a => ⟨rfl, rfl, rfl, rfl, rfl⟩) (csrOnly_row hk (fun j hj => ?_) (fun m hm h' => ?_))⟩
  · simp (disch := omega) only [csrSet, if_neg, if_pos, Nat.add_sub_cancel_left]
    rfl
  · simp only [csr_wpm _ _ hj, modAg_ag_self, Agent.modTrap, setIx_getD _ hk']
  · simp only [State.csr, if_neg hm, if_neg h']
    simp only [modAg_ag_self, modAg_qy, modAg_part, modAg_modid, modAg_cycleOf, modAg_rsvacc]
    rfl

/-- frm holds a value below 6; another is ignored and counted (R130). -/
theorem csrSets_frm (s : State) (is : Issue) {v : Word} (hv : v.toNat < 6) : s.CsrSets is 0x200 v := by
  refine ⟨s.modAg is.g (fun a => { a with fp := { a.fp with frm := v.setWidth 3 } }), ?_,
    csrPut_agent _ (fun a => ⟨rfl, rfl, rfl, rfl, rfl⟩) ⟨?_, fun m h h' => ?_⟩⟩
  · show (if 6 ≤ v.toNat then _ else _ : M Unit) s = _
    rw [if_neg (by omega)]
    rfl
  · simp only [State.csr, modAg_ag_self]
    exact ofNat_setWidth_toNat (by omega)
  · simp only [State.csr, if_neg h, if_neg h']
    simp only [modAg_ag_self, modAg_qy, modAg_part, modAg_modid, modAg_cycleOf, modAg_rsvacc]
    rfl

theorem csrSet_frm_reserved (s : State) (is : Issue) {v : Word} (hv : 6 ≤ v.toNat) : csrSet is 0x200 v s = .ok ((), s.countRsv) := by
  show (if 6 ≤ v.toNat then _ else _ : M Unit) s = _
  rw [if_pos hv]
  rfl

/-- A plain register is one of its agent or of its agent's Quay, alone or in a row. -/
theorem csrPlain_cases {n : Nat} (h : csrPlain n = true) : n ∈ agentCsrs ∨ n ∈ quayCsrs ∨ (∃ k, n = 0x300 + k ∧ 0x300 + k ≤ 0x30F)
    ∨ (∃ k, n = 0x310 + k ∧ 0x310 + k ≤ 0x31F) ∨ (∃ k, n = 0x410 + k ∧ 0x410 + k ≤ 0x417) ∨ (∃ k, n = 0x510 + k ∧ 0x510 + k ≤ 0x51F)
    ∨ (∃ k, n = 0x700 + k ∧ 0x700 + k ≤ 0x703) ∨ ∃ k, n = 0x704 + k ∧ 0x704 + k ≤ 0x707 := by
  have row (base top : Nat) : (∃ k, n = base + k ∧ base + k ≤ top) ↔ base ≤ n ∧ n ≤ top := by
    constructor
    · rintro ⟨k, rfl, hk⟩
      exact ⟨Nat.le_add_right _ _, hk⟩
    · rintro ⟨hb, ht⟩
      exact ⟨n - base, by omega, by omega⟩
  simp only [row, agentCsrs, quayCsrs, List.mem_cons, List.not_mem_nil, or_false]
  simp only [csrPlain, decide_eq_true_eq] at h
  omega

theorem csrMask_tshp {k : Nat} (hk : 0x410 + k ≤ 0x417) : csrMask (0x410 + k) = 0xFFFF1F := by
  simp (disch := omega) only [csrMask, if_neg, if_pos]

/-- Every plain register holds the bits that its mask leaves. -/
theorem csrSets_plain (s : State) (is : Issue) {n : Nat} {v : Word} (hn : csrPlain n = true) (hv : v.toNat ≤ csrMask n) :
    s.CsrSets is n v := by
  rcases csrPlain_cases hn with h | h | ⟨k, rfl, hk⟩ | ⟨k, rfl, hk⟩ | ⟨k, rfl, hk⟩ | ⟨k, rfl, hk⟩ | ⟨k, rfl, hk⟩ | ⟨k, rfl, hk⟩
  · exact csrSets_agent s is h hv
  · exact csrSets_quay s is h hv
  · exact csrSets_bcfg s is v hk
  · exact csrSets_bstr s is v hk
  · exact csrSets_tshp s is hk (Nat.lt_of_le_of_lt (csrMask_tshp hk ▸ hv) (by decide))
  · exact csrSets_gspill s is v hk
  · exact csrSets_wpa s is v hk
  · exact csrSets_wpm s is v hk

/-! ### Writing a register: RZ bits, read-only and unassigned ones, ipend (R10, R63, R339) -/

theorem State.CsrPut.refl (s : State) (g n : Nat) : s.CsrPut s g n (s.csr g n) 0 :=
  ⟨fun _ _ => rfl, fun _ => rfl, .refl _, rfl, fun _ _ _ => rfl, by simp⟩

theorem csrPut_countRsv (s : State) (g : Nat) {n : Nat} (hn : n ≠ 0x720) : s.CsrPut s.countRsv g n (s.csr g n) 1 where
  others _ _ := rfl
  bytes _ := rfl
  agent := .refl _
  holds := countRsv_csr s g hn
  kept m _ h := countRsv_csr s g (by simp_all)
  counts := rfl

/-- A write that counts the bits its register does not hold before it takes the others. -/
theorem State.CsrPut.counted {s t : State} {g n : Nat} {new k : Word} {c : Prop} [Decidable c]
    (h : (if c then s else s.countRsv).CsrPut t g n new k) : s.CsrPut t g n new ((if c then 0 else 1) + k) := by
  split at h
  · next hc => simpa [hc] using h
  · next hc =>
    refine ⟨h.others, h.bytes, h.agent, h.holds, fun m hm hm' => ?_, ?_⟩
    · rw [h.kept m hm hm', countRsv_csr s g (by simp_all)]
    · rw [h.counts, countRsv_rsvacc, if_neg hc, BitVec.add_assoc]

/-- `csrWrite` makes register `n` read `new`. -/
def State.CsrWrites (s : State) (is : Issue) (n : Nat) (v new count : Word) : Prop :=
  ∃ t, csrWrite is n v s = .ok ((), t) ∧ s.CsrPut t is.g n new count

theorem csrWrite_unassigned (is : Issue) (s : State) {n : Nat} (v : Word) (h : csrAssigned n = false) :
    csrWrite is n v s = .ok ((), s.countRsv) := by
  simp [csrWrite, h]
  rfl

theorem csrWrite_readOnly (is : Issue) (s : State) {n : Nat} (v : Word) (h : csrAssigned n = true) (hr : csrReadOnly n = true) :
    csrWrite is n v s = .ok ((), s) := by
  have : n ≠ 0x027 := by rintro rfl; simp [csrReadOnly] at hr
  simp [csrWrite, h, hr, this]
  rfl

/-- A register that is written field by field, the Wharf's hash apart. -/
theorem csrWrite_fields (is : Issue) (s : State) {n : Nat} (v : Word) (h : csrAssigned n = true) (hr : csrReadOnly n = false) (hi : n ≠ 0x027)
    (hw : ¬ (0x320 ≤ n ∧ n ≤ 0x322)) : csrWrite is n v s = csrSet is n (v &&& BitVec.ofNat 64 (csrMask n))
      (if v &&& ~~~ (BitVec.ofNat 64 (csrMask n)) = 0 then s else s.countRsv) := by
  have hw' (p : Prop) : ¬ (0x320 ≤ n ∧ n ≤ 0x322 ∧ p) := fun e => hw ⟨e.1, e.2.1⟩
  simp only [csrWrite, h, hr, hi, hw', Bool.not_true, Bool.false_eq_true, if_false]
  by_cases hz : v &&& ~~~ (BitVec.ofNat 64 (csrMask n)) = 0
  · simp only [if_pos hz, if_neg (not_not.mpr hz)]
    rfl
  · simp only [if_neg hz, if_pos hz]
    rfl

theorem csrPlain_spec {n : Nat} (h : csrPlain n = true) :
    csrAssigned n = true ∧ csrReadOnly n = false ∧ n ∉ [0x011, 0x027, 0x708, 0x720] ∧ ¬ (0x320 ≤ n ∧ n ≤ 0x322) := by
  simp only [csrPlain, csrAssigned, csrReadOnly, decide_eq_true_eq, decide_eq_false_iff_not, List.mem_cons, List.not_mem_nil, or_false] at h ⊢
  omega

/-- What is left of a word by a register's mask is within the mask. -/
theorem and_mask_le (v : Word) (n : Nat) : (v &&& BitVec.ofNat 64 (csrMask n)).toNat ≤ csrMask n := by
  rw [BitVec.toNat_and, BitVec.toNat_ofNat]
  exact Nat.le_trans Nat.and_le_right (Nat.mod_le _ _)

theorem csrWrites_plain (s : State) (is : Issue) {n : Nat} (v : Word) (h : csrPlain n = true) :
    s.CsrWrites is n v (v &&& BitVec.ofNat 64 (csrMask n)) (if v &&& ~~~ (BitVec.ofNat 64 (csrMask n)) = 0 then 0 else 1) := by
  obtain ⟨ha, hr, hn, hw⟩ := csrPlain_spec h
  obtain ⟨t, ht, hp⟩ := csrSets_plain (if v &&& ~~~ (BitVec.ofNat 64 (csrMask n)) = 0 then s else s.countRsv) is h (and_mask_le v n)
  refine ⟨t, ?_, ?_⟩
  · rw [csrWrite_fields is s v ha hr (by simp_all) hw, ht]
  · simpa using hp.counted

theorem csrWrites_frm (s : State) (is : Issue) (v : Word) :
    let x := v &&& BitVec.ofNat 64 (csrMask 0x200)
    s.CsrWrites is 0x200 v (if x = 6 ∨ x = 7 then s.csr is.g 0x200 else x)
      ((if v &&& ~~~ (BitVec.ofNat 64 (csrMask 0x200)) = 0 then 0 else 1) + if x = 6 ∨ x = 7 then 1 else 0) := by
  intro x
  have hw : csrWrite is 0x200 v s = csrSet is 0x200 x (if v &&& ~~~ (BitVec.ofNat 64 (csrMask 0x200)) = 0 then s else s.countRsv) :=
    csrWrite_fields is s v rfl rfl (by decide) (by decide)
  have hx : x.toNat ≤ 7 := and_mask_le v 0x200
  by_cases h : x = 6 ∨ x = 7
  · refine ⟨_, hw.trans (csrSet_frm_reserved _ is ?_), State.CsrPut.counted ?_⟩
    · rcases h with h | h <;> simp [h]
    · have : (if v &&& ~~~ (BitVec.ofNat 64 (csrMask 0x200)) = 0 then s else s.countRsv).csr is.g 0x200 = s.csr is.g 0x200 := by
        split
        · rfl
        · exact countRsv_csr s _ (by decide)
      rw [if_pos h, if_pos h, ← this]
      exact csrPut_countRsv _ _ (by decide)
  · have h6 : x.toNat < 6 := by
      have : x.toNat ≠ 6 ∧ x.toNat ≠ 7 := by bv_omega
      omega
    obtain ⟨t, ht, hp⟩ := csrSets_frm (if v &&& ~~~ (BitVec.ofNat 64 (csrMask 0x200)) = 0 then s else s.countRsv) is h6
    refine ⟨t, hw.trans ht, ?_⟩
    rw [if_neg h, if_neg h]
    exact hp.counted

/-- Clearing the HOST bit of ipend leaves the timer bit. -/
theorem csrPut_irq (s : State) (g : Nat) :
    s.CsrPut (s.modAg g (fun a => a.modTrap (fun t => { t with irq := false }))) g 0x027 (s.csr g 0x027 &&& ~~~2) 0 := by
  refine csrPut_agent _ (fun a => ⟨rfl, rfl, rfl, rfl, rfl⟩) ⟨?_, fun m h h' => ?_⟩
  · show BitVec.ofNat 64 (State.ipend _ g) = BitVec.ofNat 64 (s.ipend g) &&& ~~~2
    simp only [State.ipend, modAg_ag_self, modAg_cycleOf, Agent.modTrap]
    split <;> cases (s.ag g).trap.irq <;> rfl
  · simp only [State.csr, if_neg h']
    simp only [modAg_ag_self, modAg_qy, modAg_part, modAg_modid, modAg_cycleOf, modAg_rsvacc]
    rfl

theorem csrWrite_ipend (is : Issue) (s : State) (v : Word) : csrWrite is 0x027 v s =
    (if v.getLsbD 1 then modA is (fun a => a.modTrap (fun t => { t with irq := false })) else pure ())
      (if v.toNat / 4 = 0 then s else s.countRsv) := by
  by_cases hv : v.toNat / 4 = 0
  · simp only [csrWrite, if_pos hv, if_neg (not_not.mpr hv)]
    rfl
  · simp only [csrWrite, if_neg hv, if_pos hv]
    rfl

/-- ipend: its HOST bit is cleared by a one, a non-zero write to its bits [63:2] is counted (R339). -/
theorem csrWrites_ipend (s : State) (is : Issue) (v : Word) :
    s.CsrWrites is 0x027 v (if v.getLsbD 1 then s.csr is.g 0x027 &&& ~~~2 else s.csr is.g 0x027) (if v.toNat / 4 = 0 then 0 else 1) := by
  have hc : (if v.toNat / 4 = 0 then s else s.countRsv).csr is.g 0x027 = s.csr is.g 0x027 := by
    split
    · rfl
    · exact countRsv_csr s _ (by decide)
  rw [State.CsrWrites, csrWrite_ipend, ← hc, ← BitVec.add_zero (if v.toNat / 4 = 0 then 0 else 1)]
  split
  · exact ⟨_, rfl, (csrPut_irq _ _).counted⟩
  · exact ⟨_, rfl, (State.CsrPut.refl _ _ _).counted⟩

/-! ### The control register instructions (R62-R64) -/

/-- An agent where the body of its instruction begins. -/
@[simp] theorem begin_ag (s : State) : (s.begin_ s.issue).ag s.cur = { s.ag s.cur with
    regs := { (s.ag s.cur).regs with pc := s.after, pfx := [] }, strip := { (s.ag s.cur).strip with mark := .none } } := by
  simp [State.begin_, State.after]
theorem begin_ag_ne (s : State) {j : Nat} (h : j ≠ s.cur) : (s.begin_ s.issue).ag j = s.ag j := modAg_ag_ne _ _ _ h

/-- The checks of a control register instruction pass where its agent may reach the register. -/
theorem pre_csr {s : State} {i : Instr} {n : Nat} {w : Bool} (hr : s.Ready i) (hm : s.CsrMay n w) : s.pre s.issue i (csrRule n w) = none := by
  obtain ⟨hpriv, hkind, -⟩ := hm
  have h1 : ¬ (s.issue.pfx ≠ [] ∧ i.takesExt = false) := by
    rintro ⟨hp, he⟩
    rcases hr.2 with h | h
    · exact hp h
    · simp [h] at he
  have h2 : ¬ ((csrRule n w).priv = true ∧ s.sysAt (s.ag s.issue.g).part s.issue.at_ = false) := by
    rintro ⟨hp, hs⟩
    rw [issue_g, issue_at, hpriv hp] at hs
    cases hs
  have h3 : ¬ ((if isPilot s.issue.g then (csrRule n w).pilot else (csrRule n w).hart) = false) := by
    simp only [csrRule, issue_g]
    split at hkind
    · next h => simp [h, hkind]
    · next h =>
      obtain ⟨hk, hw⟩ := hkind
      cases w <;> simp_all
  have h4 : ¬ ((s.ag s.issue.g).strip.susp = true ∧ ((csrRule n w).strip = true ∨ (csrRule n w).vcfg = true)) := by simp [csrRule]
  have h5 : ¬ ((csrRule n w).strip = true ∧ (s.ag s.issue.g).strip.shut = true) := by simp [csrRule]
  simp only [State.pre]
  rw [if_neg h1, if_neg h2, if_neg h3, if_neg h4, if_neg h5]

/-- A berth register is the owner's to reach. -/
theorem csrOwner_ok {s : State} {n : Nat} {w : Bool} (hm : s.CsrMay n w) :
    csrOwner s.issue n (s.begin_ s.issue) = .ok ((), s.begin_ s.issue) := by
  obtain ⟨-, -, howner⟩ := hm
  refine if_neg ?_
  rintro ⟨hl, hh, ho⟩
  exact ho (howner ⟨hl, hh⟩)

/-- A body's first part completes: the rest runs from the state it leaves. -/
theorem bind_ok {α β : Type} {m : M α} {k : α → M β} {s t : State} {a : α} (h : m s = .ok (a, t)) : (m >>= k) s = k a t := by
  show (m s >>= fun p => k p.1 p.2) = _
  rw [h]
  rfl

theorem csrBody_write {s t : State} {d : Fin 32} {n : Nat} {f : Word → Option Word} {is : Issue} {v : Word}
    (ho : csrOwner is n s = .ok ((), s)) (hf : f (s.csr is.g n) = some v) (hw : csrWrite is n v s = .ok ((), t)) :
    csrBody d n f is s = .ok ((), t.modAg is.g (fun a => a.ws d (s.csr is.g n))) := by
  rw [csrBody, bind_ok ho, bind_ok (m := get) rfl]
  simp only [hf]
  rw [bind_ok hw]
  rfl

theorem csrBody_read {s : State} {d : Fin 32} {n : Nat} {f : Word → Option Word} {is : Issue}
    (ho : csrOwner is n s = .ok ((), s)) (hf : f (s.csr is.g n) = none) :
    csrBody d n f is s = .ok ((), s.modAg is.g (fun a => a.ws d (s.csr is.g n))) := by
  rw [csrBody, bind_ok ho, bind_ok (m := get) rfl]
  simp only [hf]
  rfl

/-- A control register instruction whose body leaves its agent running: it writes the old value and retires. -/
theorem run_csr {s t : State} {i : Instr} {d : Fin 32} {n : Nat} {w : Bool} {f : Word → Option Word} {v : Word} (hr : s.Ready i)
    (hm : s.CsrMay n w) (hc : w = false ∨ (s.ag s.cur).inStrip = false)
    (hb : csrBody d n f s.issue (s.begin_ s.issue) = .ok ((), t.modAg s.cur (fun a => a.ws d v)))
    (ht : ((s.begin_ s.issue).ag s.cur).Beside (t.ag s.cur)) :
    s.run i (csrRule n w) (csrBody d n f)
      = .next (t.modAg s.cur (fun a => (a.ws d v).retired (s.ag s.cur).regs.pc (csrRule n w).cut)) := by
  have hcut : (csrRule n w).cut = false ∨ (s.ag s.cur).inStrip = false := hc.imp_left (fun e => by simp [csrRule, e])
  have hstrip : ((s.begin_ s.issue).ag s.cur).inStrip = (s.ag s.cur).inStrip := by simp [Agent.inStrip]
  rw [run_next, runBody_plain (pre_csr hr hm) (hcut.imp_left (fun e => by rw [e]; rfl)), hb, finish_ok]
  rw [retire_run]
  · simp
  · simp [ht.status, hr.1]
  · refine hcut.imp_right (fun e => ?_)
    have := ht.inStrip.trans (hstrip.trans e)
    simpa [Agent.inStrip] using this

/-- An instruction whose only effect is a write of one scalar register. -/
theorem scalar_of_next {s : State} {i : Instr} {d : Fin 32} {v : Word} {c : Bool} (hr : (s.ag s.cur).status = .run)
    (hx : exec i s = .next ((s.begin_ s.issue).modAg s.cur (fun a => (a.ws d v).retired (s.ag s.cur).regs.pc c))) : s.Scalar i d v := by
  refine ⟨_, hx, ⟨rfl, fun g hg => ?_⟩, ?_, ?_, ?_, ?_, fun r => ?_⟩
  · rw [modAg_ag_ne _ _ _ hg, begin_ag_ne _ hg]
  · simp [Agent.Retired, hr, Agent.retired]
  · simp [Agent.KeptAside, Agent.retired]
  · simp
  · simp [Agent.AddressKept, Agent.retired]
  · simp [ws_rs]
    rfl

/-- An instruction leaves control register `n` reading `new`, its old value in a scalar register, and `count` reserved accesses counted. -/
def State.CsrDoes (s : State) (i : Instr) (d : Fin 32) (n : Nat) (new count : Word) : Prop :=
  ∃ t, exec i s = .next t ∧ s.OthersKept t ∧ (s.ag s.cur).Goes (t.ag s.cur) s.after ∧ (s.ag s.cur).AddressKept (t.ag s.cur)
    ∧ (s.ag s.cur).ScalarIs (t.ag s.cur) d (s.csr s.cur n) ∧ (t.ag s.cur).vec = (s.ag s.cur).vec
    ∧ (t.ag s.cur).mem = (s.ag s.cur).mem ∧ t.csr s.cur n = new ∧ t.csr s.cur 0x720 = s.csr s.cur 0x720 + count
    ∧ ∀ m, m ≠ n → m ∉ [0x011, 0x027, 0x708, 0x720] → t.csr s.cur m = s.csr s.cur m

theorem csr_unassigned (s : State) (g : Nat) {n : Nat} (h : csrAssigned n = false) : s.csr g n = 0 := by
  simp only [csrAssigned, decide_eq_false_iff_not] at h
  simp (disch := omega) only [State.csr, if_neg]

/-- A write of a control register whose body is done retires with nothing changed but what the write and the end of an instruction do. -/
theorem csrDoes_of_put {s t : State} {i : Instr} {d : Fin 32} {n : Nat} {new count : Word} {c : Bool} (hr : (s.ag s.cur).status = .run)
    (hn : n ∉ [0x011, 0x708, 0x720]) (hp : (s.begin_ s.issue).CsrPut t s.cur n new count)
    (hx : exec i s = .next (t.modAg s.cur (fun a => (a.ws d (s.csr s.cur n)).retired (s.ag s.cur).regs.pc c))) :
    s.CsrDoes i d n new count := by
  obtain ⟨hst, hregs, -, hvec, hmem⟩ := hp.agent
  have hrs (r : Fin 32) : (t.ag s.cur).rs r = (s.ag s.cur).rs r := by simp [Agent.rs, hregs]
  simp only [List.mem_cons, List.not_mem_nil, or_false, not_or] at hn
  obtain ⟨h11, h708, h720⟩ := hn
  refine ⟨_, hx, ⟨fun g hg => ?_, fun p => ?_⟩, ?_, ?_, fun r => ?_, ?_, ?_, ?_, ?_, fun m hm hm' => ?_⟩
  · rw [modAg_ag_ne _ _ _ hg, hp.others g hg, begin_ag_ne _ hg]
  · exact hp.bytes p
  · simp [Agent.Goes, hst, hregs, hr, Agent.retired]
  · simp [Agent.AddressKept, hregs, Agent.retired]
  · simp [ws_rs, hrs]
  · simp [hvec]
  · simp [hmem]
  · rw [retired_csr _ _ _ _ _ _ h11 h708, hp.holds]
  · rw [csr_rsvacc, csr_rsvacc]
    exact hp.counts
  · simp only [List.mem_cons, List.not_mem_nil, or_false, not_or] at hm'
    obtain ⟨m11, m27, m708, m720⟩ := hm'
    rw [retired_csr _ _ _ _ _ _ m11 m708, hp.kept m hm (by simp [m27, m720]), begin_csr]

/-- A control register instruction that writes `v`. -/
theorem csrTakes_of_run {s : State} {i : Instr} {d : Fin 32} {n : Nat} {v : Word} {f : Word → Option Word}
    (hx : exec i s = s.run i (csrRule n true) (csrBody d n f)) (hf : f (s.csr s.cur n) = some v) : s.CsrTakes i d n v := by
  intro hr hstrip hm
  have body {t : State} (hw : csrWrite s.issue n v (s.begin_ s.issue) = .ok ((), t))
      (ht : ((s.begin_ s.issue).ag s.cur).Beside (t.ag s.cur)) :
      exec i s = .next (t.modAg s.cur (fun a => (a.ws d (s.csr s.cur n)).retired (s.ag s.cur).regs.pc (csrRule n true).cut)) := by
    rw [hx]
    refine run_csr hr hm (.inr hstrip) ?_ ht
    rw [csrBody_write (csrOwner_ok hm) (by rw [issue_g, begin_csr, hf]) hw, issue_g, begin_csr]
  have writes {new count : Word} (hn : n ∉ [0x011, 0x708, 0x720]) (h : (s.begin_ s.issue).CsrWrites s.issue n v new count) :
      s.CsrDoes i d n new count := by
    obtain ⟨t, hw, hp⟩ := h
    exact csrDoes_of_put hr.1 hn hp (body hw hp.agent)
  refine ⟨fun h => ?_, ?_, ?_, fun ha ho => ?_, fun h => ?_⟩
  · obtain ⟨-, -, hn, -⟩ := csrPlain_spec h
    exact writes (by simp_all) (csrWrites_plain _ _ v h)
  · rintro rfl
    have := csrWrites_frm (s.begin_ s.issue) s.issue v
    rw [issue_g, begin_csr] at this
    exact writes (by decide) this
  · rintro rfl
    have := csrWrites_ipend (s.begin_ s.issue) s.issue v
    rw [issue_g, begin_csr] at this
    exact writes (by decide) this
  · exact scalar_of_next hr.1 (body (csrWrite_readOnly _ _ v ha ho) (.refl _))
  · have hn : n ∉ [0x011, 0x708, 0x720] := by
      intro hn
      simp only [List.mem_cons, List.not_mem_nil, or_false] at hn
      rcases hn with rfl | rfl | rfl <;> simp [csrAssigned] at h
    refine writes hn ⟨_, csrWrite_unassigned _ _ v h, ?_⟩
    rw [← csr_unassigned (s.begin_ s.issue) s.issue.g h]
    exact csrPut_countRsv _ _ (by simp_all)

/-- A control register instruction that writes nothing. -/
theorem csrRead_of_run {s : State} {i : Instr} {d : Fin 32} {n : Nat} {f : Word → Option Word}
    (hx : exec i s = s.run i (csrRule n false) (csrBody d n f)) (hf : f (s.csr s.cur n) = none) (hr : s.Ready i)
    (hm : s.CsrMay n false) : s.Scalar i d (s.csr s.cur n) := by
  refine scalar_of_next hr.1 (hx.trans (run_csr hr hm (.inl rfl) ?_ (.refl _)))
  rw [csrBody_read (csrOwner_ok hm) (by rw [issue_g, begin_csr, hf]), issue_g, begin_csr]

theorem csrReads : Claim.CsrReads := by
  intro s d c hm
  exact ⟨fun hr => csrRead_of_run rfl rfl hr hm, fun hr => csrRead_of_run rfl rfl hr hm, fun hr => csrRead_of_run rfl rfl hr hm⟩

theorem exec_csrs_set (s : State) (d : Fin 32) {a : Fin 32} (c : BitVec 12) (ha : a ≠ 0) : exec (.csrs d a c) s =
    s.run (.csrs d a c) (csrRule c.toNat true) (csrBody d c.toNat (fun old => some (old ||| (s.ag s.cur).rs a))) := by
  show execCsrs d a c s = _
  simp [execCsrs, ha]

theorem exec_csrc_clear (s : State) (d : Fin 32) {a : Fin 32} (c : BitVec 12) (ha : a ≠ 0) : exec (.csrc d a c) s =
    s.run (.csrc d a c) (csrRule c.toNat true) (csrBody d c.toNat (fun old => some (old &&& ~~~ (s.ag s.cur).rs a))) := by
  show execCsrc d a c s = _
  simp [execCsrc, ha]

theorem csrWrites : Claim.CsrWrites := fun s d _ c =>
  ⟨csrTakes_of_run rfl rfl, fun ha => ⟨csrTakes_of_run (exec_csrs_set s d c ha) rfl, csrTakes_of_run (exec_csrc_clear s d c ha) rfl⟩⟩

/-- Settles O39: a control register instruction runs as its body does, a read writes nothing, and a write is `csrWrite`'s, by the kind
of the register. -/
theorem csrResults : Obligations.CsrResults := ⟨csrReads, csrWrites⟩

end Sys2Proof.Machine
end

section
/-! How an instruction whose checks pass runs to its end, and the instructions of integer arithmetic, jumps and addresses (R47-R53, R61).
The statements O11 to O17 are settled here. -/

namespace Sys2Proof.Machine

/-! ### An instruction that every agent executes -/

/-- The checks of an instruction for every agent pass, whatever its rule says about cuts. -/
theorem pre_ready {s : State} {i : Instr} {r : Rule} (hr : s.Ready i) (hp : r.priv = false) (ha : r.pilot = true) (hh : r.hart = true)
    (hs : r.strip = false) (hv : r.vcfg = false) : s.pre s.issue i r = none :=
  pre_both hr.2 hp ha hh hs hv

/-- An instruction without a cut whose body completes and leaves its agent running retires. -/
theorem run_ok {s t : State} {i : Instr} {r : Rule} {body : Issue → M Unit} (hp : s.pre s.issue i r = none)
    (hc : (r.cut || r.pre) = false ∨ (s.ag s.cur).inStrip = false) (hb : body s.issue (s.begin_ s.issue) = .ok ((), t))
    (ht : (t.ag s.cur).status = .run) (hs : r.cut = false ∨ (t.ag s.cur).inStrip = false) :
    s.run i r body = .next (t.modAg s.cur (fun a => a.retired (s.ag s.cur).regs.pc r.cut)) := by
  rw [run_next, runBody_plain hp hc, hb, finish_ok, retire_run _ ht hs]
  rfl

/-- An instruction for every agent whose body changes registers of its agent: the next state. -/
theorem run_modAg {s : State} {i : Instr} {body : Issue → M Unit} (f : Agent → Agent) (hr : s.Ready i)
    (hf : ∀ a : Agent, (f a).status = a.status)
    (hb : body s.issue (s.begin_ s.issue) = .ok ((), (s.begin_ s.issue).modAg s.cur f)) :
    s.run i .both body = .next ((s.begin_ s.issue).modAg s.cur (fun a => (f a).retired (s.ag s.cur).regs.pc false)) := by
  rw [run_ok (pre_ready hr rfl rfl rfl rfl rfl) (.inl rfl) hb _ (.inl rfl), modAg_modAg]
  · rfl
  · simp [hf, hr.1]

/-- An instruction whose body writes one scalar register. -/
theorem scalar_of_body {s : State} {i : Instr} {d : Fin 32} {v : Word} {body : Issue → M Unit} (hr : s.Ready i)
    (hx : exec i s = s.run i .both body)
    (hb : body s.issue (s.begin_ s.issue) = .ok ((), (s.begin_ s.issue).modAg s.cur (fun a => a.ws d v))) : s.Scalar i d v :=
  scalar_of_next hr.1 (hx.trans (run_modAg _ hr (fun _ => ws_status _ _ _) hb))

/-- An agent where the body of its instruction begins: past the word at `pc`, the PFX words taken. -/
def Agent.begun (pc : Word) (a : Agent) : Agent :=
  { a with regs := { a.regs with pc := pc, pfx := [] }, strip := { a.strip with mark := .none } }

theorem begin_begun (s : State) : (s.begin_ s.issue).ag s.cur = (s.ag s.cur).begun s.after := begin_ag s

@[simp] theorem begin_rs (s : State) (r : Fin 32) : ((s.begin_ s.issue).ag s.cur).rs r = (s.ag s.cur).rs r := by
  rw [begin_ag]; rfl
@[simp] theorem begin_ra (s : State) (r : Fin 16) : ((s.begin_ s.issue).ag s.cur).ra r = (s.ag s.cur).ra r := by
  rw [begin_ag]; rfl

/-- Writing a register with a value that is read from the agent's own registers. -/
theorem modAg_const (s : State) (g : Nat) (f : Agent → Agent) : s.modAg g f = s.modAg g (fun _ => f (s.ag g)) := rfl

/-- An instruction whose body writes one scalar register with a function of its agent's registers. -/
theorem scalar_of_fun {s : State} {i : Instr} {d : Fin 32} {v : Word} (f : Agent → Word) {body : Issue → M Unit} (hr : s.Ready i)
    (hx : exec i s = s.run i .both body) (hb : body s.issue = modA s.issue (fun a => a.ws d (f a)))
    (hv : f ((s.begin_ s.issue).ag s.cur) = v) : s.Scalar i d v := by
  refine scalar_of_body hr hx ?_
  rw [hb, modA_ok, issue_g, modAg_const, hv, ← modAg_const _ _ (fun a => a.ws d v)]

/-! ### The ALU's operations as R47 and R50 write them -/

theorem add_eq_ofNat (x y : Word) : x + y = BitVec.ofNat 64 (x.toNat + y.toNat) := by
  apply BitVec.eq_of_toNat_eq
  simp

theorem sub_eq_ofInt (x y : Word) : x - y = BitVec.ofInt 64 (x.toInt - y.toInt) := by
  apply BitVec.eq_of_toInt_eq
  rw [BitVec.toInt_sub, BitVec.toInt_ofInt]

theorem shiftLeft_eq_ofNat (x : Word) (k : Nat) : x <<< k = BitVec.ofNat 64 (x.toNat * 2 ^ k) := by
  apply BitVec.eq_of_toNat_eq
  simp [BitVec.toNat_shiftLeft, Nat.shiftLeft_eq]

theorem ushiftRight_eq_ofNat (x : Word) (k : Nat) : x >>> k = BitVec.ofNat 64 (x.toNat / 2 ^ k) := by
  apply BitVec.eq_of_toNat_eq
  rw [BitVec.toNat_ushiftRight, Nat.shiftRight_eq_div_pow, BitVec.toNat_ofNat,
    Nat.mod_eq_of_lt (Nat.lt_of_le_of_lt (Nat.div_le_self _ _) x.isLt)]

theorem sshiftRight_eq_ofInt (x : Word) (k : Nat) : x.sshiftRight k = BitVec.ofInt 64 (x.toInt / 2 ^ k) := by
  rw [BitVec.sshiftRight, Int.shiftRight_eq_div_pow]
  norm_cast

theorem opSlt_eq (x y : Word) : opSlt x y = if x.toInt < y.toInt then 1 else 0 := by
  simp [opSlt, BitVec.slt]

theorem opSltn_eq (x y : Word) : opSltn x y = if x.toNat < y.toNat then 1 else 0 := by
  simp [opSltn, BitVec.ult]

/-- Where two words compare equal they are the same word, so it does not matter which is taken. -/
theorem opMin_eq (x y : Word) : opMin x y = if x.toInt ≤ y.toInt then x else y := by
  simp only [opMin, BitVec.slt, decide_eq_true_eq]
  rcases Int.lt_trichotomy x.toInt y.toInt with h | h | h
  · rw [if_pos h, if_pos h.le]
  · rw [BitVec.eq_of_toInt_eq h]; simp
  · rw [if_neg h.le.not_gt, if_neg h.not_ge]

theorem opMax_eq (x y : Word) : opMax x y = if x.toInt ≤ y.toInt then y else x := by
  simp only [opMax, BitVec.slt, decide_eq_true_eq]
  rcases Int.lt_trichotomy x.toInt y.toInt with h | h | h
  · rw [if_pos h, if_pos h.le]
  · rw [BitVec.eq_of_toInt_eq h]; simp
  · rw [if_neg h.le.not_gt, if_neg h.not_ge]

theorem opMinn_eq (x y : Word) : opMinn x y = if x.toNat ≤ y.toNat then x else y := by
  simp only [opMinn, BitVec.ult, decide_eq_true_eq]
  rcases Nat.lt_trichotomy x.toNat y.toNat with h | h | h
  · rw [if_pos h, if_pos h.le]
  · rw [BitVec.eq_of_toNat_eq h]; simp
  · rw [if_neg h.le.not_gt, if_neg h.not_ge]

theorem opMaxn_eq (x y : Word) : opMaxn x y = if x.toNat ≤ y.toNat then y else x := by
  simp only [opMaxn, BitVec.ult, decide_eq_true_eq]
  rcases Nat.lt_trichotomy x.toNat y.toNat with h | h | h
  · rw [if_pos h, if_pos h.le]
  · rw [BitVec.eq_of_toNat_eq h]; simp
  · rw [if_neg h.le.not_gt, if_neg h.not_ge]

/-- The leading zeros of a word: how many there are, and that a one follows them. -/
theorem leadZeros_spec {n : Nat} (h : n < 2 ^ 64) :
    leadZeros 64 n ≤ 64 ∧ n < 2 ^ (64 - leadZeros 64 n) ∧ (leadZeros 64 n = 64 ∨ 2 ^ (63 - leadZeros 64 n) ≤ n) := by
  unfold leadZeros
  by_cases hn : n = 0
  · simp [hn]
  · have hl : Nat.log2 n < 64 := (Nat.log2_lt hn).2 h
    rw [if_neg hn]
    have e : 64 - (64 - 1 - Nat.log2 n) = Nat.log2 n + 1 := by omega
    have e' : 63 - (64 - 1 - Nat.log2 n) = Nat.log2 n := by omega
    rw [e, e']
    exact ⟨by omega, Nat.lt_log2_self, .inr (Nat.log2_self_le hn)⟩

theorem popCount_eq (x : Word) : popCount x.toNat 64 = ((List.range 64).filter (fun k => x.getLsbD k)).length := rfl

/-! ### ALU (R47) -/

/-- An instruction of the ALU writes its operation's value. -/
theorem alu_scalar {s : State} {i : Instr} {d a b : Fin 32} {v : Word} (f : Word → Word → Word) (hr : s.Ready i)
    (hx : exec i s = s.run i .both (alu d a b f)) (hv : f ((s.ag s.cur).rs a) ((s.ag s.cur).rs b) = v) : s.Scalar i d v :=
  scalar_of_fun (fun x => f (x.rs a) (x.rs b)) hr hx rfl (by simpa only [begin_rs] using hv)

/-- The major of a word selects its part of the decoder. -/
theorem fld_major {n k : Nat} (h : n / 2 ^ 26 = k) (hk : k < 2 ^ 6) : fld n 26 6 = k := by
  rw [fld, h, Nat.mod_eq_of_lt hk]

theorem decodeNat_alu {n : Nat} (h : n / 2 ^ 26 = 0x04) : decodeNat n = decAlu n := by
  simp only [decodeNat, fld_major h (by decide)]

theorem decodeNat_mulDiv {n : Nat} (h : n / 2 ^ 26 = 0x07) : decodeNat n = decMulDiv n := by
  simp only [decodeNat, fld_major h (by decide)]

theorem decodeNat_branch {n : Nat} (h : n / 2 ^ 26 = 0x08) : decodeNat n = decBranch n := by
  simp only [decodeNat, fld_major h (by decide)]

theorem decAlu_fn {n : Nat} (h : 15 < n % 2 ^ 11) : decAlu n = .error .fn := by
  have hf : fld n 0 11 = n % 2 ^ 11 := by simp [fld]
  unfold decAlu
  split
  case h_17 => rfl
  all_goals omega

theorem decAlu_zfield {n : Nat} (h : n % 2 ^ 11 = 14 ∨ n % 2 ^ 11 = 15) (hz : n / 2 ^ 11 % 32 ≠ 0) : decAlu n = .error .zfield := by
  have hf : fld n 0 11 = n % 2 ^ 11 := by simp [fld]
  rcases h with h | h
  · simp only [decAlu, hf.trans h]
    exact if_pos hz
  · simp only [decAlu, hf.trans h]
    exact if_pos hz

/-- Settles O11: each instruction writes its operation's value, and the decoder refuses the other words of the major. -/
theorem aluResults : Obligations.AluResults := by
  refine ⟨fun s d a b hr => ?_, fun n hn => ⟨fun h => ?_, fun h hz => ?_⟩⟩
  · intro x y sh
    refine ⟨alu_scalar _ hr rfl (add_eq_ofNat x y), alu_scalar _ hr rfl (sub_eq_ofInt x y), alu_scalar _ hr rfl rfl, alu_scalar _ hr rfl rfl,
      alu_scalar _ hr rfl rfl, alu_scalar _ hr rfl (shiftLeft_eq_ofNat x sh), alu_scalar _ hr rfl (ushiftRight_eq_ofNat x sh),
      alu_scalar _ hr rfl (sshiftRight_eq_ofInt x sh), alu_scalar _ hr rfl (opSlt_eq x y), alu_scalar _ hr rfl (opSltn_eq x y),
      alu_scalar _ hr rfl (opMin_eq x y), alu_scalar _ hr rfl (opMax_eq x y), alu_scalar _ hr rfl (opMinn_eq x y),
      alu_scalar _ hr rfl (opMaxn_eq x y), ?_, alu_scalar _ hr rfl (congrArg (BitVec.ofNat 64) (popCount_eq x))⟩
    obtain ⟨hk, hlt, hle⟩ := leadZeros_spec x.isLt
    exact ⟨leadZeros 64 x.toNat, hk, hlt, hle, alu_scalar _ hr rfl rfl⟩
  · rw [decodeNat_alu hn, decAlu_fn h]
  · rw [decodeNat_alu hn, decAlu_zfield h hz]

/-! ### Immediates with their PFX words (R28) -/

theorem foldl_pfx_start (l : List (BitVec 26)) : ∀ x : Nat,
    l.foldl (fun x p => x * 2 ^ 26 + p.toNat) x = x * 2 ^ (26 * l.length) + l.foldl (fun x p => x * 2 ^ 26 + p.toNat) 0 := by
  induction l with
  | nil => simp
  | cons p t ih =>
    intro x
    rw [List.foldl_cons, List.foldl_cons, ih (x * 2 ^ 26 + p.toNat), ih (0 * 2 ^ 26 + p.toNat), List.length_cons, Nat.mul_add, Nat.pow_add]
    ring

/-- The words that are left when `k` of `m` have been taken stand above the field in their order. -/
theorem foldl_extField (wf m : Nat) (l : List (BitVec 26)) : ∀ v k : Nat, k + l.length = m →
    (l.foldl (fun acc p => (acc.1 + p.toNat * 2 ^ (wf + 26 * (m - 1 - acc.2)), acc.2 + 1)) (v, k)).1
      = v + l.foldl (fun x p => x * 2 ^ 26 + p.toNat) 0 * 2 ^ wf := by
  induction l with
  | nil => simp
  | cons p t ih =>
    intro v k hk
    rw [List.length_cons] at hk
    have e : m - 1 - k = t.length := by omega
    rw [List.foldl_cons, ih _ _ (by omega), List.foldl_cons, foldl_pfx_start t (0 * 2 ^ 26 + p.toNat), e, Nat.pow_add]
    ring

theorem extU_eq_wideNat (pfx : List (BitVec 26)) (w f : Nat) : extU pfx w f = wideNat pfx w f := by
  rw [wideNat, Nat.add_comm]
  exact foldl_extField w pfx.length pfx f 0 (Nat.zero_add _)

theorem foldl_pfx_lt (l : List (BitVec 26)) : l.foldl (fun x p => x * 2 ^ 26 + p.toNat) 0 < 2 ^ (26 * l.length) := by
  induction l with
  | nil => simp
  | cons p t ih =>
    rw [List.foldl_cons, foldl_pfx_start, List.length_cons, Nat.mul_add, Nat.pow_add]
    have hp := p.isLt
    have : (0 * 2 ^ 26 + p.toNat + 1) * 2 ^ (26 * t.length) ≤ 2 ^ 26 * 2 ^ (26 * t.length) := Nat.mul_le_mul_right _ (by omega)
    rw [Nat.add_mul] at this
    omega

theorem wideNat_lt (pfx : List (BitVec 26)) {w f : Nat} (hf : f < 2 ^ w) : wideNat pfx w f < 2 ^ (w + 26 * pfx.length) := by
  have h := foldl_pfx_lt pfx
  have : (pfx.foldl (fun x p => x * 2 ^ 26 + p.toNat) 0 + 1) * 2 ^ w ≤ 2 ^ (26 * pfx.length) * 2 ^ w := Nat.mul_le_mul_right _ h
  rw [Nat.succ_mul] at this
  rw [wideNat, Nat.pow_add, Nat.mul_comm (2 ^ w)]
  omega

theorem extS_eq_wideInt (pfx : List (BitVec 26)) {w f : Nat} (hw : 0 < w) (hf : f < 2 ^ w) : extS pfx w f = wideInt pfx w f := by
  have hx : (extField pfx w f).1 = wideNat pfx w f := extU_eq_wideNat pfx w f
  have hlen : (extField pfx w f).2 = w + 26 * pfx.length := rfl
  have hpos : 0 < w + 26 * pfx.length := by omega
  rw [extS, sext, hx, hlen, Nat.mod_eq_of_lt (wideNat_lt pfx hf), wideInt]
  simp [hpos]

/-- The immediate of an instruction, by R28. -/
theorem issue_immS (s : State) {w : Nat} (hw : 0 < w) (i : BitVec w) :
    s.issue.immS w i.toNat = wideInt (s.ag s.cur).regs.pfx w i.toNat := extS_eq_wideInt _ hw i.isLt
theorem issue_immU (s : State) (w f : Nat) : s.issue.immU w f = wideNat (s.ag s.cur).regs.pfx w f := extU_eq_wideNat _ _ _

/-! ### ALUI and LI (R48, R49) -/

/-- An instruction with an immediate applies its operation to it. -/
theorem aluI_scalar {s : State} {i : Instr} {d a : Fin 32} {im : BitVec 13} {v : Word} (f : Word → Word → Word) (hr : s.Ready i)
    (hx : exec i s = s.run i .both (aluI d a im f))
    (hv : f ((s.ag s.cur).rs a) (BitVec.ofInt 64 (wideInt (s.ag s.cur).regs.pfx 13 im.toNat)) = v) : s.Scalar i d v :=
  scalar_of_fun (fun x => f (x.rs a) (BitVec.ofInt 64 (s.issue.immS 13 im.toNat))) hr hx rfl
    (by simpa only [begin_rs, issue_immS s (by decide : 0 < 13)] using hv)

/-- A shift by an immediate within the word. -/
theorem shiftI_scalar {s : State} {i : Instr} {d a : Fin 32} {im : BitVec 13} {w : Nat} {v : Word} (f : Word → Word → Word) (hr : s.Ready i)
    (hx : exec i s = s.run i .both (shiftI d a im w f)) (hk : wideNat (s.ag s.cur).regs.pfx 13 im.toNat ≤ 63)
    (hv : f ((s.ag s.cur).rs a) (BitVec.ofNat 64 (wideNat (s.ag s.cur).regs.pfx 13 im.toNat)) = v) : s.Scalar i d v := by
  refine scalar_of_fun (fun x => f (x.rs a) (BitVec.ofNat 64 (s.issue.immU 13 im.toNat))) hr hx ?_
    (by simpa only [begin_rs, issue_immU] using hv)
  rw [shiftI, issue_immU, if_neg (Nat.not_lt.2 hk)]

/-- An instruction for every agent whose body ends with a trap that leaves nothing. -/
theorem traps_of_body {s : State} {i : Instr} {t : TrapInfo} {r : Rule} {body : Issue → M Unit} (hx : exec i s = s.run i r body)
    (hp : s.pre s.issue i r = none) (hc : (r.cut || r.pre) = false ∨ (s.ag s.cur).inStrip = false)
    (hb : body s.issue (s.begin_ s.issue) = .error (.trap t none)) : s.Traps i t := by
  rw [State.Traps, hx, run_next, runBody_plain hp hc, hb, finish_trap]

/-- A shift by more than 63. -/
theorem shiftI_traps {s : State} {i : Instr} {d a : Fin 32} {im : BitVec 13} {w : Nat} {f : Word → Word → Word} (hr : s.Ready i)
    (hx : exec i s = s.run i .both (shiftI d a im w f)) (hk : 63 < wideNat (s.ag s.cur).regs.pfx 13 im.toNat) :
    s.Traps i { cause := 1, sub := 4, val := BitVec.ofNat 64 w } := by
  refine traps_of_body hx (pre_ready hr rfl rfl rfl rfl rfl) (.inl rfl) ?_
  rw [shiftI, issue_immU, if_pos hk]
  rfl

theorem shamt_ofNat {k : Nat} (h : k ≤ 63) : shamt (BitVec.ofNat 64 k) = k := by
  rw [shamt, BitVec.toNat_ofNat]
  omega

theorem opSll_ofNat (x : Word) {k : Nat} (h : k ≤ 63) : opSll x (BitVec.ofNat 64 k) = BitVec.ofNat 64 (x.toNat * 2 ^ k) := by
  rw [opSll, shamt_ofNat h, shiftLeft_eq_ofNat]
theorem opSrl_ofNat (x : Word) {k : Nat} (h : k ≤ 63) : opSrl x (BitVec.ofNat 64 k) = BitVec.ofNat 64 (x.toNat / 2 ^ k) := by
  rw [opSrl, shamt_ofNat h, ushiftRight_eq_ofNat]
theorem opSra_ofNat (x : Word) {k : Nat} (h : k ≤ 63) : opSra x (BitVec.ofNat 64 k) = BitVec.ofInt 64 (x.toInt / 2 ^ k) := by
  rw [opSra, shamt_ofNat h, sshiftRight_eq_ofInt]

theorem claim_aluImmediateResults : Claim.AluImmediateResults := by
  intro s d a i hr x pfx y k bad
  refine ⟨aluI_scalar _ hr rfl rfl, aluI_scalar _ hr rfl rfl, aluI_scalar _ hr rfl rfl, aluI_scalar _ hr rfl rfl,
    aluI_scalar _ hr rfl (opSlt_eq x y), fun h => ?_, fun h => ?_⟩
  · exact ⟨shiftI_scalar _ hr rfl h (opSll_ofNat x h), shiftI_scalar _ hr rfl h (opSrl_ofNat x h), shiftI_scalar _ hr rfl h (opSra_ofNat x h)⟩
  · exact ⟨shiftI_traps hr rfl h, shiftI_traps hr rfl h, shiftI_traps hr rfl h⟩

theorem claim_liResult : Claim.LiResult := by
  intro s d i hr
  refine scalar_of_fun (fun _ => BitVec.ofInt 64 (s.issue.immS 21 i.toNat)) hr rfl rfl ?_
  rw [issue_immS s (by decide : 0 < 21)]

/-- Settles O12: the immediate is R28's, and each operation is the ALU's. -/
theorem aluImmediateResults : Obligations.AluImmediateResults := ⟨claim_aluImmediateResults, claim_liResult⟩

/-! ### MULDIV (R50) -/

theorem mul_eq_ofInt (x y : Word) : x * y = BitVec.ofInt 64 (x.toInt * y.toInt) := by
  apply BitVec.eq_of_toInt_eq
  rw [BitVec.toInt_mul, BitVec.toInt_ofInt]

theorem eq_zero_iff_toNat (y : Word) : y = 0 ↔ y.toNat = 0 := by
  constructor
  · rintro rfl; rfl
  · exact fun h => BitVec.eq_of_toNat_eq h

/-- Division that rounds toward zero, by the signs of its operands. -/
def signedQuot (X Y : Int) : Int :=
  if (0 ≤ X ∧ 0 < Y) ∨ (X ≤ 0 ∧ Y < 0) then ((X.natAbs / Y.natAbs : Nat) : Int) else -((X.natAbs / Y.natAbs : Nat) : Int)

theorem tdiv_eq_signedQuot {X Y : Int} (h : Y ≠ 0) : X.tdiv Y = signedQuot X Y := by
  unfold signedQuot
  have quot (n m : Nat) : (n : Int).tdiv m = ((n / m : Nat) : Int) := rfl
  obtain ⟨n, rfl | rfl⟩ := X.eq_nat_or_neg <;> obtain ⟨m, rfl | rfl⟩ := Y.eq_nat_or_neg <;>
    simp only [Int.neg_tdiv, Int.tdiv_neg, Int.natAbs_neg, Int.natAbs_natCast, quot, neg_neg]
  · rw [if_pos (.inl ⟨by omega, by omega⟩)]
  · split
    · next hc => simp [show n = 0 by omega]
    · rfl
  · split
    · next hc => simp [show n = 0 by omega]
    · rfl
  · rw [if_pos (.inr ⟨by omega, by omega⟩)]

theorem toInt_ne_zero {y : Word} (h : y ≠ 0) : y.toInt ≠ 0 := fun e => h (BitVec.eq_of_toInt_eq e)

theorem opDiv_eq (x y : Word) :
    opDiv x y = if y.toNat = 0 then 0xFFFFFFFFFFFFFFFF else BitVec.ofInt 64 (signedQuot x.toInt y.toInt) := by
  by_cases h : y = 0
  · rw [opDiv, if_pos h, if_pos ((eq_zero_iff_toNat y).1 h)]; rfl
  · rw [opDiv, if_neg h, if_neg (mt (eq_zero_iff_toNat y).2 h), tdiv_eq_signedQuot (toInt_ne_zero h)]

theorem opDivn_eq (x y : Word) : opDivn x y = if y.toNat = 0 then 0xFFFFFFFFFFFFFFFF else BitVec.ofNat 64 (x.toNat / y.toNat) := by
  rw [opDivn]
  simp only [eq_zero_iff_toNat]
  rfl

theorem opRem_eq (x y : Word) :
    opRem x y = if y.toNat = 0 then x else BitVec.ofInt 64 (x.toInt - y.toInt * signedQuot x.toInt y.toInt) := by
  by_cases h : y = 0
  · rw [opRem, if_pos h, if_pos ((eq_zero_iff_toNat y).1 h)]
  · rw [opRem, if_neg h, if_neg (mt (eq_zero_iff_toNat y).2 h), tdiv_eq_signedQuot (toInt_ne_zero h)]

theorem opRemn_eq (x y : Word) : opRemn x y = if y.toNat = 0 then x else BitVec.ofNat 64 (x.toNat - y.toNat * (x.toNat / y.toNat)) := by
  rw [opRemn]
  simp only [eq_zero_iff_toNat]

/-- The one quotient that overflows. -/
theorem opDiv_min_neg_one {x y : Word} (hx : x.toInt = -2 ^ 63) (hy : y.toInt = -1) :
    opDiv x y = BitVec.ofInt 64 (-2 ^ 63) ∧ opRem x y = 0 := by
  have ex : x = BitVec.intMin 64 := BitVec.eq_of_toInt_eq (hx.trans (by decide))
  have ey : y = BitVec.allOnes 64 := BitVec.eq_of_toInt_eq (hy.trans (by decide))
  rw [ex, ey]
  decide

theorem decMulDiv_fn {n : Nat} (h : 6 < n % 2 ^ 11) : decMulDiv n = .error .fn := by
  have hf : fld n 0 11 = n % 2 ^ 11 := by simp [fld]
  unfold decMulDiv
  split
  case h_8 => rfl
  all_goals omega

/-- Settles O13: each instruction writes its operation's value, and the decoder refuses the other codes. -/
theorem mulDivResults : Obligations.MulDivResults := by
  refine ⟨fun s d a b hr => ?_, fun n hn h => by rw [decodeNat_mulDiv hn, decMulDiv_fn h]⟩
  intro p X Y U V q
  refine ⟨alu_scalar _ hr rfl (mul_eq_ofInt _ _), alu_scalar _ hr rfl rfl, alu_scalar _ hr rfl rfl, alu_scalar _ hr rfl (opDiv_eq _ _),
    alu_scalar _ hr rfl (opDivn_eq _ _), alu_scalar _ hr rfl (opRem_eq _ _), alu_scalar _ hr rfl (opRemn_eq _ _), ?_⟩
  rintro ⟨hX, hY⟩
  obtain ⟨hq, hm⟩ := opDiv_min_neg_one hX hY
  exact ⟨alu_scalar _ hr rfl hq, alu_scalar _ hr rfl hm⟩

/-! ### Branches and jumps (R51-R53) -/

/-- An instruction that changes nothing. -/
theorem idle_of_body {s : State} {i : Instr} {body : Issue → M Unit} (hr : s.Ready i) (hx : exec i s = s.run i .both body)
    (hb : body s.issue (s.begin_ s.issue) = .ok ((), s.begin_ s.issue)) : s.Idle i := by
  have hs : ((s.begin_ s.issue).ag s.cur).status = .run := by simp [hr.1]
  refine ⟨_, hx.trans (run_ok (pre_ready hr rfl rfl rfl rfl rfl) (.inl rfl) hb hs (.inl rfl)), ⟨rfl, fun g hg => ?_⟩, ?_, ?_, ?_, ?_, ?_⟩
  · rw [modAg_ag_ne _ _ _ hg, begin_ag_ne _ hg]
  · simp [Agent.Retired, hr.1, Agent.retired]
  · simp [Agent.KeptAside, Agent.retired]
  · simp
  · simp [Agent.ScalarKept, Agent.retired]
  · simp [Agent.AddressKept, Agent.retired]

/-- An agent whose a14 takes the link of a call. -/
def Agent.linked (link : Option Addr) (a : Agent) : Agent :=
  match link with
  | some v => a.wa 14 v
  | none => a

/-- An agent that has gone to a target, its link written and its marks changed. -/
def Agent.jumped (link : Option Addr) (m : Marks → Marks) (pc target : Word) (kind : Nat) (a : Agent) : Agent :=
  (({ a.linked link with marks := m a.marks } : Agent).branchRecord pc target kind).setPc target

@[simp] theorem jumped_status (link : Option Addr) (m : Marks → Marks) (pc t : Word) (k : Nat) (a : Agent) :
    (a.jumped link m pc t k).status = a.status := by cases link <;> rfl

/-- The next state of an instruction that goes to a target. -/
theorem run_jump {s : State} {i : Instr} {r : Rule} {target : Word} {kind : Nat} {link : Option Addr} {body : Issue → M Unit}
    {m : Marks → Marks} (hr : (s.ag s.cur).status = .run) (hp : s.pre s.issue i r = none) (hc : r.cut = false ∧ r.pre = false)
    (hb : body s.issue (s.begin_ s.issue)
      = .ok ((), (s.begin_ s.issue).modAg s.cur (Agent.jumped link m (s.ag s.cur).regs.pc target kind))) :
    s.run i r body = .next ((s.begin_ s.issue).modAg s.cur
      (fun a => (a.jumped link m (s.ag s.cur).regs.pc target kind).retired (s.ag s.cur).regs.pc false)) := by
  rw [run_ok hp (.inl (by simp [hc])) hb _ (.inl hc.1), modAg_modAg, hc.1]
  simp [hr]

theorem jumps_of_next {s : State} {i : Instr} {target : Word} {kind : Nat} {link : Option Addr} {m : Marks → Marks}
    (hr : (s.ag s.cur).status = .run)
    (hx : exec i s = .next ((s.begin_ s.issue).modAg s.cur
      (fun a => (a.jumped link m (s.ag s.cur).regs.pc target kind).retired (s.ag s.cur).regs.pc false))) :
    s.Jumps i target kind link := by
  refine ⟨_, hx, ⟨rfl, fun g hg => ?_⟩, ?_⟩
  · rw [modAg_ag_ne _ _ _ hg, begin_ag_ne _ hg]
  rw [modAg_ag_self, begin_ag]
  cases link with
  | none =>
    refine ⟨⟨hr, rfl, rfl, rfl, rfl, rfl⟩, ⟨rfl, rfl, rfl, rfl, rfl, rfl, rfl, rfl, rfl⟩, ⟨rfl, rfl, rfl, rfl⟩, rfl, rfl⟩
  | some v =>
    exact ⟨⟨hr, rfl, rfl, rfl, rfl, rfl⟩, ⟨rfl, rfl, rfl, rfl, rfl, rfl, rfl, rfl, rfl⟩, ⟨rfl, rfl, rfl, rfl⟩, rfl, fun r => wa_ra _ _ _ _⟩

/-- An instruction for every agent that goes to a target. -/
theorem jumps_of_body {s : State} {i : Instr} {target : Word} {kind : Nat} {link : Option Addr} {body : Issue → M Unit}
    (m : Marks → Marks) (hr : s.Ready i) (hx : exec i s = s.run i .both body)
    (hb : body s.issue (s.begin_ s.issue)
      = .ok ((), (s.begin_ s.issue).modAg s.cur (Agent.jumped link m (s.ag s.cur).regs.pc target kind))) :
    s.Jumps i target kind link :=
  jumps_of_next hr.1 (hx.trans (run_jump hr.1 (pre_ready hr rfl rfl rfl rfl rfl) ⟨rfl, rfl⟩ hb))

/-- The target of an offset field (R51, R52). -/
theorem issue_target (s : State) {w : Nat} (hw : 0 < w) (o : BitVec w) :
    s.issue.target w o.toNat = (s.ag s.cur).wordAddr + BitVec.ofInt 64 (4 * wideInt (s.ag s.cur).regs.pfx w o.toNat) := by
  rw [Issue.target, issue_immS s hw, issue_at]

/-- A branch goes to its target where its condition holds and else falls through. -/
theorem branch_goes {s : State} {i : Instr} {a b : Fin 32} {o : BitVec 13} {c : Word → Word → Bool} {p : Prop} (hr : s.Ready i)
    (hx : exec i s = s.run i .both (branch a b o c)) (hp : c ((s.ag s.cur).rs a) ((s.ag s.cur).rs b) = true ↔ p) :
    (p → s.Jumps i ((s.ag s.cur).wordAddr + BitVec.ofInt 64 (4 * wideInt (s.ag s.cur).regs.pfx 13 o.toNat)) 0 none) ∧ (¬ p → s.Idle i) := by
  have hc : c (((s.begin_ s.issue).ag s.issue.g).rs a) (((s.begin_ s.issue).ag s.issue.g).rs b) = true ↔ p := by
    rw [issue_g, begin_rs, begin_rs, hp]
  constructor
  · intro h
    refine jumps_of_body id hr hx ?_
    rw [branch, if_pos (hc.2 h), issue_target s (by decide)]
    rfl
  · intro h
    exact idle_of_body hr hx (if_neg (mt hc.1 h))

theorem decBranch_fn {n : Nat} (h : 6 ≤ n / 2 ^ 23 % 8) : decBranch n = .error .fn := by
  have hf : fld n 23 3 = n / 2 ^ 23 % 8 := rfl
  unfold decBranch
  split
  case h_7 => rfl
  all_goals omega

/-- Settles O14: each branch tests its condition, and the decoder refuses the other codes. -/
theorem branchTargets : Obligations.BranchTargets := by
  refine ⟨fun s a b o hr => ?_, fun n hn h => by rw [decodeNat_branch hn, decBranch_fn h]⟩
  intro x y target goes
  exact ⟨branch_goes hr rfl decide_eq_true_iff, branch_goes hr rfl decide_eq_true_iff, branch_goes hr rfl (by simp [BitVec.slt, x, y]),
    branch_goes hr rfl (by simp [BitVec.slt, x, y]), branch_goes hr rfl (by simp [BitVec.ult, x, y]),
    branch_goes hr rfl (by simp [BitVec.ult, x, y])⟩

/-- Settles O15: both go to the target of the offset, CALL with its link. -/
theorem jumpAndCall : Obligations.JumpAndCall := by
  intro s o hr target
  have ht : s.issue.target 26 o.toNat = target := issue_target s (by decide) o
  refine ⟨jumps_of_body id hr rfl ?_, jumps_of_body id hr rfl ?_⟩
  · rw [ht]
    rfl
  · rw [ht, bind_ok (modA_ok _ _ _), goTo, modA_ok, issue_g, modAg_modAg]
    rfl

/-- The body of JR and CALLR where the target is a multiple of four. -/
theorem jumpReg_aligned {s : State} {a : Fin 16} {call : Bool} (h : ((s.ag s.cur).ra a).toNat % 4 = 0) :
    jumpReg a call s.issue (s.begin_ s.issue) = .ok ((), (s.begin_ s.issue).modAg s.cur
      (Agent.jumped (if call then some (s.after.setWidth 72) else none)
        (fun m => { m with jumpWin := ((s.ag s.cur).ra a).toNat / 2 ^ 64 }) (s.ag s.cur).regs.pc (((s.ag s.cur).ra a).setWidth 64)
        (if call then 1 else 2))) := by
  simp only [jumpReg, issue_g, begin_ra]
  rw [if_neg (not_not.2 h), goTo, modA_ok, issue_g, modAg_modAg]
  cases call
  · rfl
  · rw [if_pos rfl, modAg_modAg]
    rfl

/-- JR and CALLR with a good target: they jump, and the window byte is kept for the fetch. -/
theorem jumpReg_jumps {s : State} {i : Instr} {a : Fin 16} {call : Bool} (hr : s.Ready i)
    (hx : exec i s = s.run i .both (jumpReg a call)) (h : ((s.ag s.cur).ra a).toNat % 4 = 0) :
    s.Jumps i (((s.ag s.cur).ra a).setWidth 64) (if call then 1 else 2) (if call then some (s.after.setWidth 72) else none)
      ∧ ∃ u, exec i s = .next u ∧ (u.ag s.cur).marks.jumpWin = ((s.ag s.cur).ra a).toNat / 2 ^ 64 := by
  have hn := hx.trans (run_jump hr.1 (pre_ready hr rfl rfl rfl rfl rfl) ⟨rfl, rfl⟩ (jumpReg_aligned h))
  refine ⟨jumps_of_next hr.1 hn, _, hn, ?_⟩
  rw [modAg_ag_self]
  rfl

theorem jumpReg_traps {s : State} {i : Instr} {a : Fin 16} {call : Bool} (hr : s.Ready i)
    (hx : exec i s = s.run i .both (jumpReg a call)) (h : ((s.ag s.cur).ra a).toNat % 4 ≠ 0) :
    s.Traps i { cause := 0x08, val := ((s.ag s.cur).ra a).setWidth 64, win := ((s.ag s.cur).ra a).toNat / 2 ^ 64 } := by
  refine traps_of_body hx (pre_ready hr rfl rfl rfl rfl rfl) (.inl rfl) ?_
  simp only [jumpReg, issue_g, begin_ra]
  exact if_pos h

/-- Settles O16: the target is read first, and a bad one stops the instruction before any effect. -/
theorem registerJumps : Obligations.RegisterJumps := by
  intro s a hr t keeps
  refine ⟨fun h => ?_, fun h => ⟨jumpReg_traps (call := false) hr rfl h, jumpReg_traps (call := true) hr rfl h⟩⟩
  obtain ⟨hj, hk⟩ := jumpReg_jumps (call := false) hr rfl h
  obtain ⟨hj', hk'⟩ := jumpReg_jumps (i := .callr a) (call := true) hr rfl h
  exact ⟨hj, hk, hj', hk'⟩

/-! ### ADDR (R61) -/

/-- An instruction whose body writes one address register with a function of its agent's registers. -/
theorem address_of_fun {s : State} {i : Instr} {d : Fin 16} {v : Addr} (f : Agent → Addr) {body : Issue → M Unit} (hr : s.Ready i)
    (hx : exec i s = s.run i .both body) (hb : body s.issue = modA s.issue (fun a => a.wa d (f a)))
    (hv : f ((s.begin_ s.issue).ag s.cur) = v) : s.Address i d v := by
  have hn := hx.trans (run_modAg (fun a => a.wa d v) hr (fun _ => rfl)
    (by rw [hb, modA_ok, issue_g, modAg_const, hv, ← modAg_const _ _ (fun a => a.wa d v)]))
  refine ⟨_, hn, ⟨rfl, fun g hg => ?_⟩, ?_⟩
  · rw [modAg_ag_ne _ _ _ hg, begin_ag_ne _ hg]
  rw [modAg_ag_self, begin_ag]
  exact ⟨⟨hr.1, rfl, rfl, rfl, rfl, rfl⟩, ⟨rfl, rfl, rfl, rfl, rfl, rfl, rfl, rfl, rfl⟩, rfl, rfl, fun r => wa_ra _ _ _ _⟩

/-- Adding a signed offset to an address. -/
theorem add_ofInt_eq (x : Addr) (k : Int) : x + BitVec.ofInt 72 k = BitVec.ofInt 72 (x.toNat + k) := by
  rw [BitVec.ofInt_add, BitVec.ofInt_natCast, BitVec.ofNat_toNat, BitVec.setWidth_eq]

/-- The difference of two addresses, cut to 64 bits. -/
theorem offOf_sub (x y : Addr) : offOf (x - y) = BitVec.ofInt 64 (x.toNat - y.toNat) := by
  rw [offOf]
  apply BitVec.eq_of_toNat_eq
  rw [BitVec.toNat_setWidth, BitVec.toNat_sub, BitVec.toNat_ofInt]
  omega

/-- Settles O17: each instruction writes its value. -/
theorem addressResults : Obligations.AddressResults := by
  intro s d a b e x i ag X
  have hra (r : Fin 16) : ((s.begin_ s.issue).ag s.cur).ra r = ag.ra r := begin_ra s r
  have hrs (r : Fin 32) : ((s.begin_ s.issue).ag s.cur).rs r = ag.rs r := begin_rs s r
  refine ⟨fun hr => ?_, fun hr => ?_, fun hr => ?_, fun hr => ?_, fun hr => ?_, fun hr => ?_⟩
  · exact address_of_fun (fun y => y.ra a + BitVec.ofInt 72 (y.rs x).toInt) hr rfl rfl (by rw [hra, hrs, add_ofInt_eq])
  · refine address_of_fun (fun y => y.ra a + BitVec.ofInt 72 (BitVec.ofInt 64 (s.issue.immS 13 i.toNat)).toInt) hr rfl rfl ?_
    rw [hra, add_ofInt_eq, issue_immS s (by decide)]
  · refine address_of_fun (fun y => mkAddr (s.issue.immU 13 i.toNat % 2 ^ 8) ((y.rs x).toNat + s.issue.immU 13 i.toNat / 2 ^ 8)) hr rfl rfl ?_
    rw [hrs, issue_immU]
    rfl
  · exact scalar_of_fun (fun y => offOf (y.ra a)) hr rfl rfl (by rw [hra]; rfl)
  · exact scalar_of_fun (fun y => BitVec.ofNat 64 (winOf (y.ra a))) hr rfl rfl (by rw [hra]; rfl)
  · exact scalar_of_fun (fun y => offOf (y.ra a - y.ra b)) hr rfl rfl (by rw [hra, hra, offOf_sub])

end Sys2Proof.Machine
end

section
/-! Bytes and the places they are put to; the statements O3 and O10 are settled here. -/

namespace Sys2Proof.Machine

/-! ### Little-endian bytes (R4) -/

theorem byteOf_succ (v k : Nat) : byteOf v (k + 1) = byteOf (v / 256) k := by
  rw [byteOf, byteOf, Nat.div_div_eq_div_mul, Nat.mul_add, Nat.add_comm, Nat.pow_add]

theorem leBytes_eq_map : ∀ n v : Nat, leBytes n v = (List.range n).map (byteOf v) := by
  intro n
  induction n with
  | zero => intro v; rfl
  | succ n ih =>
    intro v
    rw [leBytes, ih, List.range_succ_eq_map, List.map_cons, List.map_map]
    congr 1
    · simp [byteOf]
    · exact List.map_congr_left fun k _ => (byteOf_succ v k).symm

theorem leNat_leBytes : ∀ n v : Nat, leNat (leBytes n v) = v % 2 ^ (8 * n) := by
  intro n
  induction n with
  | zero => intro v; simp [leBytes, leNat, Nat.mod_one]
  | succ n ih =>
    intro v
    have e : 2 ^ (8 * (n + 1)) = 256 * 2 ^ (8 * n) := by rw [Nat.mul_add, Nat.add_comm, Nat.pow_add]
    rw [leBytes, leNat, ih, BitVec.toNat_ofNat, e, Nat.mod_mul]

theorem leNat_lt (l : List Byte) : leNat l < 2 ^ (8 * l.length) := by
  induction l with
  | nil => simp [leNat]
  | cons b t ih =>
    have e : 2 ^ (8 * (t.length + 1)) = 256 * 2 ^ (8 * t.length) := by rw [Nat.mul_add, Nat.add_comm, Nat.pow_add]
    have hb := b.isLt
    rw [leNat, List.length_cons, e]
    omega

theorem leBytes_leNat (l : List Byte) : leBytes l.length (leNat l) = l := by
  induction l with
  | nil => rfl
  | cons b t ih =>
    have hb := b.isLt
    have hd : (b.toNat + 256 * leNat t) / 256 = leNat t := by omega
    rw [List.length_cons, leBytes, leNat, hd, ih]
    congr 1
    apply BitVec.eq_of_toNat_eq
    rw [BitVec.toNat_ofNat]
    omega

/-- The bytes of the value of some bytes are those bytes. -/
theorem byteOf_leNat_map {n k : Nat} (f : Nat → Byte) (h : k < n) : byteOf (leNat ((List.range n).map f)) k = f k := by
  have e := leBytes_leNat ((List.range n).map f)
  rw [List.length_map, List.length_range, leBytes_eq_map] at e
  have := congrArg (fun l : List Byte => l[k]?) e
  simpa [h] using this

/-! ### The last byte that a list of writes gives a place -/

/-- A place lies within `n` bytes from another. -/
abbrev Place.within (r p : Place) (n : Nat) : Prop := r.space = p.space ∧ p.addr ≤ r.addr ∧ r.addr < p.addr + n

theorem Place.not_within {r p : Place} {n : Nat} (h : r.space ≠ p.space ∨ r.addr < p.addr ∨ p.addr + n ≤ r.addr) : ¬ r.within p n := by
  rintro ⟨hs, hl, hh⟩
  rcases h with h | h | h
  · exact h hs
  · omega
  · omega

theorem Place.plus_within (p : Place) {k n : Nat} (h : k < n) : (p.plus k).within p n := ⟨rfl, Nat.le_add_right _ _, Nat.add_lt_add_left h _⟩

theorem Place.eq_plus {r p : Place} {n : Nat} (h : r.within p n) : r = p.plus (r.addr - p.addr) := by
  obtain ⟨sr, ar⟩ := r
  obtain ⟨hs, hl, -⟩ := h
  simp only [Place.plus] at *
  rw [hs, Nat.add_sub_cancel' hl]

theorem lastByte_append (p : Place) (l m : List (Place × Byte)) : lastByte p (l ++ m) = (lastByte p m).orElse (fun _ => lastByte p l) := by
  unfold lastByte
  rw [List.foldl_append]
  generalize l.foldl (fun acc x => if x.1 = p then some x.2 else acc) none = c
  suffices ∀ d : Option Byte, m.foldl (fun acc x => if x.1 = p then some x.2 else acc) (d.orElse fun _ => c)
      = (m.foldl (fun acc x => if x.1 = p then some x.2 else acc) d).orElse (fun _ => c) from this none
  induction m with
  | nil => intro d; rfl
  | cons x t ih =>
    intro d
    rw [List.foldl_cons, List.foldl_cons, ← ih]
    by_cases hx : x.1 = p <;> simp [hx]

/-- Bytes written one after another from a place on. -/
theorem lastByte_run (r p : Place) (f : Nat → Byte) (n : Nat) :
    lastByte r ((List.range n).map (fun k => (p.plus k, f k))) = if r.within p n then some (f (r.addr - p.addr)) else none := by
  induction n with
  | zero =>
    have : ¬ r.within p 0 := fun h => by have := h.2; omega
    simp [lastByte, this]
  | succ n ih =>
    have single : lastByte r [(p.plus n, f n)] = if p.plus n = r then some (f n) else none := rfl
    rw [List.range_succ, List.map_append, List.map_singleton, lastByte_append, single, ih]
    by_cases e : p.plus n = r
    · subst e
      simp [Place.plus]
    · have hw : r.within p (n + 1) ↔ r.within p n := by
        constructor
        · intro h
          refine ⟨h.1, h.2.1, ?_⟩
          by_contra hn
          have hr := Place.eq_plus h
          have : r.addr - p.addr = n := by have := h.2; omega
          exact e (by rw [hr, this])
        · exact fun h => ⟨h.1, h.2.1, by have := h.2; omega⟩
      simp [e, hw]

theorem placeBytes_eq_map (p : Place) (n v : Nat) : placeBytes p (leBytes n v) = (List.range n).map (fun k => (p.plus k, byteOf v k)) := by
  apply List.ext_getElem?
  intro k
  rw [placeBytes, leBytes_eq_map]
  by_cases h : k < n
  · simp [h]
  · simp [h]

/-- A place after a list of writes holds the last of them, or what it held. -/
theorem setBytes_byte (bs : List (Place × Byte)) (r : Place) : ∀ {s : State}, s.MemoryOk →
    (s.setBytes bs).byte r = (lastByte r bs).getD (s.byte r) := by
  induction bs with
  | nil => intro s _; rfl
  | cons x t ih =>
    intro s h
    have hc : lastByte r (x :: t) = (lastByte r t).orElse (fun _ => lastByte r [x]) := lastByte_append r [x] t
    have single : lastByte r [x] = if x.1 = r then some x.2 else none := rfl
    show ((s.setByte x.1 x.2).setBytes t).byte r = _
    rw [ih (setByte_memoryOk h _ _), hc, single]
    by_cases e : x.1 = r
    · subst e
      rw [setByte_byte_self h]
      cases lastByte x.1 t <;> simp
    · rw [setByte_byte_ne h _ (Ne.symm e)]
      cases lastByte r t <;> simp [e]

/-- A value written at a place: its bytes there, every other byte as before. -/
theorem setBytes_value {s : State} (h : s.MemoryOk) (p : Place) (n v : Nat) :
    (∀ k < n, (s.setBytes (placeBytes p (leBytes n v))).byte (p.plus k) = byteOf v k)
    ∧ ∀ r : Place, ¬ r.within p n → (s.setBytes (placeBytes p (leBytes n v))).byte r = s.byte r := by
  refine ⟨fun k hk => ?_, fun r hr => ?_⟩
  · rw [setBytes_byte _ _ h, placeBytes_eq_map, lastByte_run, if_pos (Place.plus_within p hk)]
    simp [Place.plus]
  · rw [setBytes_byte _ _ h, placeBytes_eq_map, lastByte_run, if_neg hr]
    rfl

/-! ### A word placed where the step fetches (log entry 11) -/

theorem withFetchWord_place {s : State} {p : Place} (w : Nat) (hp : ({ s with agenda := [] } : State).fetchPlace = some p) :
    s.withFetchWord 32 w = ({ s with agenda := [] } : State).setBytes (placeBytes p (leBytes 4 w)) := by
  simp only [State.withFetchWord, State.placeWord, hp]
  rfl

/-- Settles O3: the place of the fetch is the one written. -/
theorem placedWordIsFetched : Obligations.PlacedWordIsFetched := by
  intro s p w hm hw hp
  obtain ⟨hin, hout⟩ := setBytes_value (s := { s with agenda := [] }) hm p 4 w
  rw [withFetchWord_place w hp]
  refine ⟨?_, fun r hr => hout r (Place.not_within hr)⟩
  have : State.bytes (State.setBytes { s with agenda := [] } (placeBytes p (leBytes 4 w))) p 4 = leBytes 4 w := by
    exact (List.map_congr_left fun k hk => hin k (List.mem_range.1 hk)).trans (leBytes_eq_map 4 w).symm
  rw [this, leNat_leBytes, Nat.mod_eq_of_lt hw]

/-! ### Reset -/

theorem reset_func (f : Nat) : State.reset.func f = {} := rfl
theorem reset_lq (q : Nat) : State.reset.lq q = {} := rfl
theorem reset_pagePart (f : Nat) : State.reset.pagePart f = none := by
  simp only [State.pagePart, reset_func]
  exact ite_self none
theorem reset_journal (k : Nat) : Assoc.get [] k State.reset.fw.journals = [] := rfl
theorem reset_atomlack : State.reset.link.atomlack = 0 := rfl

theorem leNat_replicate_zero : ∀ n : Nat, leNat (List.replicate n 0#8) = 0
  | 0 => rfl
  | n + 1 => by rw [List.replicate_succ, leNat, leNat_replicate_zero n]; rfl

theorem reset_devReg (f off : Nat) : State.reset.devReg f off = 0 := by
  simp [State.devReg, reset_func, reset_lq, reset_pagePart, reset_journal, reset_atomlack, leNat_replicate_zero, -List.reduceReplicate]

theorem reset_byte (p : Place) : State.reset.byte p = 0 := by
  obtain ⟨sp, a⟩ := p
  cases sp <;> rfl

theorem reset_berth (q k : Nat) : (State.reset.qy q).berths.toList.getD k {} = {} := by
  have h : (State.reset.qy q).berths.toList = List.replicate 16 {} := rfl
  rw [h, List.getD_eq_getElem?_getD, List.getElem?_replicate]
  split <;> rfl

/-- Settles O10: every table is empty, so each entry is the default. -/
theorem resetIsEmpty : Obligations.ResetIsEmpty :=
  ⟨rfl, rfl, fun _ => rfl, fun _ => rfl, fun _ => rfl, fun _ => rfl, rfl, reset_devReg, rfl, reset_berth, reset_byte⟩

end Sys2Proof.Machine
end

section
/-! What an access depends on, and the scalar loads (R55, R56, R222). The statement O19 is settled here. -/

namespace Sys2Proof.Machine

/-! ### States that hold the same bytes, and states that translate alike -/

/-- Two states hold the same bytes, device registers, poison and error marks, and have the same partitions. -/
structure State.SameBytes (s t : State) : Prop where
  mem : t.mem = s.mem
  quays : t.quays = s.quays
  fw : t.fw = s.fw
  link : t.link = s.link
  modid : t.modid = s.modid
  poison : t.poison = s.poison
  ue : t.ue = s.ue

/-- Two states also translate every access alike: the same translations are cached, and a free choice falls alike. -/
structure State.SameMaps (s t : State) : Prop extends s.SameBytes t where
  tlb : t.tlb = s.tlb
  free : t.free = s.free

namespace State.SameBytes
variable {s t : State} (h : s.SameBytes t)
include h

theorem qy (q : Nat) : t.qy q = s.qy q := by simp only [State.qy, h.quays]
theorem tile (q : Nat) : t.tile q = s.tile q := by simp only [State.tile, h.qy]
theorem part (p : Nat) : t.part p = s.part p := by simp only [State.part, h.fw]
theorem func (f : Nat) : t.func f = s.func f := by simp only [State.func, h.fw]
theorem ctx (c : Nat) : t.ctx c = s.ctx c := by simp only [State.ctx, h.fw]
theorem byte (p : Place) : t.byte p = s.byte p := by simp only [State.byte, h.mem, h.qy, h.link]
theorem bytes (p : Place) (n : Nat) : t.bytes p n = s.bytes p n := by simp only [State.bytes, h.byte]
theorem u64 (a : Nat) : t.u64 a = s.u64 a := by simp only [State.u64, h.bytes]
theorem pagePart (f : Nat) : t.pagePart f = s.pagePart f := by simp only [State.pagePart, h.func, h.fw]
theorem lq (q : Nat) : t.lq q = s.lq q := by simp only [State.lq, h.fw]
theorem journalKey (f : Nat) : t.journalKey f = s.journalKey f := by simp only [State.journalKey, h.func]
theorem devReg (f off : Nat) : t.devReg f off = s.devReg f off := by
  unfold State.devReg
  rw [h.func, h.pagePart, h.journalKey, h.lq, funext h.part, h.link, h.fw]
theorem devByte (a : Nat) : t.devByte a = s.devByte a := by simp only [State.devByte, h.devReg]
theorem poisoned (p : Place) : t.poisoned p = s.poisoned p := by simp only [State.poisoned, h.poison, h.qy]
theorem uncorrectable (p : Place) : t.uncorrectable p = s.uncorrectable p := by simp only [State.uncorrectable, h.ue, h.qy]
theorem badRead (p : Place) (n : Nat) : t.badRead p n = s.badRead p n := by simp only [State.badRead, h.uncorrectable, h.poisoned]
theorem heldAt (p : Place) : t.heldAt p = s.heldAt p := by simp only [State.heldAt, h.qy]
theorem away (p : Place) : t.away p = s.away p := by simp only [State.away, h.modid]
theorem memoryOk (hs : s.MemoryOk) : t.MemoryOk := memoryOk_congr hs h.mem (by rw [h.link]) h.quays
theorem inBound (p pa n m : Nat) : t.inBound p pa n m = s.inBound p pa n m := by
  simp only [State.inBound, h.part, h.pagePart, h.modid]
theorem mayMap (p pa n m : Nat) : t.mayMap p pa n m = s.mayMap p pa n m := by simp only [State.mayMap, h.inBound, h.fw]
theorem rootFault (p : Nat) : t.rootFault p = s.rootFault p := by simp only [State.rootFault, h.part, h.inBound]
theorem sealed (pa : Nat) : t.sealed pa = s.sealed pa := by simp only [State.sealed, h.fw]

theorem walk (p va : Nat) : ∀ k lvl table, t.walk p k lvl table va = s.walk p k lvl table va := by
  intro k
  induction k with
  | zero => intros; rfl
  | succ k ih =>
    intro lvl table
    simp only [State.walk, h.u64, h.inBound, h.mayMap, ih]

theorem l3Of (p va : Nat) : ∀ k lvl table, t.l3Of p va k lvl table = s.l3Of p va k lvl table := by
  intro k
  induction k with
  | zero => intros; rfl
  | succ k ih =>
    intro lvl table
    simp only [State.l3Of, h.u64, h.inBound, ih]

theorem members (p va : Nat) : t.members p va = s.members p va := by
  simp only [State.members, h.rootFault, h.l3Of, h.part, h.byte, h.u64]

/-- What an agent sees is the bytes and what its own buffers hold over them. -/
theorem seen {g : Nat} (hb : (t.ag g).strip.buf = (s.ag g).strip.buf) (hm : (t.ag g).mem = (s.ag g).mem) (p : Place) :
    t.seen g p = s.seen g p := by
  simp only [State.seen, hb, hm, h.devByte, h.byte]

theorem badSeen {g : Nat} (hb : (t.ag g).strip.buf = (s.ag g).strip.buf) (p : Place) (n : Nat) : t.badSeen g p n = s.badSeen g p n := by
  simp only [State.badSeen, hb, h.uncorrectable, h.poisoned]

end State.SameBytes

namespace State.SameMaps
variable {s t : State} (h : s.SameMaps t)
include h

theorem ownLeaf (p va : Nat) : t.ownLeaf p va = s.ownLeaf p va := by
  simp only [State.ownLeaf, h.rootFault, h.walk, h.part, h.tlb]
theorem leaf (p va : Nat) : t.leaf p va = s.leaf p va := by
  simp only [State.leaf, h.members, h.ownLeaf, h.mayMap, h.tlb, h.free]
theorem xlate (b : Actor) (a : Addr) (k : Acc) : t.xlate b a k = s.xlate b a k := by
  simp only [State.xlate, h.leaf, h.sealed, h.part, h.func, h.link]

end State.SameMaps

theorem State.SameBytes.refl (s : State) : s.SameBytes s := ⟨rfl, rfl, rfl, rfl, rfl, rfl, rfl⟩
theorem State.SameBytes.trans {s t u : State} (h : s.SameBytes t) (h' : t.SameBytes u) : s.SameBytes u :=
  ⟨h'.mem.trans h.mem, h'.quays.trans h.quays, h'.fw.trans h.fw, h'.link.trans h.link, h'.modid.trans h.modid, h'.poison.trans h.poison,
    h'.ue.trans h.ue⟩
theorem modAg_sameMaps (s : State) (g : Nat) (f : Agent → Agent) : s.SameMaps (s.modAg g f) := ⟨⟨rfl, rfl, rfl, rfl, rfl, rfl, rfl⟩, rfl, rfl⟩
theorem modAg_sameBytes (s : State) (g : Nat) (f : Agent → Agent) : s.SameBytes (s.modAg g f) := (modAg_sameMaps s g f).toSameBytes

/-! ### The translations that an access keeps -/

/-- Keeping a translation changes the cached ones only. -/
theorem keep_tlb (s : State) (b : Actor) (h : Hit) : s.keep b h = { s with tlb := (s.keep b h).tlb } := by
  unfold State.keep
  cases h.leaf with
  | none => rfl
  | some l =>
    show s.cache b.part l = { s with tlb := (s.cache b.part l).tlb }
    unfold State.cache
    generalize (if pteBit l.pte 9 then _ else _ : TlbEntry) = e
    dsimp only
    split <;> rfl

@[simp] theorem keep_ag (s : State) (b : Actor) (h : Hit) (g : Nat) : (s.keep b h).ag g = s.ag g := by rw [keep_tlb]; rfl
@[simp] theorem keep_qy (s : State) (b : Actor) (h : Hit) (q : Nat) : (s.keep b h).qy q = s.qy q := by rw [keep_tlb]; rfl
@[simp] theorem keep_cycleOf (s : State) (b : Actor) (h : Hit) (g : Nat) : (s.keep b h).cycleOf g = s.cycleOf g := by rw [keep_tlb]; rfl
theorem keep_sameBytes (s : State) (b : Actor) (h : Hit) : s.SameBytes (s.keep b h) := by
  rw [keep_tlb]
  exact ⟨rfl, rfl, rfl, rfl, rfl, rfl, rfl⟩

/-! ### The check of an access -/

/-- An agent accesses alike: its context, what it knows of failed pages, and its watchpoints. -/
structure Agent.SameAccess (a b : Agent) : Prop where
  part : b.part = a.part
  ctx : b.ctx = a.ctx
  atsFail : b.marks.atsFail = a.marks.atsFail
  trap : b.trap = a.trap

theorem actor_same {s t : State} {g : Nat} (h : s.SameBytes t) (ha : (s.ag g).SameAccess (t.ag g)) : t.actor g = s.actor g := by
  simp only [State.actor, ha.part, ha.ctx, ha.atsFail, h.ctx]

theorem watchHit_same {s t : State} {is : Issue} (ha : (s.ag is.g).SameAccess (t.ag is.g)) (a : Addr) (n : Nat) (k : Acc) :
    t.watchHit is a n k = s.watchHit is a n k := by
  simp only [State.watchHit, ha.trap]

theorem check_same {s t : State} {is : Issue} (h : s.SameMaps t) (ha : (s.ag is.g).SameAccess (t.ag is.g)) (a : Addr) (n al : Nat) (k : Acc)
    (e : Nat) : t.check is a n al k e = s.check is a n al k e := by
  simp only [State.check, actor_same h.toSameBytes ha, h.xlate, watchHit_same ha, State.watchTrap, h.ctx, ha.ctx, h.heldAt]

theorem begin_sameMaps (s : State) : s.SameMaps (s.begin_ s.issue) := modAg_sameMaps _ _ _
theorem begin_sameAccess (s : State) : (s.ag s.cur).SameAccess ((s.begin_ s.issue).ag s.cur) := by
  rw [begin_ag]
  exact ⟨rfl, rfl, rfl, rfl⟩

/-- An access that passes its checks. -/
theorem check_reaches {s : State} {a : Addr} {n : Nat} {k : Acc} {h : Hit} (hr : s.Reaches a n k h) (e : Nat) :
    s.check s.issue a n n k e = .ok h := by
  obtain ⟨hal, hx, hw, hh⟩ := hr
  have hx' : s.xlate (s.actor s.issue.g) a k = .ok h := hx
  simp only [State.check]
  rw [if_neg (not_not.2 hal), hx']
  simp only [hw, hh]
  rfl

theorem access_reaches {s : State} {a : Addr} {n : Nat} {k : Acc} {h : Hit} (hr : s.Reaches a n k h) :
    access s.issue a n k (s.begin_ s.issue) = .ok (h, (s.begin_ s.issue).keep (s.actor s.cur) h) := by
  have hc : (s.begin_ s.issue).check s.issue a n n k noElem = .ok h :=
    (check_same (begin_sameMaps s) (begin_sameAccess s) _ _ _ _ _).trans (check_reaches hr _)
  simp only [access, hc, issue_g, actor_same (begin_sameMaps s).toSameBytes (begin_sameAccess s)]

/-! ### The memory ring (R353) -/

/-- An agent whose memory ring has taken a record. -/
def Agent.recorded (m : MemRec) (x : Agent) : Agent :=
  { x with trace := { x.trace with memory := Assoc.set (x.trace.mhead % 64) m x.trace.memory, mhead := (x.trace.mhead + 1) % 64 } }

theorem memRecord_recorded (s : State) (g : Nat) (a : Addr) (kind size count : Nat) :
    ∃ m, s.memRecord g a kind size count = s.modAg g (Agent.recorded m) := ⟨_, rfl⟩

/-! ### What a read leaves in a Wharf (R222) -/

theorem scrub_noErrors {s : State} (h : s.NoErrors) (p : Place) (n : Nat) : s.scrub p n = s := by
  unfold State.scrub
  split
  · next q _ => simp [h q]
  · rfl
  · rfl

@[simp] theorem scrub_ag (s : State) (p : Place) (n g : Nat) : (s.scrub p n).ag g = s.ag g := by
  unfold State.scrub
  split
  · dsimp only; split <;> rfl
  · rfl
  · rfl

theorem scrub_byte (s : State) (p : Place) (n : Nat) (r : Place) : (s.scrub p n).byte r = s.byte r := by
  unfold State.scrub
  split
  · dsimp only
    split
    · rw [modQy_byte]
      exact fun _ => ⟨rfl, rfl⟩
    · rfl
  · rfl
  · rfl

/-! ### Scalar loads (R55, R56) -/

theorem eaOf_eq (s : State) (a : Fin 16) (o : BitVec 13) (n : Nat) : s.eaOf a o n = s.eaddr a o n := by
  rw [State.eaOf, State.eaddr, Issue.ea, issue_immS s (by decide)]

/-- An agent after a load: its ring has the record, its register the value, and the instruction has retired. -/
def Agent.loaded (m : MemRec) (w : Agent → Agent) (pc : Word) (c : Bool) (a : Agent) : Agent := (w (a.recorded m)).retired pc c

/-- The next state of a load whose access passes its checks and meets nothing bad. -/
theorem run_load {s : State} {i : Instr} {a : Addr} {n : Nat} {h : Hit} (w : Nat → Agent → Agent) (hr : s.Ready i)
    (ha : s.Reaches a n Acc.load h) (hc : s.NoCutAt a) (hb : s.badSeen s.cur h.place n = none)
    (hw : ∀ (v : Nat) (b : Agent), (w v b).status = b.status ∧ (w v b).strip = b.strip) :
    ∃ m, s.run i (s.loadRule a) (fun is => do let x ← loadM is a n; modA is (w x))
      = .next ((((s.begin_ s.issue).keep (s.actor s.cur) h).scrub h.place n).modAg s.cur
          (Agent.loaded m (w (s.seenNat s.cur h.place n)) (s.ag s.cur).regs.pc (s.isDevice s.cur a))) := by
  let s1 := (s.begin_ s.issue).keep (s.actor s.cur) h
  have hsame : s.SameBytes s1 := (begin_sameMaps s).toSameBytes.trans (keep_sameBytes _ _ _)
  have hag : s1.ag s.cur = (s.begin_ s.issue).ag s.cur := keep_ag _ _ _ _
  have hbuf : (s1.ag s.cur).strip.buf = (s.ag s.cur).strip.buf := by rw [hag, begin_ag]
  have hmem : (s1.ag s.cur).mem = (s.ag s.cur).mem := by rw [hag, begin_ag]
  have hseen : s1.seenNat s.cur h.place n = s.seenNat s.cur h.place n := by
    simp only [State.seenNat, funext (fun p => hsame.seen hbuf hmem p)]
  have hread : readHit s.issue a h n s1 = .ok (s.seenNat s.cur h.place n, s1.scrub h.place n) := by
    simp only [readHit, issue_g, hsame.badSeen hbuf, hb, hseen]
  obtain ⟨m, hm⟩ := memRecord_recorded (s1.scrub h.place n) s.cur a 0 (Nat.log2 n) 1
  refine ⟨m, ?_⟩
  have hload : loadM s.issue a n (s.begin_ s.issue)
      = .ok (s.seenNat s.cur h.place n, (s1.scrub h.place n).modAg s.cur (Agent.recorded m)) := by
    rw [loadM, bind_ok (access_reaches ha), bind_ok hread, ← hm]
    rfl
  rw [run_ok (t := (s1.scrub h.place n).modAg s.cur (fun b => w (s.seenNat s.cur h.place n) (b.recorded m)))
    (pre_ready hr rfl rfl rfl rfl rfl)]
  · rw [modAg_modAg]
    rfl
  · rcases hc with hc | hc
    · exact .inr hc
    · exact .inl (by simp [State.loadRule, hc])
  · rw [bind_ok hload, modA_ok, issue_g, modAg_modAg]
  · rw [modAg_ag_self, (hw _ _).1, scrub_ag, hag, begin_ag]
    exact hr.1
  · rcases hc with hc | hc
    · refine .inr ?_
      rw [modAg_ag_self, scrub_ag, hag, begin_ag, Agent.inStrip, (hw _ _).2]
      exact hc
    · exact .inl hc

/-- What a load leaves of its agent, for a load that writes one register. -/
theorem loaded_kept {a : Agent} {m : MemRec} {w : Agent → Agent} {at_ : Word} {c : Bool} (hr : a.status = .run)
    (hw : ∀ b : Agent, ∃ rs ra, w b = { b with regs := { b.regs with s := rs, a := ra } }) :
    let b := (a.begun at_).loaded m w a.regs.pc c
    a.Retired b at_ ∧ a.KeptByMemory b ∧ b.strip = { a.strip with mark := .none } ∧ b.mem = a.mem := by
  intro b
  obtain ⟨rs, ra, e⟩ := hw ((a.begun at_).recorded m)
  have hb : b = _ := congrArg (fun x => Agent.retired x a.regs.pc c) e
  rw [hb]
  exact ⟨⟨hr, rfl, rfl, rfl, rfl, rfl⟩, ⟨rfl, rfl, rfl, rfl, rfl, rfl, rfl, rfl, rfl, rfl⟩, rfl, rfl⟩

theorem ws_regs (a : Agent) (d : Fin 32) (v : Word) : ∃ rs ra, a.ws d v = { a with regs := { a.regs with s := rs, a := ra } } := by
  unfold Agent.ws
  split
  · exact ⟨a.regs.s, a.regs.a, rfl⟩
  · exact ⟨_, _, rfl⟩

theorem wa_regs (a : Agent) (d : Fin 16) (v : Addr) : ∃ rs ra, a.wa d v = { a with regs := { a.regs with s := rs, a := ra } } := ⟨_, _, rfl⟩

/-- The hypotheses of a scalar load of `n` bytes. -/
def State.LoadReady (s : State) (i : Instr) (a : Addr) (n : Nat) (h : Hit) : Prop :=
  s.Ready i ∧ s.Reaches a n Acc.load h ∧ s.NoCutAt a ∧ s.badSeen s.cur h.place n = none

/-- The next state of a load, with what an error-free Wharf leaves of it. -/
theorem load_next {s : State} {i : Instr} {a : Addr} {n : Nat} {h : Hit} (w : Nat → Agent → Agent) {r : Out}
    (hl : s.LoadReady i a n h) (hx : r = s.run i (s.loadRule a) (fun is => do let x ← loadM is a n; modA is (w x)))
    (hw : ∀ (v : Nat) (b : Agent), ∃ rs ra, w v b = { b with regs := { b.regs with s := rs, a := ra } }) :
    ∃ m, r = .next ((((s.begin_ s.issue).keep (s.actor s.cur) h).scrub h.place n).modAg s.cur
      (Agent.loaded m (w (s.seenNat s.cur h.place n)) (s.ag s.cur).regs.pc (s.isDevice s.cur a))) := by
  obtain ⟨hr, ha, hc, hb⟩ := hl
  rw [hx]
  exact run_load w hr ha hc hb fun v b => by obtain ⟨rs, ra, e⟩ := hw v b; rw [e]; exact ⟨rfl, rfl⟩

/-- A load that reaches an error-free Wharf changes nothing but its agent and the cached translations. -/
theorem load_kept {s : State} {i : Instr} {a : Addr} {n : Nat} {h : Hit} (w : Nat → Agent → Agent)
    (hl : s.LoadReady i a n h) (he : s.NoErrors) (hx : exec i s = s.run i (s.loadRule a) (fun is => do let x ← loadM is a n; modA is (w x)))
    (hw : ∀ (v : Nat) (b : Agent), ∃ rs ra, w v b = { b with regs := { b.regs with s := rs, a := ra } }) :
    ∃ t m, exec i s = .next t ∧ s.OnlyAgentAndCache t
      ∧ t.ag s.cur = ((s.begin_ s.issue).ag s.cur).loaded m (w (s.seenNat s.cur h.place n)) (s.ag s.cur).regs.pc (s.isDevice s.cur a) := by
  obtain ⟨m, hm⟩ := load_next w hl hx hw
  have he' : ((s.begin_ s.issue).keep (s.actor s.cur) h).NoErrors := fun q => by rw [keep_qy]; exact he q
  rw [scrub_noErrors he'] at hm
  refine ⟨_, m, hm, ⟨?_, fun g hg => ?_⟩, ?_⟩
  · rw [keep_tlb]
    rfl
  · rw [modAg_ag_ne _ _ _ hg, keep_ag, begin_ag_ne _ hg]
  · rw [modAg_ag_self, keep_ag]

/-- A load into a scalar register. -/
theorem loadsScalar_of_load {s : State} {i : Instr} {d : Fin 32} {a : Addr} {n : Nat} {h : Hit} {v : Word} (f : Nat → Word)
    (hl : s.LoadReady i a n h) (he : s.NoErrors) (hx : exec i s = s.run i (s.loadRule a) (fun is => do let x ← loadM is a n; setS is d (f x)))
    (hv : f (s.seenNat s.cur h.place n) = v) : s.LoadsScalar i d v := by
  obtain ⟨t, m, ht, ho, ha⟩ := load_kept (fun x b => b.ws d (f x)) hl he hx (fun x b => ws_regs b d (f x))
  rw [begin_begun] at ha
  obtain ⟨hret, hkept, hstrip, hmem⟩ := loaded_kept (m := m) (at_ := s.after) (c := s.isDevice s.cur a) hl.1.1
    (fun b => ws_regs b d (f (s.seenNat s.cur h.place n)))
  rw [← ha] at hret hkept hstrip hmem
  refine ⟨t, ht, ho, hret, hkept, hstrip, hmem, ?_, fun r => ?_⟩
  · rw [Agent.AddressKept, ha]
    simp [Agent.loaded, Agent.retired, Agent.recorded, Agent.begun]
  · rw [ha, ← hv, Agent.loaded, retired_rs, ws_rs]
    rfl

theorem load_eq (s : State) (i : Instr) (d : Fin 32) (a : Fin 16) (o : BitVec 13) (n : Nat) (f : Nat → Word) :
    s.load i d a o n f = s.run i (s.loadRule (s.eaddr a o n)) (fun is => do let x ← loadM is (s.eaddr a o n) n; setS is d (f x)) := by
  rw [State.load, eaOf_eq]

/-- An address register loaded from 16 bytes. -/
theorem lda_result {s : State} {e a : Fin 16} {o : BitVec 13} {h : Hit} (hl : s.LoadReady (.lda e a o) (s.eaddr a o 16) 16 h)
    (he : s.NoErrors) :
    ∃ t, exec (.lda e a o) s = .next t ∧ s.OnlyAgentAndCache t ∧ (s.ag s.cur).Retired (t.ag s.cur) s.after
      ∧ (s.ag s.cur).KeptByMemory (t.ag s.cur) ∧ (t.ag s.cur).strip = { (s.ag s.cur).strip with mark := .none }
      ∧ (t.ag s.cur).mem = (s.ag s.cur).mem ∧ (s.ag s.cur).ScalarKept (t.ag s.cur)
      ∧ (s.ag s.cur).AddressIs (t.ag s.cur) e (BitVec.ofNat 72 (s.seenNat s.cur h.place 16 % 2 ^ 72)) := by
  have hx : exec (.lda e a o) s = s.run (.lda e a o) (s.loadRule (s.eaddr a o 16))
      (fun is => do let x ← loadM is (s.eaddr a o 16) 16; modA is (fun b => b.wa e (BitVec.ofNat 72 x))) := by
    rw [← eaOf_eq]
    rfl
  obtain ⟨t, m, ht, ho, ha⟩ := load_kept (fun x b => b.wa e (BitVec.ofNat 72 x)) hl he hx (fun x b => wa_regs b e _)
  rw [begin_begun] at ha
  obtain ⟨hret, hkept, hstrip, hmem⟩ := loaded_kept (m := m) (at_ := s.after) (c := s.isDevice s.cur (s.eaddr a o 16)) hl.1.1
    (fun b => wa_regs b e (BitVec.ofNat 72 (s.seenNat s.cur h.place 16)))
  rw [← ha] at hret hkept hstrip hmem
  refine ⟨t, ht, ho, hret, hkept, hstrip, hmem, ?_, fun r => ?_⟩
  · rw [Agent.ScalarKept, ha]
    rfl
  · have hmod (x : Nat) : BitVec.ofNat 72 (x % 2 ^ 72) = BitVec.ofNat 72 x := by
      apply BitVec.eq_of_toNat_eq
      simp
    rw [ha, hmod, Agent.loaded, retired_ra, wa_ra]
    rfl

/-! ### A load that meets a single-bit error (R222) -/

theorem weccCorrected_one (w : Word) : (weccCorrected w 1).toNat % 2 ^ 32 = min (2 ^ 32 - 1) (w.toNat % 2 ^ 32 + 1)
    ∧ (weccCorrected w 1).toNat / 2 ^ 32 = w.toNat / 2 ^ 32 := by
  have hw := w.isLt
  rw [weccCorrected, BitVec.toNat_ofNat]
  omega

/-- The words of a Wharf that an aligned read of 8 bytes meets. -/
theorem word_hit {p : Place} (h8 : p.addr % 8 = 0) (k : Nat) : (p.addr / 8 ≤ k ∧ 8 * k < p.addr + 8) ↔ k = p.addr / 8 := by omega

/-- Reading an aligned word with a single-bit error corrects it and counts it once. -/
theorem scrub_word {s : State} {p : Place} {q : Nat} (hp : p.space = .wharf q) (h8 : p.addr % 8 = 0)
    (hce : (s.qy q).ce.filter (fun k => decide (k = p.addr / 8)) = [p.addr / 8]) :
    (∀ k, k ∈ ((s.scrub p 8).qy q).ce ↔ k ∈ (s.qy q).ce ∧ k ≠ p.addr / 8)
    ∧ ((s.scrub p 8).qy q).wecc = weccCorrected (s.qy q).wecc 1 := by
  have hmem : p.addr / 8 ∈ (s.qy q).ce := List.mem_of_mem_filter (by rw [hce]; exact List.mem_singleton_self _)
  have hs : s.scrub p 8 = s.modQy q (fun y => { y with
      ce := y.ce.filter (fun w => !decide (w = p.addr / 8))
      wecc := weccCorrected y.wecc (y.ce.filter (fun w => decide (w = p.addr / 8))).length }) := by
    simp only [State.scrub, hp, word_hit h8]
    exact if_pos (List.any_eq_true.2 ⟨_, hmem, by simp⟩)
  rw [hs, modQy_qy_self, hce]
  exact ⟨fun k => by simp, rfl⟩

theorem ldd_corrects {s : State} {d : Fin 32} {a : Fin 16} {o : BitVec 13} {h : Hit} {q : Nat}
    (hl : s.LoadReady (.ldd d a o) (s.eaddr a o 8) 8 h) (hp : h.place.space = .wharf q) (h8 : h.place.addr % 8 = 0)
    (hce : (s.qy q).ce.filter (fun k => decide (k = h.place.addr / 8)) = [h.place.addr / 8]) :
    ∃ t, exec (.ldd d a o) s = .next t ∧ (s.ag s.cur).Retired (t.ag s.cur) s.after
      ∧ (s.ag s.cur).ScalarIs (t.ag s.cur) d (BitVec.ofNat 64 (s.seenNat s.cur h.place 8))
      ∧ (∀ k, k ∈ (t.qy q).ce ↔ k ∈ (s.qy q).ce ∧ k ≠ h.place.addr / 8) ∧ (∀ r, t.byte r = s.byte r)
      ∧ (t.qy q).wecc.toNat % 2 ^ 32 = min (2 ^ 32 - 1) ((s.qy q).wecc.toNat % 2 ^ 32 + 1)
      ∧ (t.qy q).wecc.toNat / 2 ^ 32 = (s.qy q).wecc.toNat / 2 ^ 32 := by
  have hx : exec (.ldd d a o) s = s.run (.ldd d a o) (s.loadRule (s.eaddr a o 8))
      (fun is => do let x ← loadM is (s.eaddr a o 8) 8; modA is (fun b => b.ws d (BitVec.ofNat 64 x))) := load_eq _ _ _ _ _ _ _
  obtain ⟨m, hm⟩ := load_next (fun x b => b.ws d (BitVec.ofNat 64 x)) hl hx (fun x b => ws_regs b d _)
  obtain ⟨hret, -⟩ := loaded_kept (m := m) (at_ := s.after) (c := s.isDevice s.cur (s.eaddr a o 8)) hl.1.1
    (fun b => ws_regs b d (BitVec.ofNat 64 (s.seenNat s.cur h.place 8)))
  obtain ⟨hk, hw⟩ := scrub_word (s := (s.begin_ s.issue).keep (s.actor s.cur) h) hp h8 (by rw [keep_qy]; exact hce)
  have hsame : s.SameBytes ((s.begin_ s.issue).keep (s.actor s.cur) h) := (begin_sameMaps s).toSameBytes.trans (keep_sameBytes _ _ _)
  rw [keep_qy] at hk hw
  refine ⟨_, hm, ?_, fun r => ?_, hk, fun r => ?_, ?_⟩
  · rw [modAg_ag_self, scrub_ag, keep_ag, begin_begun]
    exact hret
  · rw [modAg_ag_self, scrub_ag, keep_ag, begin_begun, Agent.loaded, retired_rs, ws_rs]
    rfl
  · rw [(modAg_sameBytes _ _ _).byte, scrub_byte, hsame.byte]
  · rw [modAg_qy, hw]
    exact weccCorrected_one _

/-- Settles O19: every load runs as `load_next` says, with its own function of the bytes read. -/
theorem loadResults : Obligations.LoadResults := by
  intro s d e a o h at_ x
  have ready {i : Instr} {n : Nat} (hi : s.Ready i) (h' : at_ n) : s.LoadReady i (s.eaddr a o n) n h ∧ s.NoErrors :=
    ⟨⟨hi, h'.2.1, h'.2.2.1, h'.2.2.2.1⟩, h'.2.2.2.2⟩
  have loads {i : Instr} {n : Nat} (f : Nat → Word) (hi : s.Ready i) (hx : exec i s = s.load i d a o n f) (h' : at_ n) :
      s.LoadsScalar i d (f (x n)) :=
    loadsScalar_of_load f (ready hi h').1 (ready hi h').2 (hx.trans (load_eq _ _ _ _ _ _ _)) rfl
  refine ⟨fun h' => ⟨?_, ?_⟩, fun h' => ⟨?_, ?_⟩, fun h' => ⟨?_, ?_⟩, fun h' => ?_, fun h' => ?_, ?_⟩
  · exact loads (fun x => BitVec.ofInt 64 (sext 8 x)) h'.1 rfl h'
  · exact loads (BitVec.ofNat 64) h'.1 rfl h'
  · exact loads (fun x => BitVec.ofInt 64 (sext 16 x)) h'.1 rfl h'
  · exact loads (BitVec.ofNat 64) h'.1 rfl h'
  · exact loads (fun x => BitVec.ofInt 64 (sext 32 x)) h'.1 rfl h'
  · exact loads (BitVec.ofNat 64) h'.1 rfl h'
  · exact loads (BitVec.ofNat 64) h'.1 rfl h'
  · obtain ⟨hl, he⟩ := ready (i := .lda e a o) h'.1 h'
    exact lda_result hl he
  · exact fun q hr ha hc hb hp h8 hce => ldd_corrects ⟨hr, ha, hc, hb⟩ hp h8 hce

end Sys2Proof.Machine
end

section
/-! The scalar stores (R55, R57, R81-R83). The statement O20 is settled here. -/

namespace Sys2Proof.Machine

/-! ### What a strip buffer and a queue give a place -/

/-- The byte that a strip buffer holds for a place. -/
def bufByte (buf : List BufByte) (p : Place) : Option Byte := (buf.find? (fun b => decide (b.place = p))).map (·.byte)
/-- The byte that a queue of committed stores holds for a place: the last one written. -/
def queueByte (q : List Piece) (p : Place) : Option Byte := q.foldl (fun acc x => (lastByte p x.bytes).orElse (fun _ => acc)) none
/-- What lies under an agent's buffer and queue. -/
def State.under (s : State) (g : Nat) (p : Place) : Byte :=
  match (if p.space = .host then (s.ag g).mem.wc.findSome? (fun l => Assoc.find? p.addr l.bytes) else none) with
  | some b => b
  | none =>
    match p.space, devAt p.addr with
    | .fabric, some _ => s.devByte p.addr
    | _, _ => s.byte p

theorem seen_eq (s : State) (g : Nat) (p : Place) :
    s.seen g p = (bufByte (s.ag g).strip.buf p).getD ((queueByte (s.ag g).mem.queue p).getD (s.under g p)) := by
  unfold State.seen bufByte queueByte
  dsimp only
  cases (s.ag g).strip.buf.find? (fun b => decide (b.place = p)) with
  | some b => rfl
  | none =>
    cases (s.ag g).mem.queue.foldl (fun acc x => (lastByte p x.bytes).orElse (fun _ => acc)) none with
    | some b => rfl
    | none => rfl

theorem under_same {s t : State} {g : Nat} (h : s.SameBytes t) (hw : (t.ag g).mem.wc = (s.ag g).mem.wc) (p : Place) :
    t.under g p = s.under g p := by
  simp only [State.under, hw, h.devByte, h.byte]

theorem bufByte_filter_ne {p q : Place} (h : q ≠ p) (buf : List BufByte) :
    bufByte (buf.filter (fun y => decide (y.place ≠ q))) p = bufByte buf p := by
  rw [bufByte, List.find?_filter, bufByte]
  congr 2
  funext b
  by_cases hb : b.place = p
  · simp [hb, Ne.symm h]
  · simp [hb]

theorem bufByte_append (l m : List BufByte) (p : Place) : bufByte (l ++ m) p = (bufByte l p).orElse (fun _ => bufByte m p) := by
  unfold bufByte
  rw [List.find?_append]
  cases l.find? (fun b => decide (b.place = p)) <;> rfl

/-- A strip buffer after a store holds the store's last byte for each place, or what it held (R81). -/
theorem bufByte_bufAdd (new : List BufByte) (p : Place) : ∀ buf : List BufByte,
    bufByte (bufAdd buf new) p = (lastByte p (new.map (fun b => (b.place, b.byte)))).orElse (fun _ => bufByte buf p) := by
  induction new with
  | nil => intro buf; rfl
  | cons x t ih =>
    intro buf
    have hc : lastByte p ((x.place, x.byte) :: t.map (fun b => (b.place, b.byte)))
        = (lastByte p (t.map (fun b => (b.place, b.byte)))).orElse (fun _ => if x.place = p then some x.byte else none) :=
      lastByte_append p [(x.place, x.byte)] _
    show bufByte (bufAdd _ t) p = _
    rw [ih, List.map_cons, hc]
    have hx : bufByte (buf.filter (fun y => decide (y.place ≠ x.place)) ++ [{ x with whole := x.whole || buf.any (fun y => decide (y.place = x.place) && y.whole) }]) p
        = (if x.place = p then some x.byte else none).orElse (fun _ => bufByte buf p) := by
      rw [bufByte_append]
      by_cases e : x.place = p
      · have hn : bufByte (buf.filter (fun y => decide (y.place ≠ x.place))) p = none := by
          unfold bufByte
          rw [List.find?_eq_none.2 (fun b hb => by simp only [List.mem_filter, decide_eq_true_eq] at hb; simp [← e, hb.2])]
          rfl
        rw [hn]
        simp [bufByte, e]
      · rw [bufByte_filter_ne e]
        have : bufByte [{ x with whole := x.whole || buf.any (fun y => decide (y.place = x.place) && y.whole) }] p = none := by
          simp [bufByte, e]
        rw [this]
        simp [e]
    rw [hx]
    cases lastByte p (t.map (fun b => (b.place, b.byte))) <;> rfl

/-- The pieces of one store, put behind a queue. -/
theorem queueByte_append_units (q : List Piece) (op : Nat) (slice : Option Nat) (nt : Bool) (units : List (List (Place × Byte))) (p : Place) :
    queueByte (q ++ (units.filter (fun u => decide (u ≠ []))).map (fun u => ⟨op, slice, nt, u, false⟩)) p
      = (lastByte p units.flatten).orElse (fun _ => queueByte q p) := by
  unfold queueByte
  rw [List.foldl_append]
  generalize q.foldl (fun acc x => (lastByte p x.bytes).orElse (fun _ => acc)) none = c
  induction units generalizing c with
  | nil => rfl
  | cons u t ih =>
    rw [List.flatten_cons, lastByte_append]
    by_cases hu : u = []
    · subst hu
      simp only [List.filter_cons_of_neg, ne_eq, not_true, decide_false, Bool.false_eq_true, not_false_eq_true]
      rw [ih]
      cases lastByte p t.flatten <;> rfl
    · rw [List.filter_cons_of_pos (by simpa using hu), List.map_cons, List.foldl_cons, ih]
      cases lastByte p t.flatten <;> rfl

/-! ### The units of a store (R198) -/

/-- The places and bytes that the units of a store at a place write. -/
def unitWrites (p : Place) (units : List (Nat × List Byte)) : List (Place × Byte) := units.flatMap (fun u => placeBytes (p.plus u.1) u.2)

/-- The units write the `n` bytes of a value, each once. -/
def UnitsAre (units : List (Nat × List Byte)) (n v : Nat) : Prop :=
  ∀ p : Place, unitWrites p units = (List.range n).map (fun k => (p.plus k, byteOf v k))

theorem unitsAre_whole (n v : Nat) : UnitsAre [(0, leBytes n v)] n v := fun p => by
  simp [unitWrites, Place.plus, placeBytes_eq_map]

theorem byteOf_mod {v n k : Nat} (h : k < n) : byteOf (v % 2 ^ (8 * n)) k = byteOf v k := by
  apply BitVec.eq_of_toNat_eq
  have e : 2 ^ (8 * n) = 2 ^ (8 * k) * 2 ^ (8 * (n - k)) := by rw [← Nat.pow_add]; congr 1; omega
  have e8 : 2 ^ (8 * (n - k)) = 2 ^ 8 * 2 ^ (8 * (n - k - 1)) := by rw [← Nat.pow_add]; congr 1; omega
  rw [byteOf, byteOf, BitVec.toNat_ofNat, BitVec.toNat_ofNat, e, Nat.mod_mul_right_div_self, e8, Nat.mod_mul_right_mod]

/-- The units of STA write the address, its window byte and seven zero bytes (R55). -/
theorem unitsAre_sta (x : Addr) : UnitsAre (staUnits x) 16 x.toNat := fun p => by
  have hx := x.isLt
  have low : leBytes 8 (offOf x).toNat = (List.range 8).map (byteOf x.toNat) := by
    rw [leBytes_eq_map]
    refine List.map_congr_left fun k hk => ?_
    rw [offOf, BitVec.toNat_setWidth]
    exact byteOf_mod (n := 8) (List.mem_range.1 hk)
  have win : leBytes 1 (winOf x) = [byteOf x.toNat 8] := rfl
  have high (k : Nat) : byteOf x.toNat (9 + k) = 0 := by
    have : x.toNat / 2 ^ (8 * (9 + k)) = 0 := by
      apply Nat.div_eq_of_lt
      exact Nat.lt_of_lt_of_le hx (Nat.pow_le_pow_right (by decide) (by omega))
    rw [byteOf, this]
    rfl
  have hmap : (List.range 7).map (fun k => ((9 + k, [0]) : Nat × List Byte))
      = (List.range 7).map (fun k => (9 + k, [byteOf x.toNat (9 + k)])) := List.map_congr_left fun k _ => by rw [high]
  rw [staUnits, low, win, hmap]
  rfl

/-! ### A store in a strip and outside one -/

theorem bufBytes_places (a : Addr) (h : Hit) (bs : List Byte) (slice : Option Nat) (nt : Bool) :
    (bufBytes a h bs slice nt).map (fun b => (b.place, b.byte)) = placeBytes h.place bs := by
  simp [bufBytes, placeBytes]

/-- The bytes that a store puts into a strip buffer. -/
def stripBytes (a : Addr) (h : Hit) (units : List (Nat × List Byte)) : List BufByte :=
  units.flatMap (fun u => bufBytes (a + BitVec.ofNat 72 u.1) { h with place := h.place.plus u.1 } u.2 none false)

theorem stripBytes_places (a : Addr) (h : Hit) (units : List (Nat × List Byte)) :
    (stripBytes a h units).map (fun b => (b.place, b.byte)) = unitWrites h.place units := by
  rw [stripBytes, List.map_flatMap, unitWrites]
  exact List.flatMap_congr fun u _ => bufBytes_places _ _ _ _ _

/-- A store of the current agent's: its bytes go into the strip's buffer, or behind its committed stores. -/
def Agent.stored (a : Addr) (h : Hit) (units : List (Nat × List Byte)) (x : Agent) : Agent :=
  if x.inStrip then x.modStrip (fun st => { st with buf := bufAdd st.buf (stripBytes a h units) })
  else { x with mem := { x.mem with
    queue := x.mem.queue ++ ((units.map (fun u => placeBytes (h.place.plus u.1) u.2)).filter (fun u => decide (u ≠ []))).map
      (fun u => ⟨x.mem.nextOp, none, false, u, false⟩)
    nextOp := x.mem.nextOp + 1 } }

theorem stored_buffered (a : Addr) (h : Hit) (units : List (Nat × List Byte)) {x : Agent} (hx : x.inStrip = true) :
    x.stored a h units = x.modStrip (fun st => { st with buf := bufAdd st.buf (stripBytes a h units) }) := if_pos hx

theorem stored_queued (a : Addr) (h : Hit) (units : List (Nat × List Byte)) {x : Agent} (hx : ¬ x.inStrip = true) :
    x.stored a h units = { x with mem := { x.mem with
      queue := x.mem.queue ++ ((units.map (fun u => placeBytes (h.place.plus u.1) u.2)).filter (fun u => decide (u ≠ []))).map
        (fun u => ⟨x.mem.nextOp, none, false, u, false⟩)
      nextOp := x.mem.nextOp + 1 } } := if_neg hx

theorem watchM_nothing {is : Issue} {s : State} (h : (s.tile (quayOf is.g)).watched = []) (ps : List Place) : watchM is ps s = .ok ((), s) := by
  unfold watchM
  split
  · exact if_pos h
  · simp [State.watchQuiet, h]

theorem storeUnits_stored {is : Issue} {a : Addr} {h : Hit} {units : List (Nat × List Byte)} {s : State} (hm : h.mtype ≠ 2)
    (hw : (s.ag is.g).inStrip = true ∨ (s.tile (quayOf is.g)).watched = []) :
    storeUnits is a h units s = .ok ((), s.modAg is.g (Agent.stored a h units)) := by
  unfold storeUnits
  rw [if_neg hm]
  by_cases hs : (s.ag is.g).inStrip = true
  · rw [if_pos hs]
    rw [modAg_const s is.g (Agent.stored a h units), stored_buffered a h units hs]
    rfl
  · rw [if_neg hs, watchM_nothing (hw.resolve_left hs)]
    rw [modAg_const s is.g (Agent.stored a h units), stored_queued a h units hs]
    rfl

@[simp] theorem stored_status (a : Addr) (h : Hit) (u : List (Nat × List Byte)) (x : Agent) : (x.stored a h u).status = x.status := by
  unfold Agent.stored; split <;> rfl

/-- The next state of a store that can be made. -/
theorem run_store {s : State} {i : Instr} {a : Addr} {n : Nat} {h : Hit} (units : List (Nat × List Byte)) (hs : s.StoreReady i a n h) :
    ∃ m, s.run i (s.storeRule a n) (fun is => storeM is a n units) = .next (((s.begin_ s.issue).keep (s.actor s.cur) h).modAg s.cur
      (fun b => ((b.stored a h units).recorded m).retired (s.ag s.cur).regs.pc false)) := by
  obtain ⟨hr, ha, hm, hd, hroom⟩ := hs
  let s1 := (s.begin_ s.issue).keep (s.actor s.cur) h
  have hsame : s.SameBytes s1 := (begin_sameMaps s).toSameBytes.trans (keep_sameBytes _ _ _)
  have hag : s1.ag s.cur = (s.begin_ s.issue).ag s.cur := keep_ag _ _ _ _
  have hin : (s1.ag s.cur).inStrip = (s.ag s.cur).inStrip := by rw [hag, begin_ag]; rfl
  have hcut : (s.storeRule a n).cut = false := hd
  have hpre : (s.storeRule a n).pre = false ∨ (s.ag s.cur).inStrip = false := by
    by_cases hi : (s.ag s.cur).inStrip = true
    · exact .inl ((if_pos hi).mp hroom)
    · exact .inr (by simpa using hi)
  have hw : (s1.ag s.cur).inStrip = true ∨ (s1.tile (quayOf s.cur)).watched = [] := by
    by_cases hi : (s.ag s.cur).inStrip = true
    · exact .inl (hin.trans hi)
    · exact .inr (by rw [hsame.tile]; exact ((if_neg hi).mp hroom).2)
  obtain ⟨m, hrec⟩ := memRecord_recorded (s1.modAg s.cur (Agent.stored a h units)) s.cur a 1 (Nat.log2 n) 1
  refine ⟨m, ?_⟩
  have hbody : storeM s.issue a n units (s.begin_ s.issue)
      = .ok ((), s1.modAg s.cur (fun b => (b.stored a h units).recorded m)) := by
    have hrec' : s1.modAg s.cur (fun b => (b.stored a h units).recorded m)
        = (s1.modAg s.cur (Agent.stored a h units)).memRecord s.cur a 1 (Nat.log2 n) 1 := by rw [hrec, modAg_modAg]
    rw [storeM, bind_ok (access_reaches ha), bind_ok (storeUnits_stored hm hw), hrec']
    rfl
  rw [run_ok (pre_ready hr rfl rfl rfl rfl rfl) _ hbody _ (.inl hcut), modAg_modAg, hcut]
  · rw [hcut, Bool.false_or]
    exact hpre
  · rw [modAg_ag_self, hag, begin_ag]
    exact (stored_status _ _ _ _).trans hr.1

/-- What an agent sees after a store: the store's bytes, and otherwise what it saw. -/
theorem stored_seen {s t : State} {a : Addr} {n : Nat} {h : Hit} {units : List (Nat × List Byte)} {i : Instr} {m : MemRec} {pc at_ : Word}
    (hs : s.StoreReady i a n h) (hsame : s.SameBytes t)
    (ha : t.ag s.cur = ((((s.ag s.cur).begun at_).stored a h units).recorded m).retired pc false) (p : Place) :
    t.seen s.cur p = (lastByte p (unitWrites h.place units)).getD (s.seen s.cur p) := by
  obtain ⟨-, -, -, -, hroom⟩ := hs
  rw [seen_eq, seen_eq]
  by_cases hi : (s.ag s.cur).inStrip = true
  · have hbuf : (t.ag s.cur).strip.buf = bufAdd (s.ag s.cur).strip.buf (stripBytes a h units) := by
      rw [ha, stored_buffered a h units (x := (s.ag s.cur).begun at_) hi]; rfl
    have hmem : (t.ag s.cur).mem = (s.ag s.cur).mem := by rw [ha, stored_buffered a h units (x := (s.ag s.cur).begun at_) hi]; rfl
    rw [hbuf, bufByte_bufAdd, stripBytes_places, under_same hsame (by rw [hmem]), hmem]
    cases lastByte p (unitWrites h.place units) <;> rfl
  · have hnone : (s.ag s.cur).strip.buf = [] := ((if_neg hi).mp hroom).1
    have hbuf : (t.ag s.cur).strip.buf = [] := by rw [ha, stored_queued a h units (x := (s.ag s.cur).begun at_) hi]; exact hnone
    have hq : (t.ag s.cur).mem.queue = (s.ag s.cur).mem.queue
        ++ ((units.map (fun u => placeBytes (h.place.plus u.1) u.2)).filter (fun u => decide (u ≠ []))).map
          (fun u => ⟨(s.ag s.cur).mem.nextOp, none, false, u, false⟩) := by
      rw [ha, stored_queued a h units (x := (s.ag s.cur).begun at_) hi]; rfl
    have hwc : (t.ag s.cur).mem.wc = (s.ag s.cur).mem.wc := by rw [ha, stored_queued a h units (x := (s.ag s.cur).begun at_) hi]; rfl
    rw [hbuf, hnone, hq, queueByte_append_units, under_same hsame hwc]
    rw [show (units.map (fun u => placeBytes (h.place.plus u.1) u.2)).flatten = unitWrites h.place units from rfl]
    cases lastByte p (unitWrites h.place units) <;> rfl

/-- A store whose units are the bytes of a value. -/
theorem stores_of_run {s : State} {i : Instr} {a : Addr} {n v : Nat} {h : Hit} {units : List (Nat × List Byte)} (hs : s.StoreReady i a n h)
    (hx : exec i s = s.run i (s.storeRule a n) (fun is => storeM is a n units)) (hu : UnitsAre units n v) : s.Stores i h.place n v := by
  obtain ⟨m, hm⟩ := run_store units hs
  have hsame : s.SameBytes (((s.begin_ s.issue).keep (s.actor s.cur) h).modAg s.cur
      (fun b => ((b.stored a h units).recorded m).retired (s.ag s.cur).regs.pc false)) :=
    ((begin_sameMaps s).toSameBytes.trans (keep_sameBytes _ _ _)).trans (modAg_sameBytes _ _ _)
  refine ⟨_, hx.trans hm, ⟨?_, fun g hg => ?_⟩, ?_⟩
  · rw [keep_tlb]
    rfl
  · rw [modAg_ag_ne _ _ _ hg, keep_ag, begin_ag_ne _ hg]
  have ha := (modAg_ag_self ((s.begin_ s.issue).keep (s.actor s.cur) h) s.cur
    (fun b => ((b.stored a h units).recorded m).retired (s.ag s.cur).regs.pc false)).trans (by rw [keep_ag, begin_begun])
  have hseen := stored_seen hs hsame ha
  have hlast (p : Place) : lastByte p (unitWrites h.place units) = _ := (congrArg (lastByte p) (hu h.place)).trans (lastByte_run p h.place _ n)
  have hin (k : Nat) (hk : k < n) : _ = byteOf v k := (hseen (h.place.plus k)).trans (by
    rw [hlast, if_pos (Place.plus_within h.place hk)]
    simp [Place.plus])
  have hout (r : Place) (hr : r.space ≠ h.place.space ∨ r.addr < h.place.addr ∨ h.place.addr + n ≤ r.addr) : _ = s.seen s.cur r :=
    (hseen r).trans (by rw [hlast, if_neg (Place.not_within hr)]; rfl)
  have hrun := hs.1.1
  by_cases hi : (s.ag s.cur).inStrip = true
  · rw [stored_buffered a h units (x := (s.ag s.cur).begun s.after) hi] at ha
    rw [if_pos hi, ha]
    exact ⟨⟨hrun, rfl, rfl, rfl, rfl, rfl⟩, ⟨rfl, rfl, rfl, rfl, rfl, rfl, rfl, rfl, rfl, rfl⟩, rfl, rfl, hin, hout, hsame.byte, rfl, rfl⟩
  · rw [stored_queued a h units (x := (s.ag s.cur).begun s.after) hi] at ha
    rw [if_neg hi, ha]
    exact ⟨⟨hrun, rfl, rfl, rfl, rfl, rfl⟩, ⟨rfl, rfl, rfl, rfl, rfl, rfl, rfl, rfl, rfl, rfl⟩, rfl, rfl, hin, hout, hsame.byte, rfl, rfl, rfl⟩

theorem store_eq (s : State) (i : Instr) (d : Fin 32) (a : Fin 16) (o : BitVec 13) (n : Nat) :
    s.store i d a o n = s.run i (s.storeRule (s.eaddr a o n) n)
      (fun is => storeM is (s.eaddr a o n) n [(0, leBytes n ((s.ag s.cur).rs d).toNat)]) := by
  rw [State.store, eaOf_eq]

/-- Settles O20: every store runs as `run_store` says, with the units of its value. -/
theorem storeResults : Obligations.StoreResults := by
  intro s d e a o h v
  have whole {i : Instr} (n : Nat) (hx : exec i s = s.store i d a o n) (hs : s.StoreReady i (s.eaddr a o n) n h) : s.Stores i h.place n v :=
    stores_of_run hs (hx.trans (store_eq _ _ _ _ _ _)) (unitsAre_whole n v)
  refine ⟨whole 1 rfl, whole 2 rfl, whole 4 rfl, whole 8 rfl, fun hs => stores_of_run hs ?_ (unitsAre_sta _)⟩
  rw [← eaOf_eq]
  rfl

end Sys2Proof.Machine
end

section
/-! Atomics on memory (R58, R59, R380): what an atomic leaves of the machine, the plan of its elements, and the scalar atomics. The statement
O21 is settled here. -/

namespace Sys2Proof.Machine

/-! ### What an access to memory leaves of the machine -/

/-- Between two states firmware, the scheduler, the tiles, the berths and the requests to other modules stand as they were, and memory keeps
its form; agents and bytes may differ. -/
structure State.Around (s t : State) : Prop where
  fw : t.fw = s.fw
  work : t.work = s.work
  modid : t.modid = s.modid
  nextTag : t.link.nextTag = s.link.nextTag
  jetty : t.link.jetty = s.link.jetty
  berths : ∀ q, (t.qy q).berths = (s.qy q).berths
  tile : ∀ q, (t.qy q).tile = (s.qy q).tile
  memoryOk : s.MemoryOk → t.MemoryOk

/-- Two states differ in nothing that their agents or their memory show. -/
structure State.Beside (s t : State) : Prop extends s.Around t where
  ag : ∀ j, t.ag j = s.ag j
  byte : ∀ r, t.byte r = s.byte r

theorem State.Around.refl (s : State) : s.Around s := ⟨rfl, rfl, rfl, rfl, rfl, fun _ => rfl, fun _ => rfl, id⟩
theorem State.Around.trans {s t u : State} (h : s.Around t) (h' : t.Around u) : s.Around u :=
  ⟨h'.fw.trans h.fw, h'.work.trans h.work, h'.modid.trans h.modid, h'.nextTag.trans h.nextTag, h'.jetty.trans h.jetty,
    fun q => (h'.berths q).trans (h.berths q), fun q => (h'.tile q).trans (h.tile q), fun hs => h'.memoryOk (h.memoryOk hs)⟩
theorem State.Beside.refl (s : State) : s.Beside s := ⟨.refl s, fun _ => rfl, fun _ => rfl⟩
theorem State.Beside.trans {s t u : State} (h : s.Beside t) (h' : t.Beside u) : s.Beside u :=
  ⟨h.toAround.trans h'.toAround, fun j => (h'.ag j).trans (h.ag j), fun r => (h'.byte r).trans (h.byte r)⟩

theorem State.Around.away {s t : State} (h : s.Around t) (p : Place) : t.away p = s.away p := by simp only [State.away, h.modid]

/-- States that differ beside all this. -/
theorem State.Around.of_eq {s t : State} (hf : t.fw = s.fw) (hw : t.work = s.work) (hi : t.modid = s.modid) (hl : t.link = s.link)
    (hq : t.quays = s.quays) (hm : t.mem = s.mem) : s.Around t := by
  have qy (q : Nat) : t.qy q = s.qy q := by simp only [State.qy, hq]
  exact ⟨hf, hw, hi, by rw [hl], by rw [hl], fun q => by rw [qy], fun q => by rw [qy], fun h => memoryOk_congr h hm (by rw [hl]) hq⟩

theorem modAg_around (s : State) (g : Nat) (f : Agent → Agent) : s.Around (s.modAg g f) := .of_eq rfl rfl rfl rfl rfl rfl
theorem modAg_byte (s : State) (g : Nat) (f : Agent → Agent) (r : Place) : (s.modAg g f).byte r = s.byte r := rfl

/-- An update that leaves its agent as it is. -/
theorem modAg_beside {s : State} {g : Nat} {f : Agent → Agent} (h : f (s.ag g) = s.ag g) : s.Beside (s.modAg g f) :=
  ⟨modAg_around s g f, fun j => by
    by_cases e : j = g
    · subst e; rw [modAg_ag_self, h]
    · rw [modAg_ag_ne _ _ _ e], fun _ => rfl⟩

theorem modDie_beside (s : State) (d : Nat) (f : Die → Die) : s.Beside (s.modDie d f) := ⟨.of_eq rfl rfl rfl rfl rfl rfl, fun _ => rfl, fun _ => rfl⟩

/-- An update of a Quay beside its berths and its tile. -/
theorem modQy_around {s : State} {q : Nat} {f : Quay → Quay} (hf : ∀ y : Quay, (f y).berths = y.berths ∧ (f y).tile = y.tile)
    (hw : s.MemoryOk → (s.modQy q f).MemoryOk) : s.Around (s.modQy q f) := by
  refine ⟨rfl, rfl, rfl, rfl, rfl, fun j => ?_, fun j => ?_, hw⟩
  all_goals
    by_cases e : j = q
    · subst e
      rw [modQy_qy_self]
      simp only [hf]
    · rw [modQy_qy_ne _ _ _ e]

/-- An update of a Quay beside its Wharf's bytes, its berths and its tile. -/
theorem modQy_beside {s : State} {q : Nat} {f : Quay → Quay}
    (hf : ∀ y : Quay, (f y).wharf = y.wharf ∧ (f y).epoch = y.epoch ∧ (f y).berths = y.berths ∧ (f y).tile = y.tile)
    (hw : s.MemoryOk → Quay.wf (f (s.qy q)) = true) : s.Beside (s.modQy q f) :=
  ⟨modQy_around (fun y => (hf y).2.2) fun h => modQy_memoryOk h q f (hw h), fun _ => rfl,
    modQy_byte s q fun y => ⟨(hf y).1, (hf y).2.1⟩⟩

theorem ite_beside {s t u : State} {c : Prop} [Decidable c] (ht : s.Beside t) (hu : s.Beside u) : s.Beside (if c then t else u) := by
  split
  · exact ht
  · exact hu

/-- A fold of updates that each leave agents and memory alone. -/
theorem foldl_beside {α : Type} (f : State → α → State) (hf : ∀ s x, State.Beside s (f s x)) (l : List α) : ∀ s : State, s.Beside (l.foldl f s) := by
  induction l with
  | nil => exact .refl
  | cons x t ih => exact fun s => (hf s x).trans (ih _)

theorem clearPoison_beside (s : State) (p : Place) : s.Beside (s.clearPoison p) := by
  unfold State.clearPoison
  split
  · exact ⟨.of_eq rfl rfl rfl rfl rfl rfl, fun _ => rfl, fun _ => rfl⟩
  · exact modQy_beside (fun _ => ⟨rfl, rfl, rfl, rfl⟩) fun h => h.2.2 _
  · exact .refl s

theorem clearUe_beside (s : State) (p : Place) : s.Beside (s.clearUe p) := by
  unfold State.clearUe
  split
  · exact ⟨.of_eq rfl rfl rfl rfl rfl rfl, fun _ => rfl, fun _ => rfl⟩
  · exact modQy_beside (fun _ => ⟨rfl, rfl, rfl, rfl⟩) fun h => h.2.2 _
  · exact .refl s

theorem scrub_beside (s : State) (p : Place) (n : Nat) : s.Beside (s.scrub p n) := by
  unfold State.scrub
  split
  · dsimp only
    split
    · exact modQy_beside (fun _ => ⟨rfl, rfl, rfl, rfl⟩) fun h => h.2.2 _
    · exact .refl s
  · exact .refl s
  · exact .refl s

theorem keep_beside (s : State) (b : Actor) (h : Hit) : s.Beside (s.keep b h) := by
  rw [keep_tlb]
  exact ⟨.of_eq rfl rfl rfl rfl rfl rfl, fun _ => rfl, fun _ => rfl⟩

theorem noteWrite_beside (s : State) (kind slot mod quay : Nat) (bte : Bool) (p : Place) (n : Nat) :
    s.Beside (s.noteWrite kind slot mod quay bte p n) := by
  unfold State.noteWrite
  split
  · exact .refl s
  · refine foldl_beside _ (fun u k => ?_) _ s
    dsimp only
    split
    · exact .refl u
    · exact ite_beside (modDie_beside _ _ _) (.refl u)

/-! ### Bytes written to memory -/

theorem setByte_ag (s : State) (p : Place) (b : Byte) (j : Nat) : (s.setByte p b).ag j = s.ag j := by
  unfold State.setByte
  split <;> rfl

theorem setByte_around (s : State) (p : Place) (b : Byte) : s.Around (s.setByte p b) := by
  have hok : s.MemoryOk → (s.setByte p b).MemoryOk := fun h => setByte_memoryOk h p b
  unfold State.setByte at hok ⊢
  split at hok
  · exact ⟨rfl, rfl, rfl, rfl, rfl, fun _ => rfl, fun _ => rfl, hok⟩
  · exact modQy_around (fun _ => ⟨rfl, rfl⟩) hok
  · exact ⟨rfl, rfl, rfl, rfl, rfl, fun _ => rfl, fun _ => rfl, hok⟩

theorem setBytes_around (bs : List (Place × Byte)) : ∀ s : State, s.Around (s.setBytes bs) ∧ ∀ j, (s.setBytes bs).ag j = s.ag j := by
  induction bs with
  | nil => exact fun s => ⟨.refl s, fun _ => rfl⟩
  | cons x t ih => exact fun s => ⟨(setByte_around s x.1 x.2).trans (ih _).1, fun j => ((ih _).2 j).trans (setByte_ag s x.1 x.2 j)⟩

/-- A write of bytes is the bytes, and what it clears of poison and error marks. -/
theorem writeBytes_beside (s : State) (bs : List (Place × Byte)) : (s.setBytes bs).Beside (s.writeBytes bs) := by
  cases bs with
  | nil => exact .refl _
  | cons x t =>
    unfold State.writeBytes
    dsimp only
    refine State.Beside.trans ?_ (foldl_beside (fun (u : State) (y : Place × Byte) => u.clearUe y.1) (fun u y => clearUe_beside u y.1) _ _)
    exact ite_beside (clearPoison_beside _ _) (.refl _)

/-- An atomic on memory as a function of the place leaves it as it is when it writes the old value. -/
theorem putAtom_old (n : Nat) (p : Place) (f : Place → Byte) : putAtom n p (leNat ((p.span n).map f)) f = f := by
  funext r
  unfold putAtom
  split
  · next h =>
    have hk : r.addr - p.addr < n := by omega
    have hr : p.plus (r.addr - p.addr) = r := by
      obtain ⟨sp, a⟩ := r
      obtain ⟨h1, h2, -⟩ := h
      simp only [Place.plus, ← h1]
      congr
      simp only at h2 ⊢
      omega
    rw [Place.span, List.map_map, byteOf_leNat_map _ hk]
    exact congrArg f hr
  · rfl

theorem writeBytes_putAtom {s : State} (h : s.MemoryOk) (p : Place) (n v : Nat) (r : Place) :
    (s.writeBytes (placeBytes p (leBytes n v))).byte r = putAtom n p v s.byte r := by
  rw [(writeBytes_beside s _).byte, setBytes_byte _ _ h, placeBytes_eq_map, lastByte_run]
  unfold putAtom
  by_cases hr : r.within p n
  · rw [if_pos hr, if_pos hr]; rfl
  · rw [if_neg hr, if_neg hr]; rfl

/-! ### Releases and drains of an agent that holds nothing back -/

/-- No store of an agent waits to be performed. -/
def Agent.Drained (a : Agent) : Prop := a.mem.queue = [] ∧ a.mem.wc = []

theorem queue_beside {s : State} {g : Nat} (h : (s.ag g).mem.queue = []) :
    s.Beside (s.modAg g (fun a => { a with mem := { a.mem with queue := [] } })) := by
  apply modAg_beside
  rw [← h]

theorem drainFor_beside {s : State} {g : Nat} (h : (s.ag g).Drained) (ps : List Place) : s.Beside (s.drainFor g ps) := by
  obtain ⟨hq, hw⟩ := h
  have e : s.drainFor g ps = s.modAg g (fun a => { a with mem := { a.mem with queue := [] } }) := by
    simp only [State.drainFor, hq, List.drop_nil, List.take_nil, State.performPieces, modAg_ag_self, hw, List.filter_nil, List.foldl_nil]
  rw [e]
  exact queue_beside hq

theorem drainQueue_beside {s : State} {g : Nat} (h : (s.ag g).mem.queue = []) : s.Beside (s.drainQueue g) := by
  unfold State.drainQueue
  rw [h]
  exact queue_beside h

theorem relaxed_beside (s : State) : s.Beside (s.modLink (fun l => { l with relaxed := 0 })) :=
  ⟨⟨rfl, rfl, rfl, rfl, rfl, fun _ => rfl, fun _ => rfl, id⟩, fun _ => rfl, fun _ => rfl⟩

theorem releaseStores_beside {s : State} {g : Nat} (h : (s.ag g).Drained) (sc : Scope) : s.Beside (s.releaseStores g sc) := by
  have hd := drainQueue_beside h.1
  have hw : (s.drainQueue g).drainWc g = s.drainQueue g := by rw [State.drainWc, hd.ag, h.2]; rfl
  unfold State.releaseStores State.systemDrain
  dsimp only
  rw [hw]
  exact ite_beside (hd.trans (relaxed_beside _)) hd

/-- A release of an agent that holds nothing back, beside a tile that is at rest. -/
theorem releaseM_beside {s : State} {is : Issue} (sc : Scope) (h : (s.ag is.g).Drained) (hw : (s.tile (quayOf is.g)).watched = [])
    (hf : (s.tile (quayOf is.g)).feeds = []) : ∃ t, releaseM is sc s = .ok ((), t) ∧ s.Beside t := by
  have htiles : releaseTiles is s = .ok ((), s) := by
    unfold releaseTiles
    split
    · exact if_pos hw
    · simp only [hf, if_true]
  have hlast : ∃ t, (if sc ≠ .hart then modify (fun u => u.releaseStores is.g sc) else pure () : M Unit) s = .ok ((), t) ∧ s.Beside t := by
    by_cases hsc : sc ≠ .hart
    · rw [if_pos hsc]
      exact ⟨_, rfl, releaseStores_beside h sc⟩
    · rw [if_neg hsc]
      exact ⟨s, rfl, .refl s⟩
  unfold releaseM
  by_cases hc : isPilot is.g = true ∨ sc ≠ .hart
  · rw [if_pos hc, bind_ok htiles]
    exact hlast
  · rw [if_neg hc]
    exact hlast

/-! ### One atomic (R59) -/

theorem plain_atomicAt {p : Place} (hp : p.Plain) (s : State) (g n : Nat) (new : Nat → Option Nat) :
    s.atomicAt g p n new = (leNat ((s.drainFor g (p.span n)).bytes p n), match new (leNat ((s.drainFor g (p.span n)).bytes p n)) with
      | some v => ((s.drainFor g (p.span n)).writeBytes (placeBytes p (leBytes n v))).noteWrite (writerOf g).1 (writerOf g).2
          (s.drainFor g (p.span n)).modid (quayOf g) false p n
      | none => s.drainFor g (p.span n)) := by
  unfold State.atomicAt
  dsimp only
  split
  · next h1 h2 => rw [hp.2 h1] at h2; cases h2
  · rfl

/-- An atomic on plain memory of an agent that holds nothing back: the old value, and memory with the new one. -/
theorem atomicAt_plain {s : State} {g : Nat} {p : Place} {n : Nat} (new : Nat → Option Nat) (hm : s.MemoryOk) (hd : (s.ag g).Drained)
    (hp : p.Plain) : (s.atomicAt g p n new).1 = leNat (s.bytes p n) ∧ s.Around (s.atomicAt g p n new).2
      ∧ (∀ j, (s.atomicAt g p n new).2.ag j = s.ag j)
      ∧ (s.atomicAt g p n new).2.byte = putAtom n p ((new (leNat (s.bytes p n))).getD (leNat (s.bytes p n))) s.byte := by
  have hb := drainFor_beside hd (p.span n)
  have hold : leNat ((s.drainFor g (p.span n)).bytes p n) = leNat (s.bytes p n) := by simp only [State.bytes, hb.byte]
  have hspan : s.bytes p n = (p.span n).map s.byte := by rw [State.bytes, Place.span, List.map_map]; rfl
  rw [plain_atomicAt hp, hold]
  cases new (leNat (s.bytes p n)) with
  | none =>
    refine ⟨rfl, hb.toAround, hb.ag, ?_⟩
    rw [Option.getD_none, hspan, putAtom_old]
    exact funext hb.byte
  | some v =>
    have hn := noteWrite_beside ((s.drainFor g (p.span n)).writeBytes (placeBytes p (leBytes n v))) (writerOf g).1 (writerOf g).2
      (s.drainFor g (p.span n)).modid (quayOf g) false p n
    have hset := setBytes_around (placeBytes p (leBytes n v)) (s.drainFor g (p.span n))
    have hw := writeBytes_beside (s.drainFor g (p.span n)) (placeBytes p (leBytes n v))
    refine ⟨rfl, hb.toAround.trans ((hset.1.trans hw.toAround).trans hn.toAround), fun j => ?_, funext fun r => ?_⟩
    · exact (hn.ag j).trans ((hw.ag j).trans ((hset.2 j).trans (hb.ag j)))
    · rw [hn.byte, writeBytes_putAtom (hb.memoryOk hm), funext hb.byte]
      rfl

/-! ### Atomics one after another (R185) -/

theorem Assoc.find?_absent {β : Type} {k : Nat} {m : Assoc β} (h : ∀ q ∈ m, q.1 ≠ k) : Assoc.find? k m = none := by
  induction m with
  | nil => rfl
  | cons q t ih =>
    rw [Assoc.find?, if_neg (h q (.head _))]
    exact ih fun r hr => h r (.tail _ hr)

/-- An agent whose instruction has performed the elements of a list. -/
def Agent.withDone (l : List (Nat × Nat)) (a : Agent) : Agent := { a with marks := { a.marks with done := l } }

/-- The value that an atomic of `n` bytes leaves at its location. -/
def AtomOp.leaves (op : AtomOp) (n : Nat) (signed : Bool) (x y : Nat → Nat) (k old : Nat) : Nat :=
  (op.new (8 * n) signed old (x k) (y k)).getD old

section
variable {is : Issue} {n : Nat} {op : AtomOp} {signed : Bool} {x y : Nat → Nat} {keep : M Unit}

/-- The next element of a plan, outside host memory and not performed yet: asked of its home, or performed here. -/
theorem performAtoms_cons {e : Nat × Addr × Place} {es : List (Nat × Addr × Place)} {s : State} (hd : ∀ q ∈ (s.ag is.g).marks.done, q.1 ≠ e.1)
    (hp : e.2.2.space ≠ .host) :
    performAtoms is n op signed x y keep (e :: es) s =
      if s.away e.2.2 then askHome e.1 e.2.2 (fun t => .amo t (op.number signed) (writerOf is.g).1 (writerOf is.g).2 (quayOf is.g) e.2.2.addr n (x e.1) (y e.1))
        (s.drainFor is.g (e.2.2.span n))
      else performAtoms is n op signed x y keep es ((s.atomicAt is.g e.2.2 n (fun old => op.new (8 * n) signed old (x e.1) (y e.1))).2.modAg is.g
        (fun a => a.withDone (a.marks.done ++ [(e.1, (s.atomicAt is.g e.2.2 n (fun old => op.new (8 * n) signed old (x e.1) (y e.1))).1)]))) := by
  obtain ⟨k, a, sp, pa⟩ := e
  rw [performAtoms, bind_ok (a := s.ag is.g) (t := s) rfl, Assoc.find?_absent hd]
  dsimp only
  generalize op.host = oh
  by_cases ha : s.away ⟨sp, pa⟩ = true
  · rw [if_pos ha]
    cases sp with
    | host => exact absurd rfl hp
    | fabric => cases oh <;> exact (bind_ok (a := s) (t := s) rfl).trans (congrFun (if_pos ha) s)
    | wharf q => cases oh <;> exact (bind_ok (a := s) (t := s) rfl).trans (congrFun (if_pos ha) s)
  · rw [if_neg ha]
    cases sp with
    | host => exact absurd rfl hp
    | fabric => cases oh <;> exact (bind_ok (a := s) (t := s) rfl).trans (congrFun (if_neg ha) s)
    | wharf q => cases oh <;> exact (bind_ok (a := s) (t := s) rfl).trans (congrFun (if_neg ha) s)

/-- A plan whose locations are plain memory here, of an agent that holds nothing back. -/
theorem performAtoms_here : ∀ (es : List (Nat × Addr × Place)) {s : State}, s.MemoryOk → (s.ag is.g).Drained →
    (∀ e ∈ es, e.2.2.Plain ∧ s.away e.2.2 = false) → (es.map (fun e => e.1)).Nodup → (∀ e ∈ es, ∀ q ∈ (s.ag is.g).marks.done, q.1 ≠ e.1) →
    ∃ t, performAtoms is n op signed x y keep es s = .ok ((), t) ∧ s.Around t ∧ (∀ j, j ≠ is.g → t.ag j = s.ag j)
      ∧ t.ag is.g = (s.ag is.g).withDone ((s.ag is.g).marks.done
          ++ (atomRun n (op.leaves n signed x y) (es.map (fun e => (e.1, e.2.2))) s.byte).1)
      ∧ t.byte = (atomRun n (op.leaves n signed x y) (es.map (fun e => (e.1, e.2.2))) s.byte).2 := by
  intro es
  induction es with
  | nil =>
    intro s _ _ _ _ _
    refine ⟨s, rfl, .refl s, fun _ _ => rfl, ?_, rfl⟩
    show _ = (s.ag is.g).withDone ((s.ag is.g).marks.done ++ [])
    rw [List.append_nil]
    rfl
  | cons e es ih =>
    intro s hm hq hp hnd hdone
    have he := hp e (.head _)
    obtain ⟨hold, har, hag, hbyte⟩ := atomicAt_plain (s := s) (g := is.g) (n := n) (fun old => op.new (8 * n) signed old (x e.1) (y e.1)) hm hq he.1
    rw [performAtoms_cons (hdone e (.head _)) he.1.1, if_neg (by rw [he.2]; decide)]
    rw [hold]
    generalize (s.atomicAt is.g e.2.2 n (fun old => op.new (8 * n) signed old (x e.1) (y e.1))).2 = u at har hag hbyte ⊢
    have hmine : (u.modAg is.g (fun a => a.withDone (a.marks.done ++ [(e.1, leNat (s.bytes e.2.2 n))]))).ag is.g
        = (s.ag is.g).withDone ((s.ag is.g).marks.done ++ [(e.1, leNat (s.bytes e.2.2 n))]) := by rw [modAg_ag_self, hag]
    have hbyte' : (u.modAg is.g (fun a => a.withDone (a.marks.done ++ [(e.1, leNat (s.bytes e.2.2 n))]))).byte
        = putAtom n e.2.2 (op.leaves n signed x y e.1 (leNat (s.bytes e.2.2 n))) s.byte := hbyte
    have har' : s.Around (u.modAg is.g (fun a => a.withDone (a.marks.done ++ [(e.1, leNat (s.bytes e.2.2 n))]))) := har.trans (modAg_around _ _ _)
    have hoth (j : Nat) (hj : j ≠ is.g) : (u.modAg is.g (fun a => a.withDone (a.marks.done ++ [(e.1, leNat (s.bytes e.2.2 n))]))).ag j = s.ag j := by
      rw [modAg_ag_ne _ _ _ hj, hag]
    generalize u.modAg is.g (fun a => a.withDone (a.marks.done ++ [(e.1, leNat (s.bytes e.2.2 n))])) = v at hmine hbyte' har' hoth ⊢
    rw [List.map_cons, List.nodup_cons] at hnd
    obtain ⟨t, ht, htar, htoth, htag, htbyte⟩ := ih (s := v) (har'.memoryOk hm) (by rw [hmine]; exact hq)
      (fun e' he' => ⟨(hp e' (.tail _ he')).1, (har'.away _).trans (hp e' (.tail _ he')).2⟩) hnd.2
      (fun e' he' q hq' => by
        rw [hmine] at hq'
        rcases List.mem_append.1 hq' with h | h
        · exact hdone e' (.tail _ he') q h
        · rw [List.mem_singleton.1 h]
          exact fun h' => hnd.1 (List.mem_map.2 ⟨e', he', h'.symm⟩))
    have hspan : (e.2.2.span n).map s.byte = s.bytes e.2.2 n := by rw [State.bytes, Place.span, List.map_map]; rfl
    refine ⟨t, ht, har'.trans htar, fun j hj => (htoth j hj).trans (hoth j hj), ?_, ?_⟩
    · rw [htag, hmine, hbyte', List.map_cons, atomRun, hspan]
      simp [Agent.withDone]
    · rw [htbyte, hbyte', List.map_cons, atomRun, hspan]

end

/-! ### A request to another module (R380) -/

/-- A port that has been given a message keeps it, or has put it on the line. -/
theorem send_keeps (j : Jetty) (m src : Nat) (x : LinkMsg) :
    (m, x) ∈ (j.send m src x).queue ∨ ∃ n ack, (n, x.flit m src n ack) ∈ (j.send m src x).buffer := by
  unfold Jetty.send
  split
  · exact .inl (List.mem_append_right _ (.head _))
  · exact .inr ⟨_, _, List.mem_append_right _ (.head _)⟩

theorem sendTo_sent (s : State) (m : Nat) (x : LinkMsg) : (s.sendTo m x).Sent m x := by
  unfold State.Sent
  have hj : Assoc.get {} (Config.jettyPort m % 64) (s.sendTo m x).link.jetty
      = (Assoc.get {} (Config.jettyPort m % 64) s.link.jetty).send m s.modid x := Assoc.get_set_self _ _ _ _
  dsimp only
  rw [hj]
  exact send_keeps _ _ _ _

/-- The state of an agent's request: what the instruction had come to, and the request in its port. -/
theorem askHome_asks {α : Type} {s : State} {g : Nat} (hq : (s.ag g).Drained) (elem : Nat) (p : Place) (ps : List Place) (x : Nat → LinkMsg) :
    ∃ t, (askHome elem p x : M α) (s.drainFor g ps) = .error (.wait (.remote s.link.nextTag elem (x s.link.nextTag)) t)
      ∧ (∀ j, t.ag j = s.ag j) ∧ (∀ r, t.byte r = s.byte r) ∧ t.Sent (p.addr / 2 ^ 44) (x s.link.nextTag) := by
  have hd := drainFor_beside hq ps
  generalize s.drainFor g ps = u at hd ⊢
  refine ⟨(u.modLink (fun l => { l with nextTag := (u.link.nextTag + 1) % 2 ^ 28 })).sendTo (p.addr / 2 ^ 44) (x u.link.nextTag), ?_, hd.ag,
    hd.byte, ?_⟩
  · rw [← hd.nextTag]
    rfl
  · rw [hd.nextTag]
    exact sendTo_sent _ _ _

/-! ### The plan of an atomic instruction -/

theorem scrub_qy (s : State) (p : Place) (n q : Nat) : ((s.scrub p n).qy q).poison = (s.qy q).poison ∧ ((s.scrub p n).qy q).ue = (s.qy q).ue := by
  unfold State.scrub
  split
  · next r _ =>
    dsimp only
    split
    · by_cases e : q = r
      · subst e; rw [modQy_qy_self]; exact ⟨rfl, rfl⟩
      · rw [modQy_qy_ne _ _ _ e]; exact ⟨rfl, rfl⟩
    · exact ⟨rfl, rfl⟩
  · exact ⟨rfl, rfl⟩
  · exact ⟨rfl, rfl⟩

theorem scrub_marks (s : State) (p : Place) (n : Nat) : (s.scrub p n).poison = s.poison ∧ (s.scrub p n).ue = s.ue := by
  unfold State.scrub
  split
  · dsimp only
    split
    · exact ⟨rfl, rfl⟩
    · exact ⟨rfl, rfl⟩
  · exact ⟨rfl, rfl⟩
  · exact ⟨rfl, rfl⟩

/-- A read corrects what it meets; it makes nothing bad, and no bad word good. -/
theorem scrub_badRead (s : State) (p : Place) (n : Nat) (r : Place) (m : Nat) : (s.scrub p n).badRead r m = s.badRead r m := by
  have hp (q : Place) : (s.scrub p n).poisoned q = s.poisoned q := by simp only [State.poisoned, scrub_marks, scrub_qy]
  have hu (q : Place) : (s.scrub p n).uncorrectable q = s.uncorrectable q := by simp only [State.uncorrectable, scrub_marks, scrub_qy]
  simp only [State.badRead, hp, hu]

theorem atomicRead_ok {s : State} {p : Place} {n : Nat} (h : s.badRead p n = none) (a : Addr) :
    atomicRead a p n s = .ok ((), s.scrub p n) := by
  simp only [atomicRead, h]

/-- The read of one location of an atomic instruction, as the loop over the locations makes it. -/
def readStep (n : Nat) (x : Elem × Hit) (_ : PUnit) : M (ForInStep PUnit) :=
  if x.2.place.space ≠ .host then do
    atomicRead x.1.addr x.2.place n
    pure (.yield ⟨⟩)
  else pure (.yield ⟨⟩)

/-- The reads of an atomic instruction's locations, none of them bad. -/
theorem readAtoms_ok (n : Nat) (l : List (Elem × Hit)) : ∀ s : State, (∀ x ∈ l, s.badRead x.2.place n = none) →
    ∃ t, forIn l PUnit.unit (readStep n) s = .ok (⟨⟩, t) ∧ s.Beside t := by
  induction l with
  | nil => exact fun s _ => ⟨s, rfl, .refl s⟩
  | cons x l ih =>
    intro s h
    rw [List.forIn_cons]
    by_cases hx : x.2.place.space ≠ .host
    · obtain ⟨t, ht, hb⟩ := ih (s.scrub x.2.place n) fun y hy => (scrub_badRead _ _ _ _ _).trans (h y (.tail _ hy))
      have hstep : readStep n x PUnit.unit s = .ok (.yield ⟨⟩, s.scrub x.2.place n) := by
        rw [readStep, if_pos hx, bind_ok (atomicRead_ok (h x (.head _)) _)]
        rfl
      exact ⟨t, (bind_ok hstep).trans ht, (scrub_beside _ _ _).trans hb⟩
    · obtain ⟨t, ht, hb⟩ := ih s fun y hy => h y (.tail _ hy)
      have hstep : readStep n x PUnit.unit s = .ok (.yield ⟨⟩, s) := by
        rw [readStep, if_neg hx]
        rfl
      exact ⟨t, (bind_ok hstep).trans ht, hb⟩

/-- The translations that a list of accesses keeps. -/
def State.keepAll (s : State) (g : Nat) (hs : List Hit) : State := hs.foldl (fun s h => s.keep (s.actor g) h) s

theorem keepAll_beside (s : State) (g : Nat) (hs : List Hit) : s.Beside (s.keepAll g hs) :=
  foldl_beside (fun (u : State) (h : Hit) => u.keep (u.actor g) h) (fun _ _ => keep_beside _ _ _) hs s

theorem keepAll_sameBytes (g : Nat) (hs : List Hit) : ∀ s : State, s.SameBytes (s.keepAll g hs) := by
  induction hs with
  | nil => exact fun s => .refl s
  | cons h t ih => exact fun s => (keep_sameBytes _ _ _).trans (ih _)

/-- An agent whose instruction has the plan of its elements. -/
def Agent.planned (l : List (Nat × Addr × Place)) (a : Agent) : Agent := { a with marks := { a.marks with plan := l } }

/-- The elements of a plan. -/
def planOf (es : List Elem) (hs : List Hit) : List (Nat × Addr × Place) := (es.zip hs).map (fun x => (x.1.ix, x.1.addr, x.2.place))

/-- The instruction of an agent has neither a plan nor an entry of a mailbox, and has performed no element. -/
def Agent.Fresh (a : Agent) : Prop := a.marks.plan = [] ∧ a.marks.done = [] ∧ a.marks.entry = none

theorem takeEntry_none {s : State} {is : Issue} (h : (s.ag is.g).marks.entry = none) : takeEntry is s = .ok ((), s) := by
  show Except.ok ((), _) = _
  dsimp only
  rw [h]

/-- The first attempt of an atomic instruction whose locations pass their checks and hold nothing bad. -/
theorem planM_ok {s : State} {is : Issue} {n : Nat} {k : Acc} {es : List Elem} {hs : List Hit} {first : List Place → M Unit}
    (ha : (s.ag is.g).Fresh) (hw : (s.tile (quayOf is.g)).watched = []) (hc : s.checkElems is n n k es = .ok hs)
    (hb : ∀ h ∈ hs, s.badRead h.place n = none)
    (hf : ∀ u, s.Beside u → ∃ t, first (hs.map (fun h => h.place)) u = .ok ((), t) ∧ u.Beside t) :
    ∃ t, planM is n k es first s = .ok (planOf es hs, t.modAg is.g (Agent.planned (planOf es hs))) ∧ s.Beside t := by
  obtain ⟨hp, -, he⟩ := ha
  have hacc : accessElems is n n k es s = .ok (hs, s.keepAll is.g hs) := by simp only [accessElems, hc, State.keepAll]
  have h1 := keepAll_beside s is.g hs
  obtain ⟨s2, hr, h2⟩ := readAtoms_ok n (es.zip hs) (s.keepAll is.g hs) fun x hx =>
    ((keepAll_sameBytes is.g hs s).badRead _ _).trans (hb x.2 (List.of_mem_zip hx).2)
  obtain ⟨s3, hfr, h3⟩ := hf s2 (h1.trans h2)
  have hw2 : (s2.tile (quayOf is.g)).watched = [] := by
    rw [State.tile, (h1.trans h2).tile]
    exact hw
  refine ⟨s3, ?_, (h1.trans h2).trans h3⟩
  unfold planM
  rw [bind_ok (takeEntry_none he), bind_ok (a := s.ag is.g) (t := s) rfl, hp]
  dsimp only
  rw [bind_ok hacc]
  refine (bind_ok hr).trans ?_
  rw [bind_ok (watchM_nothing hw2 _), bind_ok hfr]
  rfl

/-! ### Scalar atomics (R58) -/

/-- A translation in window 0x01 is a place of host memory. -/
theorem xlate_host {s : State} {b : Actor} {a : Addr} {k : Acc} {h : Hit} (hw : winOf a = 1) (hx : s.xlate b a k = .ok h) :
    h.place.space = .host := by
  unfold State.xlate at hx
  split at hx
  · next e => exact absurd (hw.symm.trans e) (by decide)
  · dsimp only at hx
    split at hx
    · cases hx
    split at hx
    · cases hx
    split at hx
    · cases hx
    split at hx
    · split at hx
      · cases hx
      split at hx <;> cases hx
    split at hx
    · cases hx
    · cases hx
      rfl
  · next e => exact absurd (hw.symm.trans e) (by decide)
  · next e => exact absurd (hw.symm.trans e) (by decide)
  · cases hx

/-- Elsewhere it is not asked whether host space carries the operation. -/
theorem xlate_hostBad {s : State} {b : Actor} {a : Addr} {k : Acc} {h : Hit} (c : Bool) (hx : s.xlate b a k = .ok h) (hp : h.place.space ≠ .host) :
    s.xlate b a { k with hostBad := c } = .ok h := by
  have hw : winOf a ≠ 1 := fun e => hp (xlate_host e hx)
  rw [← hx]
  unfold State.xlate
  split
  · rfl
  · next e => exact absurd e hw
  · rfl
  · rfl
  · rfl

/-- An access that passes its checks and reaches no host memory passes them as an atomic's. -/
theorem Reaches.atomic {s : State} {a : Addr} {n : Nat} {h : Hit} (hr : s.Reaches a n { r := true, w := true } h) (hp : h.place.space ≠ .host)
    (op : AtomOp) : s.Reaches a n op.acc h := by
  obtain ⟨hal, hx, hw, hh⟩ := hr
  exact ⟨hal, xlate_hostBad op.host.isNone hx hp, hw, hh⟩

theorem checkElems_one {s : State} {a : Addr} {n : Nat} {k : Acc} {h : Hit} (hr : s.Reaches a n k h) (e : Nat) :
    (s.begin_ s.issue).checkElems s.issue n n k [⟨e, a⟩] = .ok [h] := by
  have hc : (s.begin_ s.issue).check s.issue a n n k e = .ok h :=
    (check_same (begin_sameMaps s) (begin_sameAccess s) _ _ _ _ _).trans (check_reaches hr _)
  simp only [State.checkElems, hc]

theorem clear_fresh {a : Agent} (h : a.marks.clear = a.marks) : a.Fresh := by
  rw [Agent.Fresh, ← h]
  exact ⟨rfl, rfl, rfl⟩

/-- The hypotheses of an atomic: it can begin, and its location passes its checks and holds nothing bad. -/
structure State.AmoReady (s : State) (i : Instr) (a : Fin 16) (n : Nat) (h : Hit) : Prop where
  memoryOk : s.MemoryOk
  ready : s.Ready i
  outside : (s.ag s.cur).inStrip = false
  quiet : s.AllQuiet
  reaches : s.Reaches ((s.ag s.cur).ra a) n { r := true, w := true } h
  plain : h.place.Plain
  good : s.badRead h.place n = none

/-- The state in which the plan of an atomic with one location has been made. -/
theorem amo_planned {s : State} {i : Instr} {a : Fin 16} {n : Nat} {h : Hit} (hs : s.AmoReady i a n h) (op : AtomOp) (o : MOrd) (sc : Scope) :
    ∃ v, planM s.issue n op.acc [⟨noElem, (s.ag s.cur).ra a⟩] (fun _ => if ordRel o then releaseM s.issue sc else pure ()) (s.begin_ s.issue)
        = .ok ([(noElem, (s.ag s.cur).ra a, h.place)], v)
      ∧ s.Around v ∧ (∀ j, j ≠ s.cur → v.ag j = s.ag j) ∧ (∀ r, v.byte r = s.byte r)
      ∧ v.ag s.cur = ((s.ag s.cur).begun s.after).planned [(noElem, (s.ag s.cur).ra a, h.place)] := by
  obtain ⟨hq, hwc, hmarks, hwatch, hfeeds⟩ := hs.quiet
  have hag : (s.begin_ s.issue).ag s.cur = (s.ag s.cur).begun s.after := begin_begun s
  have hfresh : ((s.begin_ s.issue).ag s.cur).Fresh := by rw [hag]; exact clear_fresh hmarks
  have hdrained : ((s.begin_ s.issue).ag s.cur).Drained := by rw [hag]; exact ⟨hq, hwc⟩
  have hfirst (u : State) (hu : (s.begin_ s.issue).Beside u) :
      ∃ t, (if ordRel o then releaseM s.issue sc else pure () : M Unit) u = .ok ((), t) ∧ u.Beside t := by
    have htile : u.tile (quayOf s.cur) = s.tile (quayOf s.cur) := hu.tile _
    by_cases ho : ordRel o = true
    · rw [if_pos ho]
      exact releaseM_beside sc (by rw [issue_g, hu.ag]; exact hdrained) (by rw [issue_g, htile]; exact hwatch) (by rw [issue_g, htile]; exact hfeeds)
    · rw [if_neg ho]
      exact ⟨u, rfl, .refl u⟩
  obtain ⟨t, ht, hb⟩ := planM_ok (first := fun _ => if ordRel o then releaseM s.issue sc else pure ()) hfresh hwatch
    (checkElems_one (Reaches.atomic hs.reaches hs.plain.1 op) noElem)
    (fun x hx => by rw [List.mem_singleton.1 hx, (begin_sameMaps s).badRead]; exact hs.good) hfirst
  refine ⟨_, ht, ((modAg_around _ _ _).trans hb.toAround).trans (modAg_around _ _ _), fun j hj => ?_, hb.byte, ?_⟩
  · rw [issue_g, modAg_ag_ne _ _ _ hj, hb.ag, begin_ag_ne _ hj]
  · rw [issue_g, modAg_ag_self, hb.ag, hag]
    rfl

/-- The low `n` bytes of a scalar register. -/
def Agent.low (x : Agent) (r : Fin 32) (n : Nat) : Nat := (x.rs r).toNat % 2 ^ (8 * n)

/-- What a scalar atomic's location is combined or compared with: a compare-and-swap compares with the destination's value (R58). -/
def Agent.amoX (x : Agent) (op : AtomOp) (d b : Fin 32) (n : Nat) : Nat := if op = .cas then x.low d n else x.low b n

/-- The body of a scalar atomic of `n` bytes. -/
def amoBody (op : AtomOp) (d : Fin 32) (a : Fin 16) (b : Fin 32) (n : Nat) (o : MOrd) (sc : Scope) (is : Issue) : M Unit := do
  let x ← getA is
  let plan ← planM is n op.acc [⟨noElem, x.ra a⟩] (fun _ => if ordRel o then releaseM is sc else pure ())
  performAtoms is n op true (fun _ => x.amoX op d b n) (fun _ => x.low b n) (pure ()) (plan.map (fun p => (0, p.2)))
  let old := Assoc.get 0 0 (← getA is).marks.done
  modify (fun s => s.memRecord is.g (x.ra a) 2 (Nat.log2 n) 1)
  setS is d (BitVec.ofInt 64 (sext (8 * n) old))

theorem amo_eq (i : Instr) (op : AtomOp) (d : Fin 32) (a : Fin 16) (b : Fin 32) (w : Bool) (o : MOrd) (sc : Scope) (s : State) :
    amo i op d a b w o sc s = s.run i .cutting (amoBody op d a b (if w then 4 else 8) o sc) := rfl

theorem begin_low (s : State) (r : Fin 32) (n : Nat) : ((s.begin_ s.issue).ag s.cur).low r n = (s.ag s.cur).low r n := by
  rw [Agent.low, begin_rs, Agent.low]
theorem begin_amoX (s : State) (op : AtomOp) (d b : Fin 32) (n : Nat) :
    ((s.begin_ s.issue).ag s.cur).amoX op d b n = (s.ag s.cur).amoX op d b n := by simp only [Agent.amoX, begin_low]

/-- What an atomic leaves of the agent that completes it. -/
theorem atomic_kept {x : Agent} {m : MemRec} {l : List (Nat × Addr × Place)} {dn : List (Nat × Nat)} {d : Fin 32} {v at_ : Word} {c : Bool}
    (hr : x.status = .run) :
    let y := (((((x.begun at_).planned l).withDone dn).recorded m).ws d v).retired x.regs.pc c
    x.Retired y at_ ∧ x.KeptByMemory y ∧ y.strip = { x.strip with mark := .none } ∧ y.mem = x.mem ∧ x.AddressKept y ∧ x.ScalarIs y d v := by
  intro y
  obtain ⟨rs, ra, e⟩ := ws_regs ((((x.begun at_).planned l).withDone dn).recorded m) d v
  have hreg (r : Fin 32) : y.rs r = if r = d ∧ d ≠ 0 then v else x.rs r := ws_rs ((((x.begun at_).planned l).withDone dn).recorded m) d r v
  have haddr : y.regs.a = x.regs.a := ws_regs_a ((((x.begun at_).planned l).withDone dn).recorded m) d v
  have hy : y = _ := congrArg (fun z => Agent.retired z x.regs.pc c) e
  refine ⟨?_, ?_, ?_, ?_, haddr, hreg⟩
  all_goals rw [hy]
  · exact ⟨hr, rfl, rfl, rfl, rfl, rfl⟩
  · exact ⟨rfl, rfl, rfl, rfl, rfl, rfl, rfl, rfl, rfl, rfl⟩
  · rfl
  · rfl

theorem bind_error {α β : Type} {m : M α} {k : α → M β} {s : State} {e : Stop} (h : m s = .error e) : (m >>= k) s = .error e := by
  show (m s >>= fun p => k p.1 p.2) = _
  rw [h]
  rfl

/-- The agent stays at an instruction that has asked another module. -/
theorem asks_of_stay {s t : State} {i : Instr} {elem m : Nat} {x : Nat → LinkMsg} {mark : CutMark}
    (hx : exec i s = .next (t.stay s.issue mark (.remote s.link.nextTag elem (x s.link.nextTag)) false))
    (hs : (t.ag s.cur).regs.s = (s.ag s.cur).regs.s) (ha : (t.ag s.cur).regs.a = (s.ag s.cur).regs.a)
    (hoth : ∀ j, j ≠ s.cur → t.ag j = s.ag j) (hbyte : ∀ r, t.byte r = s.byte r) (hsent : t.Sent m (x s.link.nextTag)) : s.Asks i elem m x := by
  refine ⟨_, hx, ?_, ?_, ?_, ?_, fun g hg => ?_, hbyte, hsent⟩
  · rw [State.stay, issue_g, modAg_ag_self]
  · rw [State.stay, issue_g, modAg_ag_self]
  · rw [State.stay, issue_g, modAg_ag_self, hs]
  · rw [State.stay, issue_g, modAg_ag_self, ha]
  · rw [State.stay, issue_g, modAg_ag_ne _ _ _ hg, hoth g hg]

section
variable {s : State} {i : Instr} {op : AtomOp} {d b : Fin 32} {a : Fin 16} {o : MOrd} {sc : Scope} {n : Nat} {h : Hit}

/-- The body of an atomic up to its locations: the plan is made, and its one location is next. -/
theorem amoBody_planned (hs : s.AmoReady i a n h) : ∃ v, amoBody op d a b n o sc s.issue (s.begin_ s.issue)
      = (do
          performAtoms s.issue n op true (fun _ => (s.ag s.cur).amoX op d b n) (fun _ => (s.ag s.cur).low b n) (pure ())
            [(0, (s.ag s.cur).ra a, h.place)]
          let old := Assoc.get 0 0 (← getA s.issue).marks.done
          modify (fun (t : State) => t.memRecord s.cur ((s.ag s.cur).ra a) 2 (Nat.log2 n) 1)
          setS s.issue d (BitVec.ofInt 64 (sext (8 * n) old))) v
    ∧ s.Around v ∧ (∀ j, j ≠ s.cur → v.ag j = s.ag j) ∧ (∀ r, v.byte r = s.byte r)
    ∧ v.ag s.cur = ((s.ag s.cur).begun s.after).planned [(noElem, (s.ag s.cur).ra a, h.place)] := by
  obtain ⟨v, hplan, hv⟩ := amo_planned hs op o sc
  refine ⟨v, ?_, hv⟩
  rw [amoBody, bind_ok (a := (s.begin_ s.issue).ag s.cur) (t := s.begin_ s.issue) rfl]
  simp only [begin_ra, begin_low, begin_amoX]
  rw [bind_ok hplan]
  rfl

/-- An atomic whose home is here. -/
theorem amo_here (hs : s.AmoReady i a n h) (hx : exec i s = s.run i .cutting (amoBody op d a b n o sc)) (hh : s.away h.place = false) :
    s.Atomics i d h.place n (op.leaves n true (fun _ => (s.ag s.cur).amoX op d b n) (fun _ => (s.ag s.cur).low b n) 0
      (leNat (s.bytes h.place n))) := by
  obtain ⟨v, hbody, har, hoth, hbyte, hag⟩ := amoBody_planned (op := op) (d := d) (b := b) (o := o) (sc := sc) hs
  obtain ⟨hq, hwc, hmarks, -, -⟩ := hs.quiet
  have hdone : (v.ag s.cur).marks.done = [] := by rw [hag]; exact (clear_fresh hmarks).2.1
  obtain ⟨t, ht, htar, htoth, htag, htbyte⟩ := performAtoms_here (is := s.issue) (n := n) (op := op) (signed := true)
    (x := fun _ => (s.ag s.cur).amoX op d b n) (y := fun _ => (s.ag s.cur).low b n) (keep := pure ())
    [(0, (s.ag s.cur).ra a, h.place)] (s := v) (har.memoryOk hs.memoryOk) (by rw [issue_g, hag]; exact ⟨hq, hwc⟩)
    (fun e he => by rw [List.mem_singleton.1 he]; exact ⟨hs.plain, (har.away _).trans hh⟩) (by simp) (by rw [issue_g, hdone]; simp)
  have hold : ((h.place.span n).map v.byte) = s.bytes h.place n := by
    rw [funext hbyte, State.bytes, Place.span, List.map_map]; rfl
  rw [issue_g, hdone] at htag
  simp only [List.map_cons, List.map_nil, atomRun, hold, List.nil_append] at htag htbyte
  obtain ⟨m, hm⟩ := memRecord_recorded t s.cur ((s.ag s.cur).ra a) 2 (Nat.log2 n) 1
  have hrun : amoBody op d a b n o sc s.issue (s.begin_ s.issue)
      = .ok ((), t.modAg s.cur (fun x => (x.recorded m).ws d (BitVec.ofInt 64 (sext (8 * n) (leNat (s.bytes h.place n)))))) := by
    rw [hbody, bind_ok ht, bind_ok (a := t.ag s.cur) (t := t) rfl, htag, bind_ok (a := ()) (t := t.modAg s.cur (Agent.recorded m)) (by rw [← hm]; rfl)]
    rw [setS, modA_ok, issue_g, modAg_modAg]
    rfl
  have hrest := run_ok (pre_ready (r := .cutting) hs.ready rfl rfl rfl rfl rfl) (.inr hs.outside) hrun
    (by rw [modAg_ag_self, ws_status, htag, hag]; exact hs.ready.1)
    (.inr (by rw [modAg_ag_self, Agent.inStrip, ws_strip, htag, hag]; exact hs.outside))
  rw [modAg_modAg] at hrest
  have hb (r : Place) : t.byte r = putAtom n h.place (op.leaves n true (fun _ => (s.ag s.cur).amoX op d b n) (fun _ => (s.ag s.cur).low b n) 0
      (leNat (s.bytes h.place n))) s.byte r := by rw [htbyte, funext hbyte]
  refine ⟨_, hx.trans hrest, fun g hg => ?_, ?_⟩
  · rw [modAg_ag_ne _ _ _ hg, htoth g hg, hoth g hg]
  rw [modAg_ag_self, htag, hag]
  obtain ⟨hret, hkept, hstrip, hmem, haddr, hreg⟩ := atomic_kept (d := d) (v := BitVec.ofInt 64 (sext (8 * n) (leNat (s.bytes h.place n)))) (m := m)
    (l := [(noElem, (s.ag s.cur).ra a, h.place)]) (dn := [(0, leNat (s.bytes h.place n))]) (at_ := s.after) (c := Rule.cutting.cut) hs.ready.1
  refine ⟨hret, hkept, hstrip, hmem, haddr, hreg, fun k hk => ?_, fun r hr => (hb r).trans (if_neg (Place.not_within hr)),
    htar.fw.trans har.fw, htar.work.trans har.work⟩
  refine (hb _).trans ((if_pos (Place.plus_within h.place hk)).trans ?_)
  simp [Place.plus]

/-- An atomic whose home is another module's. -/
theorem amo_away (hs : s.AmoReady i a n h) (hx : exec i s = s.run i .cutting (amoBody op d a b n o sc)) (hh : s.away h.place = true) :
    s.Asks i 0 (h.place.addr / 2 ^ 44) (fun t => .amo t (op.number true) (writerOf s.cur).1 (writerOf s.cur).2 (quayOf s.cur) h.place.addr n
      ((s.ag s.cur).amoX op d b n) ((s.ag s.cur).low b n)) := by
  obtain ⟨v, hbody, har, hoth, hbyte, hag⟩ := amoBody_planned (op := op) (d := d) (b := b) (o := o) (sc := sc) hs
  obtain ⟨hq, hwc, hmarks, -, -⟩ := hs.quiet
  have hdone : (v.ag s.cur).marks.done = [] := by rw [hag]; exact (clear_fresh hmarks).2.1
  obtain ⟨t, ht, htag, htbyte, hsent⟩ := askHome_asks (α := Unit) (s := v) (g := s.cur) (by rw [hag]; exact ⟨hq, hwc⟩) 0 h.place (h.place.span n)
    (fun t => .amo t (op.number true) (writerOf s.cur).1 (writerOf s.cur).2 (quayOf s.cur) h.place.addr n
      ((s.ag s.cur).amoX op d b n) ((s.ag s.cur).low b n))
  have hatoms := performAtoms_cons (is := s.issue) (n := n) (op := op) (signed := true) (x := fun _ => (s.ag s.cur).amoX op d b n)
    (y := fun _ => (s.ag s.cur).low b n) (keep := pure ()) (e := (0, (s.ag s.cur).ra a, h.place)) (es := []) (s := v)
    (by rw [issue_g, hdone]; simp) hs.plain.1
  rw [if_pos ((har.away _).trans hh)] at hatoms
  have hrun := hbody.trans (bind_error (hatoms.trans ht))
  rw [har.nextTag] at hrun hsent
  have hagt : t.ag s.cur = ((s.ag s.cur).begun s.after).planned [(noElem, (s.ag s.cur).ra a, h.place)] := (htag _).trans hag
  refine asks_of_stay (t := t) (mark := (s.ag s.cur).strip.mark) (hx.trans ?_) (by rw [hagt]; rfl) (by rw [hagt]; rfl)
    (fun j hj => (htag j).trans (hoth j hj)) (fun r => (htbyte r).trans (hbyte r)) hsent
  rw [run_next, runBody_plain (pre_ready (r := .cutting) hs.ready rfl rfl rfl rfl rfl) (.inr hs.outside), hrun, finish_wait,
    untrim_same (by rw [issue_g, hagt]; rfl)]
  rfl

end

/-- The value that an operation leaves, as R58 writes it: the operand's, or the old one where a comparison does not call for it. -/
theorem leaves_minmax (n old x : Nat) : AtomOp.leaves .min n true (fun _ => x) (fun _ => x) 0 old = (if sext (8 * n) x < sext (8 * n) old then x else old)
    ∧ AtomOp.leaves .max n true (fun _ => x) (fun _ => x) 0 old = (if sext (8 * n) old < sext (8 * n) x then x else old) := by
  simp [AtomOp.leaves, AtomOp.new]

theorem leaves_cas (n old x y : Nat) : AtomOp.leaves .cas n true (fun _ => x) (fun _ => y) 0 old = if old = x then y else old := by
  simp only [AtomOp.leaves, AtomOp.new]
  split <;> rfl

/-- Settles O21: the plan of the one location is made, and it is performed here or asked of its home. -/
theorem atomicResults : Obligations.AtomicResults := by
  intro s d b a w o sc h n ag old x e sg hm hr ho hq hre hp hb
  have ready (i : Instr) (hi : i.takesExt = Instr.takesExt (.amoadd d a b w o sc)) : s.AmoReady i a n h :=
    ⟨hm, by rw [State.Ready, hi]; exact hr, ho, hq, hre, hp, hb⟩
  refine ⟨fun hh => ?_, fun hh => ?_⟩
  · have here (i : Instr) (op : AtomOp) (hi : i.takesExt = Instr.takesExt (.amoadd d a b w o sc)) (hx : exec i s = amo i op d a b w o sc s) :=
      amo_here (ready i hi) (hx.trans (amo_eq _ _ _ _ _ _ _ _ _)) hh
    refine ⟨here (.amoadd d a b w o sc) .add rfl rfl, here (.amoswp d a b w o sc) .swp rfl rfl, ?_, ?_, ?_,
      here (.amoand d a b w o sc) .and rfl rfl, here (.amoor d a b w o sc) .or rfl rfl, here (.amoxor d a b w o sc) .xor rfl rfl⟩
    · exact leaves_cas n old e x ▸ here (.amocas d a b w o sc) .cas rfl rfl
    · exact (leaves_minmax n old x).1 ▸ here (.amomin d a b w o sc) .min rfl rfl
    · exact (leaves_minmax n old x).2 ▸ here (.amomax d a b w o sc) .max rfl rfl
  · have away (i : Instr) (op : AtomOp) (hi : i.takesExt = Instr.takesExt (.amoadd d a b w o sc)) (hx : exec i s = amo i op d a b w o sc s) :=
      amo_away (ready i hi) (hx.trans (amo_eq _ _ _ _ _ _ _ _ _)) hh
    exact ⟨away (.amoadd d a b w o sc) .add rfl rfl, away (.amoswp d a b w o sc) .swp rfl rfl, away (.amocas d a b w o sc) .cas rfl rfl,
      away (.amomin d a b w o sc) .min rfl rfl, away (.amomax d a b w o sc) .max rfl rfl, away (.amoand d a b w o sc) .and rfl rfl,
      away (.amoor d a b w o sc) .or rfl rfl, away (.amoxor d a b w o sc) .xor rfl rfl⟩

end Sys2Proof.Machine
end

section
/-! System instructions: NOP, PREF, TRCM, SVC, BRK, ERET and HALT (R65-R67, R338, R354, R356). The statement O41 is settled here. -/

namespace Sys2Proof.Machine

/-! ### NOP, PREF, TRCM, SVC and BRK -/

theorem trcm_record {s : State} {r : Fin 32} {c : BitVec 12} :
    (s.begin_ s.issue).memRecord s.cur ((((s.begin_ s.issue).ag s.cur).rs r).setWidth 72) 6 0 c.toNat
      = (s.begin_ s.issue).modAg s.cur (Agent.recorded ⟨(s.ag s.cur).rs r,
          BitVec.ofNat 64 (6 * 2 ^ 8 + c.toNat * 2 ^ 16 + (s.cycleOf s.cur).toNat % 2 ^ 32 * 2 ^ 32)⟩) := by
  have hoff (x : Word) : offOf (x.setWidth 72) = x := by
    apply BitVec.eq_of_toNat_eq
    have := x.isLt
    simp only [offOf, BitVec.toNat_setWidth]
    omega
  have hwin (x : Word) : winOf (x.setWidth 72) = 0 := by
    have := x.isLt
    simp only [winOf, BitVec.toNat_setWidth]
    omega
  have hc : c.toNat % 2 ^ 16 = c.toNat := Nat.mod_eq_of_lt (by have := c.isLt; omega)
  have hcyc : (s.begin_ s.issue).cycleOf s.cur = s.cycleOf s.cur := rfl
  rw [State.memRecord, hoff, hwin, hc, begin_rs, hcyc]
  norm_num
  rfl

theorem trcm_result {s : State} {r : Fin 32} {c : BitVec 12} (hr : s.Ready (.trcm r c)) : ∃ t, exec (.trcm r c) s = .next t ∧ s.OnlyAgent t
    ∧ (s.ag s.cur).Retired (t.ag s.cur) s.after ∧ (s.ag s.cur).KeptAside (t.ag s.cur) ∧ (s.ag s.cur).ScalarKept (t.ag s.cur)
    ∧ (s.ag s.cur).AddressKept (t.ag s.cur)
    ∧ (t.ag s.cur).trace = { (s.ag s.cur).trace with
        mhead := ((s.ag s.cur).trace.mhead + 1) % 64
        memory := Assoc.set ((s.ag s.cur).trace.mhead % 64) ⟨(s.ag s.cur).rs r,
          BitVec.ofNat 64 (6 * 2 ^ 8 + c.toNat * 2 ^ 16 + (s.cycleOf s.cur).toNat % 2 ^ 32 * 2 ^ 32)⟩ (s.ag s.cur).trace.memory } := by
  have hx : exec (.trcm r c) s = s.run (.trcm r c) .both
      (fun is => modify (fun s => s.memRecord is.g (((s.ag is.g).rs r).setWidth 72) 6 0 c.toNat)) := rfl
  refine ⟨_, hx.trans (run_modAg (Agent.recorded ⟨(s.ag s.cur).rs r,
    BitVec.ofNat 64 (6 * 2 ^ 8 + c.toNat * 2 ^ 16 + (s.cycleOf s.cur).toNat % 2 ^ 32 * 2 ^ 32)⟩) hr (fun _ => rfl) ?_), ⟨rfl, fun g hg => ?_⟩, ?_⟩
  · exact congrArg (fun u => Except.ok ((), u)) trcm_record
  · rw [modAg_ag_ne _ _ _ hg, begin_ag_ne _ hg]
  rw [modAg_ag_self, begin_ag]
  exact ⟨⟨hr.1, rfl, rfl, rfl, rfl, rfl⟩, ⟨rfl, rfl, rfl, rfl, rfl, rfl, rfl, rfl, rfl⟩, rfl, rfl, rfl⟩

theorem svc_traps {s : State} {c : BitVec 12} (hr : s.Ready .nop) (ho : (s.ag s.cur).inStrip = false) :
    s.Traps (.svc c) { cause := 0x33, val := c.setWidth 64, tepc := some s.after, suspends := true } :=
  traps_of_body rfl (pre_ready (i := .svc c) (r := .cutting) hr rfl rfl rfl rfl rfl) (.inr ho) rfl

theorem brk_traps {s : State} {c : BitVec 12} (hr : s.Ready .nop) (ho : (s.ag s.cur).inStrip = false) :
    s.Traps (.brk c) { cause := 0x30, val := c.setWidth 64, tepc := some (s.ag s.cur).regs.pc, suspends := true } :=
  traps_of_body rfl (pre_ready (i := .brk c) (r := .cutting) hr rfl rfl rfl rfl rfl) (.inr ho) rfl

/-! ### ERET (R67, R338) -/

/-- The checks of an instruction of the system segment pass there. -/
theorem pre_system {s : State} {i : Instr} {r : Rule} (hr : s.Ready i) (hsys : s.sysAt (s.ag s.cur).part (s.ag s.cur).wordAddr = true)
    (ha : r.pilot = true) (hh : r.hart = true) (hs : r.strip = false) (hv : r.vcfg = false) : s.pre s.issue i r = none := by
  have h1 : ¬ (s.issue.pfx ≠ [] ∧ i.takesExt = false) := by
    rcases hr.2 with h | h
    · exact fun e => e.1 h
    · exact fun e => by simp [h] at e
  have h2 : ¬ (r.priv = true ∧ s.sysAt (s.ag s.issue.g).part s.issue.at_ = false) := fun e => by
    rw [issue_at, issue_g, hsys] at e
    exact Bool.noConfusion e.2
  unfold State.pre
  simp only [h1, h2, ha, hh, hs, hv]
  cases isPilot s.issue.g <;> simp

/-- An agent that returns from its handler to tepc. -/
def Agent.returned (pc : Word) (x : Agent) : Agent := (x.branchRecord pc x.trap.tepc 3).setPc x.trap.tepc

/-- An agent whose handler is over: INH is clear, and a suspended strip goes on. -/
def Agent.resumed (x : Agent) : Agent :=
  { x with
    trap := { x.trap with inh := false }
    strip := { x.strip with susp := false, held := .none
                            mark := if x.strip.isOpen && x.strip.susp then x.strip.held else x.strip.mark } }

/-- An agent at the cut that a return to another place than its restart point makes. -/
def Agent.cutHere (x : Agent) : Agent :=
  { x with strip := { x.strip with
      spc := x.trap.tepc, ckpt := (x.checkpoint x.trap.tepc (some x.vec.map)).strip.ckpt
      noabort := false, mark := .here, cutcnt := x.strip.cutcnt + 1 } }

/-- Whether a return makes a cut (R91). -/
def Agent.cutsOnReturn (x : Agent) : Prop := x.strip.isOpen = true ∧ x.strip.susp = true ∧ x.trap.tepc ≠ x.strip.spc

theorem commit_empty {s : State} {g : Nat} (h : (s.ag g).strip.buf = []) : s.commit g = s := by
  unfold State.commit
  exact if_pos h

theorem commitM_empty {s : State} {is : Issue} (h : (s.ag is.g).strip.buf = []) : commitM is s = .ok ((), s) := by
  have : s.commitWait is.g = none := by unfold State.commitWait; exact if_pos h
  simp only [commitM, this]

theorem eret_plain {s : State} {is : Issue} (h : (s.ag is.g).trap.inh = false) : s.eret is = s.modAg is.g (Agent.returned is.pc) := by
  unfold State.eret
  simp only [h]
  rfl

theorem eret_cuts {s : State} {is : Issue} (h : (s.ag is.g).trap.inh = true) (hb : (s.ag is.g).strip.buf = []) (hc : (s.ag is.g).cutsOnReturn) :
    s.eret is = s.modAg is.g (fun x => x.resumed.cutHere.returned is.pc) := by
  have hb' : ((s.modAg is.g Agent.resumed).ag is.g).strip.buf = [] := by rw [modAg_ag_self]; exact hb
  have hcut : (s.modAg is.g Agent.resumed).cutAt is.g (s.ag is.g).trap.tepc true .here = s.modAg is.g (fun x => x.resumed.cutHere) := by
    rw [State.cutAt, commit_empty hb', modAg_modAg, modAg_const, modAg_const s is.g (fun x => x.resumed.cutHere)]
    rfl
  unfold State.eret
  simp only [h, Bool.not_true, Bool.false_eq_true, if_false]
  refine (if_pos hc).trans ((congrArg (fun u : State => u.modAg is.g (Agent.returned is.pc)) hcut).trans ?_)
  rw [modAg_modAg]

theorem eret_stands {s : State} {is : Issue} (h : (s.ag is.g).trap.inh = true) (hc : ¬ (s.ag is.g).cutsOnReturn) :
    s.eret is = s.modAg is.g (fun x => x.resumed.returned is.pc) := by
  unfold State.eret
  simp only [h, Bool.not_true, Bool.false_eq_true, if_false]
  refine (if_neg hc).trans ?_
  show (s.modAg is.g Agent.resumed).modAg is.g (Agent.returned is.pc) = _
  rw [modAg_modAg]

/-- The body of ERET. -/
def eretBody (is : Issue) : M Unit := do
  let a ← getA is
  whenM (a.trap.inh && a.strip.isOpen && a.strip.susp && decide (a.trap.tepc ≠ a.strip.spc)) (commitM is)
  modify (fun s : State => s.eret is)

theorem exec_eret (s : State) : exec .eret s = s.run .eret { priv := true } eretBody := rfl

theorem eretBody_ok {s : State} {is : Issue} (h : (s.ag is.g).trap.inh = false ∨ (s.ag is.g).strip.buf = []) :
    eretBody is s = .ok ((), s.eret is) := by
  have hwhen (c : Bool) : whenM ((s.ag is.g).trap.inh && c) (commitM is) s = .ok ((), s) := by
    rcases h with h | h
    · rw [h]; rfl
    · cases ((s.ag is.g).trap.inh && c)
      · rfl
      · exact commitM_empty h
  have hall := hwhen ((s.ag is.g).strip.isOpen && ((s.ag is.g).strip.susp && decide ((s.ag is.g).trap.tepc ≠ (s.ag is.g).strip.spc)))
  rw [← Bool.and_assoc, ← Bool.and_assoc] at hall
  rw [eretBody, bind_ok (a := s.ag is.g) (t := s) rfl, bind_ok hall]
  rfl

section
variable {s : State}

/-- A return with INH clear only jumps. -/
theorem eret_jumps (hr : s.Ready .eret) (hsys : s.sysAt (s.ag s.cur).part (s.ag s.cur).wordAddr = true)
    (hi : (s.ag s.cur).trap.inh = false) : s.Jumps .eret (s.ag s.cur).trap.tepc 3 none := by
  have hi' : ((s.begin_ s.issue).ag s.cur).trap.inh = false := by rw [begin_ag]; exact hi
  refine jumps_of_next (m := id) hr.1 ((exec_eret s).trans
    (run_jump (r := { priv := true }) hr.1 (pre_system hr hsys rfl rfl rfl rfl) ⟨rfl, rfl⟩ ((eretBody_ok (.inl hi')).trans ?_)))
  rw [eret_plain hi', issue_g, modAg_const, modAg_const (s.begin_ s.issue) s.cur (Agent.jumped _ _ _ _ _), begin_ag]
  rfl

/-- The next state of a return from a handler, by what it makes of its agent. -/
theorem run_eret (hr : s.Ready .eret) (hsys : s.sysAt (s.ag s.cur).part (s.ag s.cur).wordAddr = true) (hb : (s.ag s.cur).strip.buf = [])
    (f : Agent → Agent) (hf : ∀ x : Agent, (f x).status = x.status)
    (he : (s.begin_ s.issue).eret s.issue = (s.begin_ s.issue).modAg s.cur f) :
    exec .eret s = .next ((s.begin_ s.issue).modAg s.cur (fun x => (f x).retired (s.ag s.cur).regs.pc false)) := by
  have hbody := eretBody_ok (s := s.begin_ s.issue) (is := s.issue) (.inr (by rw [issue_g, begin_ag]; exact hb))
  rw [he] at hbody
  rw [exec_eret, run_ok (r := { priv := true }) (pre_system hr hsys rfl rfl rfl rfl) (.inl rfl) hbody
    (by rw [modAg_ag_self, hf, begin_ag]; exact hr.1) (.inl rfl), modAg_modAg]

/-- A return from a handler. -/
theorem eret_returns (hr : s.Ready .eret) (hsys : s.sysAt (s.ag s.cur).part (s.ag s.cur).wordAddr = true)
    (hi : (s.ag s.cur).trap.inh = true) (hb : (s.ag s.cur).strip.buf = []) :
    let x := s.ag s.cur
    ∃ t, exec .eret s = .next t ∧ s.OnlyAgent t
        ∧ x.Goes (t.ag s.cur) x.trap.tepc ∧ x.ScalarKept (t.ag s.cur) ∧ x.AddressKept (t.ag s.cur) ∧ x.RingIs (t.ag s.cur) x.trap.tepc 3
        ∧ (t.ag s.cur).trap = { x.trap with inh := false, wsup := x.trap.wsup && decide (x.trap.wsupc ≠ x.regs.pc) }
        ∧ (t.ag s.cur).strip.susp = false ∧ (t.ag s.cur).strip.isOpen = x.strip.isOpen ∧ (t.ag s.cur).strip.vl = x.strip.vl
        ∧ (if x.strip.isOpen = true ∧ x.strip.susp = true ∧ x.trap.tepc ≠ x.strip.spc
            then (t.ag s.cur).strip.spc = x.trap.tepc ∧ (t.ag s.cur).strip.ckpt.s = x.regs.s ∧ (t.ag s.cur).strip.ckpt.a = x.regs.a
            else (t.ag s.cur).strip.spc = x.strip.spc ∧ (t.ag s.cur).strip.ckpt = x.strip.ckpt) := by
  intro x
  have hi' : ((s.begin_ s.issue).ag s.issue.g).trap.inh = true := by rw [issue_g, begin_ag]; exact hi
  have hb' : ((s.begin_ s.issue).ag s.issue.g).strip.buf = [] := by rw [issue_g, begin_ag]; exact hb
  have hc' : ((s.begin_ s.issue).ag s.issue.g).cutsOnReturn ↔ x.cutsOnReturn := by rw [issue_g, begin_ag]; exact Iff.rfl
  by_cases hc : x.cutsOnReturn
  · refine ⟨_, run_eret hr hsys hb (fun y => y.resumed.cutHere.returned x.regs.pc) (fun _ => rfl) (eret_cuts hi' hb' (hc'.2 hc)), ⟨rfl, fun g hg => ?_⟩, ?_⟩
    · rw [modAg_ag_ne _ _ _ hg, begin_ag_ne _ hg]
    rw [modAg_ag_self, begin_begun]
    exact ⟨⟨hr.1, rfl, rfl, rfl, rfl⟩, rfl, rfl, ⟨rfl, rfl, rfl, rfl⟩, rfl, rfl, rfl, rfl, (if_pos hc).mpr ⟨rfl, rfl, rfl⟩⟩
  · refine ⟨_, run_eret hr hsys hb (fun y => y.resumed.returned x.regs.pc) (fun _ => rfl) (eret_stands hi' (mt hc'.1 hc)), ⟨rfl, fun g hg => ?_⟩, ?_⟩
    · rw [modAg_ag_ne _ _ _ hg, begin_ag_ne _ hg]
    rw [modAg_ag_self, begin_begun]
    exact ⟨⟨hr.1, rfl, rfl, rfl, rfl⟩, rfl, rfl, ⟨rfl, rfl, rfl, rfl⟩, rfl, rfl, rfl, rfl, (if_neg hc).mpr ⟨rfl, rfl⟩⟩

end

/-! ### HALT (R356) -/

theorem leaveLease_beside (s : State) (g : Nat) : s.Beside (s.leaveLease g) :=
  modQy_beside (fun _ => ⟨rfl, rfl, rfl, rfl⟩) fun h => h.2.2 _

/-- An agent whose HALT has retired: its resume point is past it. -/
def Agent.haltDone (pc at_ : Word) (x : Agent) : Agent := (x.modTrap (fun t => { t with tepc := at_ })).retired pc true

/-- An agent that the debugger has stopped. -/
def Agent.stopped (p : Word) (reason : Nat) (byDebug : Bool) (x : Agent) : Agent :=
  { x with
    status := .halted
    regs := { x.regs with pc := p, pfx := [] }
    strip := { x.strip with susp := x.strip.susp || x.strip.isOpen }
    marks := { x.marks with reason := reason, byDebug := byDebug, stepping := false, wasSusp := x.strip.susp } }

theorem haltAt_eq (s : State) (g : Nat) (p : Word) (reason : Nat) (byDebug : Bool) :
    s.haltAt g p reason byDebug = (s.leaveLease g).modAg g (Agent.stopped p reason byDebug) := rfl

/-- A halted agent before it is saved. -/
def Agent.parked (x : Agent) : Agent :=
  { x with
    status := .halted, strip := { x.strip with susp := x.strip.isOpen }
    marks := { x.marks with byDebug := false } }

/-- Two states differ in the vector file of one agent and in the free values drawn. -/
structure State.OnlyVec (g : Nat) (s t : State) : Prop where
  fw : t.fw = s.fw
  others : ∀ j, j ≠ g → t.ag j = s.ag j
  byte : ∀ r, t.byte r = s.byte r
  own : ∃ f, t.ag g = { s.ag g with vec := f }

theorem settleSlices_onlyVec (g : Nat) (xs : List (Nat × Nat)) : ∀ s : State, s.OnlyVec g (s.settleSlices g xs) := by
  induction xs with
  | nil => exact fun s => ⟨rfl, fun _ _ => rfl, fun _ => rfl, _, rfl⟩
  | cons x xs ih =>
    intro s
    have hstep (u : State) (hu : s.OnlyVec g u) : s.OnlyVec g (u.settleSlices g xs) := by
      obtain ⟨hf, ho, hb, f, hown⟩ := ih u
      obtain ⟨f', hown'⟩ := hu.own
      exact ⟨hf.trans hu.fw, fun j hj => (ho j hj).trans (hu.others j hj), fun r => (hb r).trans (hu.byte r), f, by rw [hown, hown']⟩
    show s.OnlyVec g (State.settleSlices _ g xs)
    apply hstep
    dsimp only
    split
    · refine ⟨rfl, fun j hj => (modAg_ag_ne _ _ _ hj), fun _ => rfl, ((s.ag g).vec.lose x), ?_⟩
      rw [modAg_ag_self]
      rfl
    · exact ⟨rfl, fun _ _ => rfl, fun _ => rfl, _, rfl⟩

theorem get_erase_append {β : Type} (d v : β) (k : Nat) (m : Assoc β) : Assoc.get d k (Assoc.erase k m ++ [(k, v)]) = v := by
  induction m with
  | nil => simp [Assoc.erase, Assoc.get]
  | cons q t ih =>
    by_cases h : q.1 = k
    · simpa [Assoc.erase, h] using ih
    · simpa [Assoc.erase, h, Assoc.get] using ih

theorem performAll_beside {s : State} {g : Nat} (h : (s.ag g).Drained) : s.Beside (s.performAll g) := by
  have hd := drainQueue_beside h.1
  have hw : (s.drainQueue g).drainWc g = s.drainQueue g := by rw [State.drainWc, hd.ag, h.2]; rfl
  rw [State.performAll, hw]
  exact hd

theorem rekey_beside (s : State) (q old new : Nat) : (∀ j, (s.rekey q old new).ag j = s.ag j) ∧ (∀ r, (s.rekey q old new).byte r = s.byte r) :=
  ⟨fun _ => rfl, modQy_byte s q fun _ => ⟨rfl, rfl⟩⟩

/-- The state in which an agent leaves its slot: its task is at the tail, its slot keeps what a slot keeps. -/
theorem saveAgent_saves {s : State} {g : Nat} (hd : (s.ag g).Drained) (hs : (s.ag g).status = .halted) (reason : Nat) :
    let t := s.saveAgent g .halted reason
    (∀ j, j ≠ g → t.ag j = s.ag j) ∧ (∀ r, t.byte r = s.byte r) ∧ (t.ag g).status = .absent ∧ t.fw = s.fw
    ∧ (t.task (s.ag g).tkey).state = .halted
    ∧ ∃ y, (t.task (s.ag g).tkey).saved = some y ∧ y.status = .halted ∧ y.regs = (s.ag g).regs ∧ y.trap = (s.ag g).trap := by
  have h1 := (performAll_beside hd).trans (leaveLease_beside _ g)
  have h2 := settleSlices_onlyVec g ((((s.performAll g).leaveLease g).ag g).vec.expired) ((s.performAll g).leaveLease g)
  unfold State.saveAgent
  dsimp only
  generalize (s.performAll g).leaveLease g = u at h1 h2 ⊢
  generalize u.settleSlices g (u.ag g).vec.expired = w at h2 ⊢
  obtain ⟨f, hw⟩ := h2.own
  rw [h1.ag] at hw
  have htask (T : Task) : ((((w.toTail (w.ag g).tkey T).rekey (quayOf g) g (taskToken (w.ag g).tkey)).setAg g (w.ag g).residue).task (s.ag g).tkey)
      = { T with since := w.work.nextReady } := by
    rw [show (s.ag g).tkey = (w.ag g).tkey by rw [hw]]
    exact get_erase_append _ _ _ _
  rw [htask]
  refine ⟨fun j hj => ?_, fun r => ?_, ?_, h2.fw.trans h1.fw, rfl, _, rfl, ?_, ?_, ?_⟩
  · rw [setAg_ag_ne _ _ _ hj]
    exact (h2.others j hj).trans (h1.ag j)
  · exact ((rekey_beside _ _ _ _).2 r).trans ((h2.byte r).trans (h1.byte r))
  · rw [setAg_ag_self]
    rfl
  · dsimp only
    rw [hw]
    simp only [hs]
  · dsimp only
    rw [hw]
  · dsimp only
    rw [hw]

theorem exec_halt (s : State) : exec .halt s = s.run .halt { priv := true, cut := true } haltBody := rfl

section
variable {s : State} (hr : s.Ready .halt) (hsys : s.sysAt (s.ag s.cur).part (s.ag s.cur).wordAddr = true) (ho : (s.ag s.cur).inStrip = false)
include hr ho

/-- The state in which HALT has retired. -/
theorem halt_retires : ((s.begin_ s.issue).modAg s.cur (fun a => a.modTrap (fun t => { t with tepc := s.after }))).retire s.issue true
    = (s.begin_ s.issue).modAg s.cur (Agent.haltDone (s.ag s.cur).regs.pc s.after) := by
  rw [retire_run, issue_g, modAg_modAg]
  · rfl
  · rw [issue_g, modAg_ag_self, begin_begun]; exact hr.1
  · rw [issue_g, modAg_ag_self, begin_begun]; exact .inr ho

include hsys

/-- A HALT that leaves its agent halted or gone has retired already. -/
theorem run_halt {t : State} (hb : haltBody s.issue (s.begin_ s.issue) = .ok ((), t))
    (ht : (t.ag s.cur).status = .absent ∨ (t.ag s.cur).status = .halted) : exec .halt s = .next t := by
  rw [exec_halt, run_next, runBody_plain (r := { priv := true, cut := true }) (pre_system hr hsys rfl rfl rfl rfl) (.inr ho), hb, finish_ok]
  exact congrArg Host.Outcome.next (if_pos ht)

theorem halt_debugged (hd : (s.ctx (s.ag s.cur).ctx).debugger = true) : let x := s.ag s.cur
    ∃ t r, exec .halt s = .next t ∧ s.OthersKept t
      ∧ (t.ctx x.ctx).records = (s.ctx x.ctx).records ++ [r] ∧ r.cause = 0x3A ∧ r.sub = 2 ∧ r.flags = 1 ∧ r.pc = x.regs.pc
      ∧ (t.ag s.cur).status = .halted ∧ (t.ag s.cur).regs = { x.regs with pc := s.after, pfx := [], instret := x.regs.instret + 1 }
      ∧ (t.ag s.cur).trap.tepc = s.after ∧ (t.ag s.cur).marks.reason = 0x3A := by
  intro x
  let v := (s.begin_ s.issue).modAg s.cur (Agent.haltDone x.regs.pc s.after)
  let r := v.record s.issue { cause := Cause.debugHalt, sub := 2 } fPrecise
  let t := ((v.modCtx x.ctx (fun z => { z with records := z.records ++ [r] })).leaveLease s.cur).modAg s.cur
    (Agent.stopped s.after Cause.debugHalt false)
  have hv : v.ag s.cur = (x.begun s.after).haltDone x.regs.pc s.after := by rw [modAg_ag_self, begin_begun]
  have hsend : v.sendHalt s.issue 2 = v.modCtx x.ctx (fun z => { z with records := z.records ++ [r] }) := by
    have hctx : v.ctxOf s.issue.g = x.ctx := by rw [State.ctxOf, issue_g, hv]; rfl
    rw [State.sendHalt, hctx, State.sendDebugger]
    exact if_pos hd
  have hbody : haltBody s.issue (s.begin_ s.issue) = .ok ((), t) := by
    have hd' : ((s.begin_ s.issue).ctx ((s.begin_ s.issue).ag s.issue.g).ctx).debugger = true := by rw [issue_g, begin_begun]; exact hd
    unfold haltBody
    rw [if_pos hd']
    refine congrArg (fun u => Except.ok ((), u)) ?_
    refine (congrArg (fun u : State => (u.sendHalt s.issue 2).haltAt s.cur s.after Cause.debugHalt false) (halt_retires hr ho)).trans ?_
    rw [haltAt_eq, hsend]
  have hl := leaveLease_beside (v.modCtx x.ctx (fun z => { z with records := z.records ++ [r] })) s.cur
  have ht : t.ag s.cur = ((x.begun s.after).haltDone x.regs.pc s.after).stopped s.after Cause.debugHalt false := by
    rw [modAg_ag_self, hl.ag, modCtx_ag, hv]
  have hrec : r.flags = 1 ∧ r.pc = x.regs.pc := by
    refine ⟨?_, rfl⟩
    show 1 + 0 + (if (v.ag s.cur).inStrip = true then fInstrip else 0) = 1
    rw [if_neg (by rw [hv]; exact Bool.eq_false_iff.1 ho)]
  refine ⟨t, r, run_halt hr hsys ho hbody (.inr (by rw [ht]; rfl)), ⟨fun g hg => ?_, hl.byte⟩, ?_, rfl, rfl, hrec.1, hrec.2, ?_, ?_, ?_, ?_⟩
  · rw [modAg_ag_ne _ _ _ hg, hl.ag, modCtx_ag, modAg_ag_ne _ _ _ hg, begin_ag_ne _ hg]
  · exact congrArg Ctx.records (modCtx_ctx_self v x.ctx (fun z => { z with records := z.records ++ [r] }))
  all_goals
    rw [ht]
    rfl

/-- A HALT without a debugger posts a Report and saves its task. -/
theorem halt_saved (hd : (s.ctx (s.ag s.cur).ctx).debugger = false) (hq : s.AllQuiet) (hc : s.copiesDone s.cur = true) : let x := s.ag s.cur
    ∃ t y r, exec .halt s = .next t ∧ s.OthersKept t ∧ (t.ag s.cur).status = .absent ∧ (t.task x.tkey).state = .halted
      ∧ (t.task x.tkey).saved = some y ∧ y.status = .halted ∧ y.regs = { x.regs with pc := s.after, pfx := [], instret := x.regs.instret + 1 }
      ∧ y.trap.tepc = s.after ∧ r.cause = 0x3A ∧ r.sub = 2 ∧ r.flags = 8 ∧ t.part x.part = (s.part x.part).postOrHold r 3 := by
  intro x
  obtain ⟨hqueue, hwc, -, -, -⟩ := hq
  let v := (s.begin_ s.issue).modAg s.cur (Agent.haltDone x.regs.pc s.after)
  let r := (s.begin_ s.issue).record s.issue { cause := Cause.debugHalt, sub := 2 } fInfo
  let w := (v.report x.part r).modAg s.cur Agent.parked
  have hv : v.ag s.cur = (x.begun s.after).haltDone x.regs.pc s.after := by rw [modAg_ag_self, begin_begun]
  have hw : w.ag s.cur = ((x.begun s.after).haltDone x.regs.pc s.after).parked := by rw [modAg_ag_self, State.report, modPart_ag, hv]
  have hbody : haltBody s.issue (s.begin_ s.issue) = .ok ((), w.saveAgent s.cur .halted Cause.debugHalt) := by
    have hd' : ¬ ((s.begin_ s.issue).ctx ((s.begin_ s.issue).ag s.issue.g).ctx).debugger = true := by
      rw [issue_g, begin_begun]; exact Bool.eq_false_iff.1 hd
    have hc' : ¬ (!(s.begin_ s.issue).copiesDone s.issue.g) = true := by
      have : (s.begin_ s.issue).copiesDone s.issue.g = true := hc
      rw [this]
      decide
    unfold haltBody
    rw [if_neg hd', if_neg hc']
    refine congrArg (fun u => Except.ok ((), u)) ?_
    have hpart : ((s.begin_ s.issue).ag s.issue.g).part = x.part := by rw [issue_g, begin_begun]; rfl
    rw [hpart]
    exact congrArg (fun u : State => ((u.report x.part r).modAg s.cur Agent.parked).saveAgent s.cur .halted Cause.debugHalt) (halt_retires hr ho)
  obtain ⟨hoth, hbyte, habs, hfw, hstate, y, hsaved, hy, hregs, htrap⟩ := saveAgent_saves (s := w) (g := s.cur) (by rw [hw]; exact ⟨hqueue, hwc⟩)
    (by rw [hw]; rfl) Cause.debugHalt
  have hkey : (w.ag s.cur).tkey = x.tkey := by rw [hw]; rfl
  rw [hkey] at hstate hsaved
  have hflags : r.flags = 8 := by
    show 8 + 0 + (if ((s.begin_ s.issue).ag s.cur).inStrip = true then fInstrip else 0) = 8
    rw [if_neg (by rw [begin_begun]; exact Bool.eq_false_iff.1 ho)]
  refine ⟨_, y, r, run_halt hr hsys ho hbody (.inl habs), ⟨fun g hg => ?_, hbyte⟩, habs, hstate, hsaved, hy, ?_, ?_, rfl, rfl, hflags, ?_⟩
  · rw [hoth g hg, modAg_ag_ne _ _ _ hg, State.report, modPart_ag, modAg_ag_ne _ _ _ hg, begin_ag_ne _ hg]
  · rw [hregs, hw]
    rfl
  · rw [htrap, hw]
    rfl
  · rw [State.part, hfw]
    exact modPart_part_self v x.part (fun p => p.postOrHold r 3)

end

/-- Settles O41: NOP, PREF and TRCM retire, SVC and BRK trap, ERET returns, and HALT stops under a debugger or saves the task. -/
theorem systemResults : Obligations.SystemResults := by
  intro s h a o r c g x sys
  exact ⟨fun hr => idle_of_body hr rfl rfl, fun hr => idle_of_body hr rfl rfl, trcm_result, fun ho hr => ⟨svc_traps hr ho, brk_traps hr ho⟩,
    eret_jumps, eret_returns, fun hr hsys ho hd => halt_debugged hr hsys ho hd, fun hr hsys ho hd hq hc => halt_saved hr hsys ho hd hq hc⟩

end Sys2Proof.Machine
end

section
/-! The vector file: fields of numbers, reads and writes of the elements of a group (R96, R99, R103, R105), for a hart whose file is at
rest. -/

namespace Sys2Proof.Machine

/-! ### Fields of numbers -/

theorem putBits_eq (x p w y : Nat) : putBits x p w y = 2 ^ p * (2 ^ w * (x / 2 ^ p / 2 ^ w) + y % 2 ^ w) + x % 2 ^ p := by
  have hx : x = 2 ^ p * (2 ^ w * (x / 2 ^ p / 2 ^ w)) + 2 ^ p * (x / 2 ^ p % 2 ^ w) + x % 2 ^ p := by
    rw [← Nat.mul_add, Nat.div_add_mod, Nat.div_add_mod]
  have hb : bitsOf x p w = x / 2 ^ p % 2 ^ w := by rw [bitsOf, Nat.shiftRight_eq_div_pow]
  rw [putBits, hb, Nat.shiftLeft_eq, Nat.shiftLeft_eq, Nat.mul_comm (x / 2 ^ p % 2 ^ w), Nat.mul_comm (y % 2 ^ w), Nat.mul_add]
  generalize 2 ^ p * (2 ^ w * (x / 2 ^ p / 2 ^ w)) = a at *
  generalize 2 ^ p * (x / 2 ^ p % 2 ^ w) = b at *
  omega

theorem testBit_putBits (x p w y j : Nat) : (putBits x p w y).testBit j = if p ≤ j ∧ j < p + w then y.testBit (j - p) else x.testBit j := by
  rw [putBits_eq, Nat.testBit_two_pow_mul_add _ (Nat.mod_lt _ (Nat.two_pow_pos p)),
    Nat.testBit_two_pow_mul_add _ (Nat.mod_lt _ (Nat.two_pow_pos w)), Nat.testBit_mod_two_pow, Nat.testBit_mod_two_pow,
    Nat.testBit_div_two_pow, Nat.testBit_div_two_pow]
  by_cases h1 : j < p
  · simp [h1, Nat.not_le.2 h1]
  · by_cases h2 : j - p < w
    · have : p ≤ j ∧ j < p + w := by omega
      simp [h1, h2, this]
    · have h3 : ¬ (p ≤ j ∧ j < p + w) := by omega
      have h4 : j - p - w + w + p = j := by omega
      simp [h1, h2, h3, h4]

theorem testBit_bitsOf (x p w k : Nat) : (bitsOf x p w).testBit k = (decide (k < w) && x.testBit (p + k)) := by
  rw [bitsOf, Nat.testBit_mod_two_pow, Nat.testBit_shiftRight]

/-- A field put into a number is read back there. -/
theorem bitsOf_putBits_same (x p w y : Nat) : bitsOf (putBits x p w y) p w = y % 2 ^ w := by
  apply Nat.eq_of_testBit_eq
  intro k
  rw [testBit_bitsOf, testBit_putBits, Nat.testBit_mod_two_pow]
  by_cases h : k < w
  · simp [h]
  · simp [h]

/-- A field put into a number leaves the fields beside it. -/
theorem bitsOf_putBits_ne (x y : Nat) {p q w : Nat} (h : q + w ≤ p ∨ p + w ≤ q) : bitsOf (putBits x p w y) q w = bitsOf x q w := by
  apply Nat.eq_of_testBit_eq
  intro k
  rw [testBit_bitsOf, testBit_bitsOf, testBit_putBits]
  by_cases hk : k < w
  · rw [if_neg (by omega)]
  · simp [hk]

theorem putBits_lt {x p w y n : Nat} (hx : x < 2 ^ n) (hp : p + w ≤ n) : putBits x p w y < 2 ^ n := by
  apply Nat.lt_pow_two_of_testBit
  intro j hj
  rw [testBit_putBits, if_neg (by omega)]
  exact Nat.testBit_lt_two_pow (Nat.lt_of_lt_of_le hx (Nat.pow_le_pow_right (by decide) hj))

/-! ### Where the elements of a group lie (R96) -/

/-- Two elements of one register do not overlap. -/
theorem elemAt_apart {vlen w i j : Nat} (h : i ≠ j) (hr : (elemAt vlen w i).1 = (elemAt vlen w j).1) :
    (elemAt vlen w i).2 + w ≤ (elemAt vlen w j).2 ∨ (elemAt vlen w j).2 + w ≤ (elemAt vlen w i).2 := by
  simp only [elemAt] at hr ⊢
  have hi := Nat.div_add_mod (i * w) vlen
  have hj := Nat.div_add_mod (j * w) vlen
  rw [hr] at hi
  have key {a b : Nat} (hab : a < b) : a * w + w ≤ b * w := by
    rw [← Nat.succ_mul]
    exact Nat.mul_le_mul_right w hab
  rcases Nat.lt_or_gt_of_ne h with h | h
  · have := key h
    omega
  · have := key h
    omega

/-- An element ends within its register. -/
theorem elemAt_within {vlen w : Nat} (hv : 0 < vlen) (hd : w ∣ vlen) (i : Nat) : (elemAt vlen w i).2 + w ≤ vlen := by
  obtain ⟨c, rfl⟩ := hd
  simp only [elemAt]
  have hc : 0 < c := Nat.pos_of_mul_pos_left hv
  rw [Nat.mul_comm i w, Nat.mul_mod_mul_left]
  have := Nat.mod_lt i hc
  calc w * (i % c) + w = w * (i % c + 1) := by ring
    _ ≤ w * c := Nat.mul_le_mul_left w this

/-- The elements written to a register. -/
def putElems (vlen w : Nat) (ups : List (Nat × Nat)) (x : Nat) : Nat := ups.foldl (fun x u => putBits x (elemAt vlen w u.1).2 w u.2) x

theorem putElems_lt {vlen w n : Nat} (ups : List (Nat × Nat)) (hv : 0 < vlen) (hd : w ∣ vlen) (hn : vlen ≤ n) :
    ∀ {x : Nat}, x < 2 ^ n → putElems vlen w ups x < 2 ^ n := by
  induction ups with
  | nil => exact fun h => h
  | cons u t ih => exact fun h => ih (putBits_lt h (Nat.le_trans (elemAt_within hv hd u.1) hn))

/-- An element after some elements of its register have been written, each once. -/
theorem bitsOf_putElems {vlen w r i : Nat} (hi : (elemAt vlen w i).1 = r) (ups : List (Nat × Nat)) : ∀ x : Nat,
    (∀ u ∈ ups, (elemAt vlen w u.1).1 = r) → (ups.map (fun u => u.1)).Nodup →
    bitsOf (putElems vlen w ups x) (elemAt vlen w i).2 w = match ups.find? (fun u => decide (u.1 = i)) with
      | some u => u.2 % 2 ^ w
      | none => bitsOf x (elemAt vlen w i).2 w := by
  induction ups with
  | nil => exact fun _ _ _ => rfl
  | cons u t ih =>
    intro x hr hn
    rw [List.map_cons, List.nodup_cons] at hn
    have e : putElems vlen w (u :: t) x = putElems vlen w t (putBits x (elemAt vlen w u.1).2 w u.2) := rfl
    rw [e, ih _ (fun y hy => hr y (.tail _ hy)) hn.2]
    by_cases hu : u.1 = i
    · have ht : t.find? (fun y => decide (y.1 = i)) = none := by
        rw [List.find?_eq_none]
        intro y hy
        simp only [decide_eq_true_eq]
        exact fun h => hn.1 (List.mem_map.2 ⟨y, hy, h.trans hu.symm⟩)
      rw [ht, List.find?_cons_of_pos (by simpa using hu)]
      dsimp only
      rw [← hu, bitsOf_putBits_same]
    · rw [List.find?_cons_of_neg (by simpa using hu)]
      cases t.find? (fun y => decide (y.1 = i)) with
      | some y => rfl
      | none => exact bitsOf_putBits_ne _ _ (elemAt_apart (Ne.symm hu) (hi.trans (hr u (.head _)).symm))

end Sys2Proof.Machine
end

section
/-! The vector file of a hart with nothing under way: its free registers, writes of the elements of a group, and reads (R96-R105, R228). -/
namespace Sys2Proof.Machine

/-! ### The vector file of a hart at rest -/

/-- Nothing is recorded on the registers of a vector file, and its map names each physical register once. -/
structure Agent.AtRest (x : Agent) : Prop where
  marks : x.vec.marks = []
  poison : x.vec.poison = []
  expired : x.vec.expired = []
  nodup : x.vec.map.v.toList.Nodup

/-- The physical vector registers that neither the map nor the snapshot of an agent names. -/
def Agent.freeRegs (x : Agent) : List Nat :=
  (List.range 96).filter (fun p => !(x.vec.map.v.toList.any (fun y => decide (y.val = p))) && !x.snapHolds p)

theorem landingOn_none {s : State} {g : Nat} (h : s.landings g = []) (p : Nat) : s.landingOn g p = false := by
  rw [State.landingOn, h]
  rfl

theorem freePhys_eq {s : State} {g : Nat} (h : s.landings g = []) : s.freePhys g = (s.ag g).freeRegs := by
  simp [State.freePhys, Agent.freeRegs, landingOn_none h]

theorem settleSlices_nil (s : State) (g : Nat) : s.settleSlices g [] = s := rfl

/-- The elements of a write that lie in one register of a group. -/
def inReg (v vlen r w : Nat) (ups : List (Nat × Nat)) : List (Nat × Nat) := ups.filter (fun u => decide (v + (elemAt vlen w u.1).1 = r))

/-- The physical register that a write of an architectural one takes: its own, or a new one when the snapshot shares it (R99). -/
def Agent.writePhys (x : Agent) (r : Nat) : Nat :=
  if x.snapHolds (x.physOf r).val then x.freeRegs.headD (x.physOf r).val else (x.physOf r).val

theorem writePhys_lt (x : Agent) (r : Nat) : x.writePhys r < 96 := by
  unfold Agent.writePhys
  split
  · cases h : x.freeRegs with
    | nil => exact (x.physOf r).isLt
    | cons q t =>
      have : q ∈ x.freeRegs := by rw [h]; exact .head _
      exact List.mem_range.1 (List.mem_filter.1 this).1
  · exact (x.physOf r).isLt

/-- A write of some elements of a register as an update of the vector file. -/
structure VecFile.Written (f h : VecFile) (r q : Nat) (new : Nat) : Prop where
  phys : ∀ hq : q < 96, h.phys = f.phys.set q (BitVec.ofNat 8192 new)
  map : ∀ (hr : r < 48) (hq : q < 96), h.map = { f.map with v := f.map.v.set r ⟨q, hq⟩ }
  masks : h.masks = f.masks
  marks : h.marks = []
  poison : h.poison = []
  expired : h.expired = []

/-- The update of a vector file that a write of a register makes (R99): the register `p` is written in place, or renamed to `q`. -/
def VecFile.write (f : VecFile) (shared : Bool) (p q r new : Nat) (slices : List Nat) (eph : Bool) (rest : Nat → Nat) (written : RegPoison → Bool) :
    VecFile :=
  let f := if shared then f.carry p q (fun x => !written x) rest
    else { f with
      poison := f.poison.filter (fun x => !(decide (x.phys = p) && written x))
      marks := (f.marks.map (fun m => if m.phys = p then { m with left := rest m.left } else m)).filter (fun m => m.left ≠ 0) }
  let kept := f.eph.filter (fun x => !(decide (x / 32 = q) && slices.contains (x % 32)))
  { f with
    phys := if h : q < 96 then f.phys.set q (BitVec.ofNat 8192 new) else f.phys
    map := if h : r < 48 ∧ q < 96 then { f.map with v := f.map.v.set r ⟨q, h.2⟩ h.1 } else f.map
    eph := if eph then kept ++ slices.map (fun k => 32 * q + k) else kept
    expired := f.expired.filter (fun x => !(decide (x.1 = q) && slices.contains x.2)) }

theorem write_written {f : VecFile} (hm : f.marks = []) (hp : f.poison = []) (he : f.expired = []) (shared : Bool) (p q r new : Nat)
    (slices : List Nat) (eph : Bool) (rest : Nat → Nat) (written : RegPoison → Bool) :
    f.Written (f.write shared p q r new slices eph rest written) r q new := by
  cases shared
  · refine ⟨fun hq => ?_, fun hr hq => ?_, rfl, ?_, ?_, ?_⟩
    · exact dif_pos hq
    · exact dif_pos ⟨hr, hq⟩
    · simp [VecFile.write, hm]
    · simp [VecFile.write, hp]
    · simp [VecFile.write, he]
  · refine ⟨fun hq => ?_, fun hr hq => ?_, rfl, ?_, ?_, ?_⟩
    · exact dif_pos hq
    · exact dif_pos ⟨hr, hq⟩
    · simp [VecFile.write, VecFile.carry, hm]
    · simp [VecFile.write, VecFile.carry, hp]
    · simp [VecFile.write, VecFile.carry, he]

/-- A write of a register, past the settling of its expired slices. -/
def State.writeSettled (s : State) (g v r w vlen p : Nat) (ups : List (Nat × Nat)) : State :=
  let mine := inReg v vlen r w ups
  let a := s.ag g
  let shared := s.landingOn g p || a.snapHolds p
  let q := if shared then (s.freePhys g).headD p else p
  let bits := writtenBits vlen w (mine.map (·.1))
  s.modAg g (fun x => x.modVec (fun f => f.write shared p q r (putElems vlen w mine (a.vreg r).toNat) (slicesIn v vlen r w (mine.map (·.1)))
    (x.strip.ephm.toNat.testBit r) (fun l => l ^^^ (l &&& bits))
    (fun y => mine.any (fun u => decide ((elemAt vlen w u.1).2 ≤ y.lo ∧ y.lo + y.width ≤ (elemAt vlen w u.1).2 + w)))))

theorem writeReg_settled {s : State} {g : Nat} (he : (s.ag g).vec.expired = []) (v r w : Nat) (ups : List (Nat × Nat)) :
    s.writeReg g v r w ups = if inReg v (s.ag g).strip.vlen r w ups = [] then s
      else s.writeSettled g v r w (s.ag g).strip.vlen ((s.ag g).physOf r).val ups := by
  have h : s.writeReg g v r w ups = if inReg v (s.ag g).strip.vlen r w ups = [] then s
      else (s.settleSlices g ((s.ag g).vec.expired.filter (fun x => decide (x.1 = ((s.ag g).physOf r).val)
        && (slicesIn v (s.ag g).strip.vlen r w ((inReg v (s.ag g).strip.vlen r w ups).map (·.1))).contains x.2
        && decide (((inReg v (s.ag g).strip.vlen r w ups).filter (fun u => (elemAt (s.ag g).strip.vlen w u.1).2 / 256 = x.2)).length * w < 256)))).writeSettled
          g v r w (s.ag g).strip.vlen ((s.ag g).physOf r).val ups := rfl
  rw [h, he, List.filter_nil, settleSlices_nil]

theorem writeReg_vec {s : State} {g v r w : Nat} {ups : List (Nat × Nat)} (hl : s.landings g = []) (hx : (s.ag g).AtRest)
    (hne : inReg v (s.ag g).strip.vlen r w ups ≠ []) :
    ∃ h, s.writeReg g v r w ups = s.modAg g (fun x => { x with vec := h })
      ∧ (s.ag g).vec.Written h r ((s.ag g).writePhys r)
          (putElems (s.ag g).strip.vlen w (inReg v (s.ag g).strip.vlen r w ups) ((s.ag g).vreg r).toNat) := by
  have hphys : (if (s.landingOn g ((s.ag g).physOf r).val || (s.ag g).snapHolds ((s.ag g).physOf r).val)
      then (s.freePhys g).headD ((s.ag g).physOf r).val else ((s.ag g).physOf r).val) = (s.ag g).writePhys r := by
    rw [landingOn_none hl, Bool.false_or, freePhys_eq hl, Agent.writePhys]
  rw [writeReg_settled hx.expired, if_neg hne, State.writeSettled]
  rw [hphys]
  exact ⟨_, modAg_const _ _ _, write_written hx.marks hx.poison hx.expired _ _ _ _ _ _ _ _ _⟩

/-! ### What a write leaves of the registers -/

theorem physOf_of_lt (x : Agent) {r : Nat} (h : r < 48) : x.physOf r = x.vec.map.v[r] := dif_pos h

theorem vreg_of_physOf {x : Agent} {j : Nat} {i : Fin 96} (h : x.physOf j = i) : x.vreg j = x.vec.phys[i] := by subst h; rfl

theorem physOf_mem (x : Agent) {r : Nat} (h : r < 48) : x.physOf r ∈ x.vec.map.v.toList := by
  rw [physOf_of_lt x h, Vector.mem_toList_iff]
  exact Vector.getElem_mem h

theorem physOf_inj {x : Agent} (hx : x.AtRest) {r j : Nat} (hr : r < 48) (hj : j < 48) (h : x.physOf r = x.physOf j) : r = j := by
  rw [physOf_of_lt x hr, physOf_of_lt x hj] at h
  have hl : x.vec.map.v.toList.length = 48 := Vector.length_toList
  exact (List.Nodup.getElem_inj_iff hx.nodup (hi := by omega) (hj := by omega)).1 (by simpa using h)

theorem mem_freeRegs {x : Agent} {p : Nat} : p ∈ x.freeRegs ↔ p < 96 ∧ (∀ y ∈ x.vec.map.v.toList, y.val ≠ p) ∧ x.snapHolds p = false := by
  have hany : (x.vec.map.v.toList.any (fun y => decide (y.val = p))) = false ↔ ∀ y ∈ x.vec.map.v.toList, y.val ≠ p := by
    rw [List.any_eq_false]
    simp only [decide_eq_true_eq, ne_eq]
  rw [Agent.freeRegs, List.mem_filter, List.mem_range, Bool.and_eq_true, Bool.not_eq_true', Bool.not_eq_true', hany]

/-- There is a register for a write: its own, or a free one. -/
def Agent.HasRoom (x : Agent) (r : Nat) : Prop := x.snapHolds (x.physOf r).val = true → x.freeRegs ≠ []

theorem writePhys_cases {x : Agent} {r : Nat} (h : x.HasRoom r) :
    (x.writePhys r = (x.physOf r).val) ∨ (x.writePhys r ∈ x.freeRegs) := by
  unfold Agent.writePhys
  split
  · next hs =>
    cases hf : x.freeRegs with
    | nil => exact absurd hf (h hs)
    | cons q t => exact .inr (.head _)
  · exact .inl rfl

/-- The register that a write takes is no other architectural one's. -/
theorem writePhys_ne {x : Agent} {r j : Nat} (hx : x.AtRest) (h : x.HasRoom r) (hr : r < 48) (hj : j < 48) (hne : j ≠ r) :
    (x.physOf j).val ≠ x.writePhys r := by
  rcases writePhys_cases h with e | e
  · rw [e]
    exact fun h' => hne (physOf_inj hx hj hr (Fin.ext h'))
  · exact (mem_freeRegs.1 e).2.1 _ (physOf_mem x hj)

section
variable {x : Agent} {h : VecFile} {r new : Nat} (hx : x.AtRest) (hroom : x.HasRoom r) (hr : r < 48) (hw : x.vec.Written h r (x.writePhys r) new)
include hr hw

theorem written_physOf (j : Nat) : ({ x with vec := h } : Agent).physOf j = if j = r then ⟨x.writePhys r, writePhys_lt x r⟩ else x.physOf j := by
  by_cases hj : j < 48
  · rw [physOf_of_lt _ hj, physOf_of_lt x hj]
    have hm := hw.map hr (writePhys_lt x r)
    simp only [hm]
    by_cases e : j = r
    · subst e; simp
    · rw [if_neg e, Vector.getElem_set_ne _ _ (Ne.symm e)]
  · have e : j ≠ r := by omega
    rw [if_neg e, Agent.physOf, Agent.physOf, dif_neg hj, dif_neg hj]

/-- A register that was free still is, unless the write has taken it. -/
theorem written_free {p : Nat} (hp : p ∈ x.freeRegs) (hne : p ≠ x.writePhys r) : p ∈ ({ x with vec := h } : Agent).freeRegs := by
  obtain ⟨hlt, hmap, hsnap⟩ := mem_freeRegs.1 hp
  refine mem_freeRegs.2 ⟨hlt, fun y hy => ?_, hsnap⟩
  have hm := hw.map hr (writePhys_lt x r)
  have hy' : y ∈ (x.vec.map.v.set r ⟨x.writePhys r, writePhys_lt x r⟩).toList := by
    have : y ∈ h.map.v.toList := hy
    rwa [hm] at this
  rw [Vector.toList_set] at hy'
  rcases List.mem_or_eq_of_mem_set hy' with h1 | h1
  · exact hmap y h1
  · rw [h1]
    exact Ne.symm hne

theorem written_room : x.freeRegs.length ≤ ({ x with vec := h } : Agent).freeRegs.length + 1 := by
  have hnd : x.freeRegs.Nodup := List.Nodup.filter _ List.nodup_range
  have hsub : x.freeRegs ⊆ x.writePhys r :: ({ x with vec := h } : Agent).freeRegs := fun p hp => by
    by_cases e : p = x.writePhys r
    · rw [e]; exact .head _
    · exact .tail _ (written_free hr hw hp e)
  exact (List.Nodup.subperm hnd hsub).length_le

theorem written_mreg (m : Fin 12) : ({ x with vec := h } : Agent).mreg m = x.mreg m := by
  have hm := hw.map hr (writePhys_lt x r)
  simp only [Agent.mreg, hm, hw.masks]

include hx hroom

theorem written_vreg (hn : new < 2 ^ 8192) (j : Nat) (hj : j < 48) :
    (({ x with vec := h } : Agent).vreg j).toNat = if j = r then new else (x.vreg j).toNat := by
  have hp := hw.phys (writePhys_lt x r)
  have hi := written_physOf hr hw j
  rw [vreg_of_physOf hi]
  simp only [hp]
  by_cases e : j = r
  · simp [e, Nat.mod_eq_of_lt hn]
  · have := writePhys_ne hx hroom hr hj e
    simp [e, Agent.vreg, Ne.symm this]

theorem written_atRest : ({ x with vec := h } : Agent).AtRest := by
  refine ⟨hw.marks, hw.poison, hw.expired, ?_⟩
  have hm := hw.map hr (writePhys_lt x r)
  show h.map.v.toList.Nodup
  rw [hm]
  dsimp only
  rw [Vector.toList_set]
  rcases writePhys_cases hroom with e | e
  · have hself : (⟨x.writePhys r, writePhys_lt x r⟩ : Fin 96) = x.vec.map.v.toList[r]'(by simpa using hr) := by
      rw [Vector.getElem_toList, ← physOf_of_lt x hr]
      exact Fin.ext e
    rw [hself, List.set_getElem_self]
    exact hx.nodup
  · exact List.Nodup.set hx.nodup fun hmem => (mem_freeRegs.1 e).2.1 _ hmem rfl

end

/-! ### Writes of the elements of a group -/

/-- Between two states the vector registers of one agent have become what they are; its masks and everything else stand. -/
structure State.RegsBecome (g : Nat) (s t : State) (val : Nat → Nat) : Prop where
  around : s.Around t
  others : ∀ j, j ≠ g → t.ag j = s.ag j
  byte : ∀ r, t.byte r = s.byte r
  own : ∃ h, t.ag g = { s.ag g with vec := h }
  rest : (t.ag g).AtRest
  mreg : ∀ m, (t.ag g).mreg m = (s.ag g).mreg m
  vreg : ∀ j, j < 48 → ((t.ag g).vreg j).toNat = val j

theorem State.RegsBecome.refl {s : State} {g : Nat} (hx : (s.ag g).AtRest) : s.RegsBecome g s (fun j => ((s.ag g).vreg j).toNat) :=
  ⟨.refl s, fun _ _ => rfl, fun _ => rfl, ⟨_, rfl⟩, hx, fun _ => rfl, fun _ _ => rfl⟩

theorem State.RegsBecome.trans {s t u : State} {g : Nat} {f h : Nat → Nat} (h1 : s.RegsBecome g t f) (h2 : t.RegsBecome g u h) : s.RegsBecome g u h := by
  obtain ⟨f1, hf1⟩ := h1.own
  obtain ⟨f2, hf2⟩ := h2.own
  exact ⟨h1.around.trans h2.around, fun j hj => (h2.others j hj).trans (h1.others j hj), fun r => (h2.byte r).trans (h1.byte r),
    ⟨f2, by rw [hf2, hf1]⟩, h2.rest, fun m => (h2.mreg m).trans (h1.mreg m), h2.vreg⟩

theorem State.RegsBecome.congr {s t : State} {g : Nat} {f h : Nat → Nat} (h1 : s.RegsBecome g t f) (e : ∀ j, j < 48 → f j = h j) : s.RegsBecome g t h :=
  ⟨h1.around, h1.others, h1.byte, h1.own, h1.rest, h1.mreg, fun j hj => (h1.vreg j hj).trans (e j hj)⟩

theorem State.RegsBecome.strip {s t : State} {g : Nat} {f : Nat → Nat} (h : s.RegsBecome g t f) : (t.ag g).strip = (s.ag g).strip := by
  obtain ⟨f1, hf1⟩ := h.own
  rw [hf1]

theorem landings_around {s t : State} (h : s.Around t) (g : Nat) : t.landings g = s.landings g := by
  simp only [State.landings, h.berths]

/-- One register of a group after a write. -/
theorem writeReg_becomes {s : State} {g v r w : Nat} {ups : List (Nat × Nat)} (hl : s.landings g = []) (hx : (s.ag g).AtRest) (h48 : r < 48)
    (hv : 0 < (s.ag g).strip.vlen) (hd : w ∣ (s.ag g).strip.vlen) (hle : (s.ag g).strip.vlen ≤ 8192) (hroom : (s.ag g).freeRegs ≠ []) :
    s.RegsBecome g (s.writeReg g v r w ups) (fun j => if j = r
      then putElems (s.ag g).strip.vlen w (inReg v (s.ag g).strip.vlen r w ups) ((s.ag g).vreg r).toNat else ((s.ag g).vreg j).toNat)
    ∧ (s.ag g).freeRegs.length ≤ ((s.writeReg g v r w ups).ag g).freeRegs.length + 1 := by
  by_cases hne : inReg v (s.ag g).strip.vlen r w ups = []
  · rw [writeReg_settled hx.expired, if_pos hne]
    refine ⟨(State.RegsBecome.refl hx).congr fun j _ => ?_, Nat.le_succ _⟩
    split
    · next e => rw [hne, e]; rfl
    · rfl
  · obtain ⟨h, he, hw⟩ := writeReg_vec hl hx hne
    have hr : (s.ag g).HasRoom r := fun _ => hroom
    rw [he]
    refine ⟨⟨modAg_around _ _ _, fun j hj => modAg_ag_ne _ _ _ hj, fun _ => rfl, ⟨h, modAg_ag_self _ _ _⟩, ?_, fun m => ?_, fun j hj => ?_⟩, ?_⟩
    · rw [modAg_ag_self]; exact written_atRest hx hr h48 hw
    · rw [modAg_ag_self]; exact written_mreg h48 hw m
    · rw [modAg_ag_self]; exact written_vreg hx hr h48 hw (putElems_lt _ hv hd hle ((s.ag g).vreg r).isLt) j hj
    · rw [modAg_ag_self]; exact written_room h48 hw

/-- The registers of a group after a write. -/
theorem writeRegs_become {g v w : Nat} {ups : List (Nat × Nat)} (rs : List Nat) : ∀ {s : State}, s.landings g = [] → (s.ag g).AtRest → 
    0 < (s.ag g).strip.vlen → w ∣ (s.ag g).strip.vlen → (s.ag g).strip.vlen ≤ 8192 → (∀ r ∈ rs, r < 48) → rs.Nodup →
    rs.length ≤ (s.ag g).freeRegs.length →
    s.RegsBecome g (rs.foldl (fun s r => s.writeReg g v r w ups) s) (fun j => if j ∈ rs
      then putElems (s.ag g).strip.vlen w (inReg v (s.ag g).strip.vlen j w ups) ((s.ag g).vreg j).toNat else ((s.ag g).vreg j).toNat) := by
  induction rs with
  | nil => exact fun _ hx _ _ _ _ _ _ => (State.RegsBecome.refl hx).congr fun j _ => by simp
  | cons r rs ih =>
    intro s hl hx hv hd hle hlt hnd hlen
    rw [List.nodup_cons] at hnd
    rw [List.length_cons] at hlen
    obtain ⟨h1, hfree⟩ := writeReg_becomes (v := v) (r := r) (w := w) (ups := ups) hl hx (hlt r (.head _)) hv hd hle
      (fun e => by rw [e] at hlen; simp at hlen)
    rw [List.foldl_cons]
    have hstrip := h1.strip
    have h2 := ih (s := s.writeReg g v r w ups) ((landings_around h1.around g).trans hl) h1.rest (by rw [hstrip]; exact hv)
      (by rw [hstrip]; exact hd) (by rw [hstrip]; exact hle) (fun r' hr' => hlt r' (.tail _ hr')) hnd.2 (by omega)
    refine (h1.trans h2).congr fun j hj => ?_
    rw [hstrip, h1.vreg j hj]
    by_cases e : j = r
    · subst e
      simp [hnd.1]
    · simp [e]

/-- The registers that hold some elements of a group, each below the group's end. -/
theorem mem_groupRegs {v vlen w : Nat} {es : List Nat} {r : Nat} : r ∈ groupRegs v vlen w es ↔ ∃ i ∈ es, r = v + (elemAt vlen w i).1 := by
  simp [groupRegs, eq_comm]

theorem groupRegs_length {v vlen w n : Nat} {es : List Nat} (h : ∀ i ∈ es, (elemAt vlen w i).1 < n) : (groupRegs v vlen w es).length ≤ n := by
  have hsub : groupRegs v vlen w es ⊆ (List.range n).map (fun k => v + k) := fun r hr => by
    obtain ⟨i, hi, rfl⟩ := mem_groupRegs.1 hr
    exact List.mem_map.2 ⟨_, List.mem_range.2 (h i hi), rfl⟩
  have h' := (List.Nodup.subperm (List.nodup_dedup _) hsub).length_le
  rwa [List.length_map, List.length_range] at h'

/-- The vector registers after a write of elements of a group, as numbers. -/
def Agent.regsAfter (x : Agent) (v w : Nat) (ups : List (Nat × Nat)) (j : Nat) : Nat :=
  if j ∈ groupRegs v x.strip.vlen w (ups.map (fun u => u.1))
    then putElems x.strip.vlen w (inReg v x.strip.vlen j w ups) (x.vreg j).toNat else (x.vreg j).toNat

theorem find?_inReg {v vlen w i : Nat} (ups : List (Nat × Nat)) :
    (inReg v vlen (v + (elemAt vlen w i).1) w ups).find? (fun u => decide (u.1 = i)) = ups.find? (fun u => decide (u.1 = i)) := by
  rw [inReg, List.find?_filter]
  congr 1
  funext u
  by_cases e : u.1 = i
  · simp [e]
  · simp [e]

/-- A write of elements of a group writes them and nothing else (R105). -/
theorem elementsAre_of_becomes {s t : State} {g v w n : Nat} {ups : List (Nat × Nat)} (h : s.RegsBecome g t ((s.ag g).regsAfter v w ups))
    (hn : v + n ≤ 48) (hups : ∀ u ∈ ups, (elemAt (s.ag g).strip.vlen w u.1).1 < n)
    (hnd : (ups.map (fun u => u.1)).Nodup) : (s.ag g).ElementsAre (t.ag g) v n w ups := by
  refine ⟨fun i hi => ?_, fun r hr hout => ?_, h.mreg⟩
  · have hk : (elemAt (s.ag g).strip.vlen w i).1 < n := Nat.div_lt_of_lt_mul (by rw [Nat.mul_comm _ n]; exact hi)
    rw [Agent.elem, h.strip, h.vreg _ (by omega), Agent.regsAfter]
    split
    · next hmem =>
      rw [bitsOf_putElems rfl, find?_inReg]
      · rfl
      · intro u hu
        simpa [inReg] using (List.mem_filter.1 hu).2
      · exact List.Nodup.sublist (List.Sublist.map _ List.filter_sublist) hnd
    · next hmem =>
      have hnone : ups.find? (fun u => decide (u.1 = i)) = none := by
        rw [List.find?_eq_none]
        intro u hu e
        refine hmem (mem_groupRegs.2 ⟨u.1, List.mem_map.2 ⟨u, hu, rfl⟩, ?_⟩)
        rw [of_decide_eq_true e]
      rw [hnone]
      rfl
  · apply BitVec.eq_of_toNat_eq
    rw [h.vreg r hr, Agent.regsAfter, if_neg]
    intro hmem
    obtain ⟨i, hi, e⟩ := mem_groupRegs.1 hmem
    obtain ⟨u, hu, rfl⟩ := List.mem_map.1 hi
    have := hups u hu
    omega

/-- A write of elements of a group, with a free register for each of the group's. -/
theorem vwrite_becomes {s : State} {is : Issue} {v : Fin 48} {w n : Nat} {ups : List (Nat × Nat)} (hl : s.landings is.g = [])
    (hx : (s.ag is.g).AtRest) (hv : 0 < (s.ag is.g).strip.vlen) (hd : w ∣ (s.ag is.g).strip.vlen) (hle : (s.ag is.g).strip.vlen ≤ 8192)
    (hn : v.val + n ≤ 48) (hups : ∀ u ∈ ups, (elemAt (s.ag is.g).strip.vlen w u.1).1 < n) (hroom : n ≤ (s.ag is.g).freeRegs.length) :
    ∃ t, vwrite is v w ups s = .ok ((), t) ∧ s.RegsBecome is.g t ((s.ag is.g).regsAfter v w ups) := by
  have hreg : ∀ i ∈ ups.map (fun u => u.1), (elemAt (s.ag is.g).strip.vlen w i).1 < n := fun i hi => by
    obtain ⟨u, hu, rfl⟩ := List.mem_map.1 hi
    exact hups u hu
  refine ⟨_, rfl, writeRegs_become (groupRegs v.val (s.ag is.g).strip.vlen w (ups.map (fun u => u.1))) hl hx hv hd hle (fun r hr => ?_)
    (List.nodup_dedup _) (Nat.le_trans (groupRegs_length hreg) hroom)⟩
  obtain ⟨i, hi, rfl⟩ := mem_groupRegs.1 hr
  have := hreg i hi
  omega

/-! ### Reads (R103, R228) -/

/-- A read of elements of a hart whose vector file is at rest. -/
theorem vread_atRest {s : State} {is : Issue} (hx : (s.ag is.g).AtRest) (v : Fin 48) (w : Nat) (es : List Nat) :
    ∃ f, vread is v w es s = .ok (f, s) ∧ ∀ i ∈ es, f i = (s.ag is.g).elem v w i := by
  have hstop : (s.ag is.g).readStop v.val w es = none := by
    simp [Agent.readStop, hx.marks, hx.poison]
  have hsettle : settle is v.val w es s = .ok ((), s) := by
    show Except.ok ((), s.settleSlices is.g (List.filter _ (s.ag is.g).vec.expired)) = _
    rw [hx.expired]
    rfl
  refine ⟨fun i => elemIn ((groupRegs v.val (s.ag is.g).strip.vlen w es).map (fun r => (r, ((s.ag is.g).vreg r).toNat))) v.val (s.ag is.g).strip.vlen w i,
    ?_, fun i hi => ?_⟩
  · rw [vread, bind_ok (a := s.ag is.g) (t := s) rfl, hstop]
    dsimp only
    rw [bind_ok hsettle]
    rfl
  · have hget (l : List Nat) (r : Nat) (hr : r ∈ l) : Assoc.get 0 r (l.map (fun r => (r, ((s.ag is.g).vreg r).toNat))) = ((s.ag is.g).vreg r).toNat := by
      induction l with
      | nil => cases hr
      | cons q t ih =>
        rw [List.map_cons, Assoc.get]
        by_cases e : q = r
        · simp [e]
        · rw [if_neg e]
          exact ih (by simpa [Ne.symm e] using hr)
    beta_reduce
    rw [elemIn, hget _ _ (mem_groupRegs.2 ⟨i, hi, rfl⟩), Agent.elem]

end Sys2Proof.Machine
end

section
/-! Vector atomics (R184-R187) up to their elements: the cuts that an atomic makes (R87, R88), the start of a vector instruction, and the
operands read. -/

namespace Sys2Proof.Machine

/-! ### An instruction between its cuts (R87, R88) -/

/-- An agent at a cut. -/
def Agent.atCut (p : Word) (x : Agent) : Agent :=
  { x with strip := { x.strip with
      spc := p, ckpt := (x.checkpoint p (some x.vec.map)).strip.ckpt
      noabort := false, mark := .after, cutcnt := x.strip.cutcnt + 1 } }

theorem cutAt_empty {s : State} {g : Nat} (h : (s.ag g).strip.buf = []) (p : Word) : s.cutAt g p true .after = s.modAg g (Agent.atCut p) := by
  rw [State.cutAt, commit_empty h]
  rfl

/-- The state in which the body of a cut-forcing instruction begins. -/
def State.cutBegun (s : State) : State := (s.cutBefore s.issue).begin_ s.issue

/-- A cut-forcing instruction whose checks pass, within a strip with an empty buffer. -/
theorem runBody_cut {s : State} {i : Instr} {r : Rule} {body : Issue → M Unit} (hp : s.pre s.issue i r = none) (hc : r.cut = true)
    (hr : s.CutReady) (hin : (s.ag s.cur).inStrip = true) :
    s.runBody i r body = (s.cutBefore s.issue).finish s.issue true (body s.issue s.cutBegun) := by
  obtain ⟨hbuf, -, hdue⟩ := hr
  have hcutting : ((r.cut || r.pre) && (s.ag s.issue.g).inStrip) = true := by rw [hc, issue_g, hin]; rfl
  have hwait : s.commitWait s.issue.g = none := by unfold State.commitWait; exact if_pos hbuf
  have hdue' : ((s.cutBefore s.issue).atGroup s.issue).due s.issue.g = false := hdue
  unfold State.runBody
  simp only [hp, hcutting, hwait, if_true, hdue', Bool.and_false]
  rw [hc]
  rfl

/-- What the cut before an instruction and the start of its body leave of the agent: its registers, its vector file, its strip's length and
type; and every free register is still free. -/
structure Agent.CutFrom (x y : Agent) (pc : Word) : Prop where
  own : y = { x with regs := { x.regs with pc := pc, pfx := [] }, strip := y.strip }
  vl : y.strip.vl = x.strip.vl
  vtype : y.strip.vtype = x.strip.vtype
  live : y.strip.live = x.strip.live
  isOpen : y.strip.isOpen = x.strip.isOpen
  susp : y.strip.susp = x.strip.susp
  buf : y.strip.buf = x.strip.buf
  free : x.freeRegs ⊆ y.freeRegs

theorem atCut_free (x : Agent) (p : Word) : x.freeRegs ⊆ (x.atCut p).freeRegs := fun q hq => by
  obtain ⟨hlt, hmap, -⟩ := mem_freeRegs.1 hq
  refine mem_freeRegs.2 ⟨hlt, hmap, ?_⟩
  have hany : (x.vec.map.v.toList.any (fun y => decide (y.val = q))) = false := by
    rw [List.any_eq_false]
    intro y hy
    simpa using hmap y hy
  show (x.strip.isOpen && (x.vec.map.v.toList.any (fun y => decide (y.val = q)))) = false
  rw [hany, Bool.and_false]

theorem cutBegun_ag {s : State} (h : (s.ag s.cur).strip.buf = []) :
    (s.ag s.cur).CutFrom (s.cutBegun.ag s.cur) s.after ∧ s.SameMaps s.cutBegun ∧ s.Around s.cutBegun ∧ (∀ r, s.cutBegun.byte r = s.byte r)
      ∧ ∀ j, j ≠ s.cur → s.cutBegun.ag j = s.ag j := by
  unfold State.cutBegun State.cutBefore
  split
  · refine ⟨?_, begin_sameMaps s, modAg_around _ _ _, fun _ => rfl, fun j hj => begin_ag_ne _ hj⟩
    rw [begin_begun]
    exact ⟨rfl, rfl, rfl, rfl, rfl, rfl, rfl, fun _ hq => hq⟩
  · rw [cutAt_empty (by rw [issue_g]; exact h) s.issue.pc]
    refine ⟨?_, ?_, (modAg_around _ _ _).trans (modAg_around _ _ _), fun _ => rfl, fun j hj => ?_⟩
    · rw [State.begin_, issue_g, modAg_modAg, modAg_ag_self]
      exact ⟨rfl, rfl, rfl, rfl, rfl, rfl, rfl, atCut_free _ s.issue.pc⟩
    · exact ⟨⟨rfl, rfl, rfl, rfl, rfl, rfl, rfl⟩, rfl, rfl⟩
    · rw [State.begin_, issue_g, modAg_modAg, modAg_ag_ne _ _ _ hj]

/-! ### The start of a vector instruction (R108, R228) -/

/-- The consumption of one source, as the loop over the sources makes it. -/
def consumeStep (is : Issue) (w : Nat) (v : Fin 48) (_ : PUnit) : M (ForInStep PUnit) := do
  consume is v w
  pure (.yield ⟨⟩)

section
variable {s : State} {is : Issue} (hx : (s.ag is.g).AtRest) (hl : s.landings is.g = [])
include hl

theorem room_ok {v : Fin 48} {n : Nat} {whole : Bool} (hroom : n ≤ (s.ag is.g).freeRegs.length) : room is v n whole s = .ok ((), s) := by
  rw [room, bind_ok (a := s) (t := s) rfl]
  dsimp only
  rw [if_neg]
  · refine congrFun (if_neg ?_) s
    rw [freePhys_eq hl, Nat.not_lt]
    refine Nat.le_trans (List.length_filter_le _ _) ?_
    simpa using hroom
  · simp [landingOn_none hl]

include hx

/-- Nothing lands on the registers and nothing is recorded on them: a consume does nothing. -/
theorem consume_ok (v : Fin 48) (w : Nat) : consume is v w s = .ok ((), s) := by
  rw [consume, bind_ok (a := s.ag is.g) (t := s) rfl, consumeRegs, bind_ok (a := s) (t := s) rfl]
  dsimp only
  rw [if_neg, hx.marks]
  · exact congrFun (if_neg (Nat.lt_irrefl _)) s
  · simp [landingOn_none hl]

theorem consumeAll_ok (w : Nat) (vs : List (Fin 48)) : forIn vs PUnit.unit (consumeStep is w) s = .ok (⟨⟩, s) := by
  induction vs with
  | nil => rfl
  | cons v t ih =>
    rw [List.forIn_cons]
    have hstep : consumeStep is w v PUnit.unit s = .ok (.yield ⟨⟩, s) := by
      rw [consumeStep, bind_ok (consume_ok hx hl v w)]
      rfl
    exact (bind_ok hstep).trans ih

/-- The start of a vector instruction whose type is accepted and whose groups are aligned. -/
theorem vstart_ok {ok : Nat → Bool} {srcs : List (Fin 48)} {d : Fin 48} (m : Option (Fin 12)) (whole : Bool)
    (hty : ok (s.ag is.g).venv.ty = true) (hgr : ∀ v ∈ srcs ++ [d], v.val % (s.ag is.g).venv.g = 0)
    (hroom : (s.ag is.g).venv.g ≤ (s.ag is.g).freeRegs.length) :
    vstart is ok srcs (some d) m whole s = .ok (((s.ag is.g).venv, (s.ag is.g).actives m), s) := by
  have hneed : needType is ok s = .ok ((), s) := by
    rw [needType, bind_ok (a := s.ag is.g) (t := s) rfl]
    exact congrFun (if_pos hty) s
  have hgroups : needGroups is (srcs ++ (some d).toList) s = .ok ((), s) := by
    rw [needGroups, bind_ok (a := s.ag is.g) (t := s) rfl]
    refine congrFun (if_pos ?_) s
    rw [List.all_eq_true]
    exact fun v hv => decide_eq_true (hgr v hv)
  rw [vstart, bind_ok hneed, bind_ok hgroups, bind_ok (a := s.ag is.g) (t := s) rfl]
  refine (bind_ok (consumeAll_ok hx hl _ srcs)).trans ?_
  dsimp only
  rw [bind_ok (room_ok hl hroom)]
  rfl

end

/-! ### The elements of a vector atomic -/

theorem vecRecord_ok (s : State) (is : Issue) (es : List Elem) (kind w : Nat) : ∃ t, vecRecord is es kind w s = .ok ((), t) ∧ s.Around t
    ∧ (∀ j, j ≠ is.g → t.ag j = s.ag j) ∧ (∀ r, t.byte r = s.byte r) ∧ ∃ tr, t.ag is.g = { s.ag is.g with trace := tr } := by
  cases es with
  | nil =>
    obtain ⟨m, hm⟩ := memRecord_recorded s is.g ((Config.freeWord (s.freeOf (s.ctxOf is.g))).setWidth 72) kind (Nat.log2 (elemBytes w)) 0
    refine ⟨(s.modAg is.g (Agent.recorded m)).useFreeOf (s.ctxOf is.g), by rw [← hm]; rfl,
      (modAg_around s is.g (Agent.recorded m)).trans (.of_eq rfl rfl rfl rfl rfl rfl), fun j hj => modAg_ag_ne _ _ _ hj, fun _ => rfl, _,
      modAg_ag_self _ _ _⟩
  | cons e es =>
    obtain ⟨m, hm⟩ := memRecord_recorded s is.g e.addr kind (Nat.log2 (elemBytes w)) (e :: es).length
    exact ⟨s.modAg is.g (Agent.recorded m), by rw [← hm]; rfl, modAg_around _ _ _, fun j hj => modAg_ag_ne _ _ _ hj, fun _ => rfl, _,
      modAg_ag_self _ _ _⟩

/-- The old values of the elements performed, as they are written: a pair's value is two elements'. -/
def oldElems (pair : Bool) (done : List (Nat × Nat)) : List (Nat × Nat) :=
  done.flatMap (fun x => if pair then [(x.1, x.2 % 2 ^ 64), (x.1 + 1, x.2 / 2 ^ 64)] else [(x.1, x.2)])

/-- Writes the old values of the elements performed. -/
def writeOld (pair : Bool) (d : Fin 48) (w : Nat) (is : Issue) : M Unit := do
  let done := (← getA is).marks.done
  vwrite is d w (oldElems pair done)

/-- A vector atomic from where its elements and their operands are known. -/
def vamoElems (op : AtomOp) (pair : Bool) (d : Fin 48) (o : MOrd) (w n : Nat) (signed : Bool) (els : List Elem) (x y : Nat → Nat) (is : Issue) :
    M Unit := do
  let s ← get
  let plan ← planM is n op.acc els (fun ps => if ordRel o then
    releaseM is (scopeOf (ps.foldl (fun acc p => max acc (s.locScope is.g p)) 0)) else pure ())
  performAtoms is n op signed x y (writeOld pair d w is) plan
  writeOld pair d w is
  vecRecord is els 2 (8 * n)

/-- The value of a pair of elements, or of one (R187). -/
def wideElem (pair : Bool) (f : Nat → Nat) (i : Nat) : Nat := if pair then f i + f (i + 1) * 2 ^ 64 else f i

/-- The elements of a vector atomic: of pairs, the even ones whose partner is below VL (R187). -/
def atomElems (pair : Bool) (vl : Nat) (es : List Nat) : List Nat := if pair then es.filter (fun i => decide (i % 2 = 0 ∧ i + 1 < vl)) else es

/-- The other operand of a vector atomic. -/
def otherReg (op : AtomOp) (d : Fin 48) (g : Nat) : Fin 48 := if op = .cas then Fin.ofNat 48 (d.val + g) else d

theorem vtGroup_pos (t : Nat) : 0 < vtGroup t := Nat.two_pow_pos _

/-- The other operand's group follows the destination's. -/
theorem otherReg_val {op : AtomOp} {d : Fin 48} {g : Nat} (h : op = .cas) (hd : d.val + 2 * g ≤ 48) (hg : 0 < g) :
    (otherReg op d g).val = d.val + g := by
  rw [otherReg, if_pos h]
  exact Nat.mod_eq_of_lt (by omega)

/-- A vector atomic reads its operands and goes on with its elements. -/
theorem vamo_elems {s : State} {is : Issue} {op : AtomOp} {pair : Bool} {d b : Fin 48} {a : Fin 16} {m : Option (Fin 12)} {o : MOrd}
    (hx : (s.ag is.g).AtRest) (hl : s.landings is.g = []) (hty : tyAtom pair (s.ag is.g).venv.ty = true)
    (hcas : op = .cas → d.val + 2 * (s.ag is.g).venv.g ≤ 48) (hd : d.val % (s.ag is.g).venv.g = 0) (hb : b.val % (s.ag is.g).venv.g = 0)
    (hroom : (s.ag is.g).venv.g ≤ (s.ag is.g).freeRegs.length) :
    let e := (s.ag is.g).venv
    let es := atomElems pair e.vl ((s.ag is.g).actives m)
    let both := if pair then es.flatMap (fun i => [i, i + 1]) else es
    ∃ xs ys ks : Nat → Nat, (∀ i ∈ both, xs i = (s.ag is.g).elem d e.w i) ∧ (∀ i ∈ both, ys i = (s.ag is.g).elem (otherReg op d e.g) e.w i)
      ∧ (∀ i ∈ es, ks i = (s.ag is.g).elem b e.w i)
      ∧ vamo op pair d a b m o is s = vamoElems op pair d o e.w (if pair then 16 else e.w / 8) (isI e.ty)
          (es.map (fun i => ⟨i, (s.ag is.g).ra a + BitVec.ofInt 72 (sext e.w (ks i))⟩)) (wideElem pair xs) (if op = .cas then wideElem pair ys else wideElem pair xs) is s := by
  intro e es both
  have hneed : needType is (tyAtom pair) s = .ok ((), s) := by
    rw [needType, bind_ok (a := s.ag is.g) (t := s) rfl]
    exact congrFun (if_pos hty) s
  have hno : ¬ ((decide (op = .cas) : Bool) = true ∧ 48 < d.val + 2 * e.g) := fun h =>
    Nat.not_lt.2 (hcas (of_decide_eq_true h.1)) h.2
  obtain ⟨xs, hxs, hxv⟩ := vread_atRest hx d e.w both
  obtain ⟨ys, hys, hyv⟩ := vread_atRest hx (otherReg op d e.g) e.w both
  obtain ⟨ks, hks, hkv⟩ := vread_atRest hx b e.w es
  refine ⟨xs, ys, ks, hxv, hyv, hkv, ?_⟩
  unfold vamo
  rw [bind_ok hneed, bind_ok (a := s.ag is.g) (t := s) rfl]
  simp only [decide_eq_true_eq]
  rw [if_neg (fun h => hno ⟨decide_eq_true h.1, h.2⟩)]
  have hgr : ∀ v ∈ [d, b] ++ (if op = .cas then [otherReg op d e.g] else []) ++ [d], v.val % e.g = 0 := by
    have hother : op = .cas → (otherReg op d e.g).val % e.g = 0 := fun h => by
      rw [otherReg_val h (hcas h) (vtGroup_pos _), Nat.add_mod_right]
      exact hd
    intro v hv
    rcases List.mem_append.1 hv with hv | hv
    · rcases List.mem_append.1 hv with hv | hv
      · rcases List.mem_cons.1 hv with rfl | hv
        · exact hd
        · rw [List.mem_singleton.1 hv]; exact hb
      · by_cases h : op = .cas
        · rw [if_pos h] at hv
          rw [List.mem_singleton.1 hv]; exact hother h
        · rw [if_neg h] at hv
          cases hv
    · rw [List.mem_singleton.1 hv]; exact hd
  refine (bind_ok (vstart_ok hx hl m false hty hgr hroom)).trans ?_
  refine (bind_ok hxs).trans ((bind_ok hys).trans ?_)
  rw [bind_ok (a := (s.ag is.g).ra a) (t := s) rfl]
  exact bind_ok hks

end Sys2Proof.Machine
end

section
/-! The elements of a vector atomic, performed one by one or asked of their home (R184-R187, R380). -/

namespace Sys2Proof.Machine

/-! ### Runs of atomics -/

/-- A run's old values are listed under the elements it performs. -/
theorem atomRun_keys (n : Nat) (new : Nat → Nat → Nat) (l : List (Nat × Place)) : ∀ f : Place → Byte,
    (atomRun n new l f).1.map (fun u => u.1) = l.map (fun x => x.1) := by
  induction l with
  | nil => exact fun _ => rfl
  | cons x t ih => exact fun f => congrArg (x.1 :: ·) (ih _)

/-- A run asks only the elements that it performs for their new values. -/
theorem atomRun_congr {n : Nat} {new new' : Nat → Nat → Nat} (l : List (Nat × Place)) : ∀ f : Place → Byte,
    (∀ x ∈ l, ∀ old, new x.1 old = new' x.1 old) → atomRun n new l f = atomRun n new' l f := by
  induction l with
  | nil => exact fun _ _ => rfl
  | cons x t ih =>
    intro f h
    rw [atomRun, atomRun, h x (.head _), ih _ fun y hy => h y (.tail _ hy)]

/-- What an atomic leaves at its location is the new value of R58. -/
theorem leaves_eq {op : AtomOp} {n w : Nat} (h : 8 * n = w) (signed : Bool) (x y : Nat → Nat) (k old : Nat) :
    op.leaves n signed x y k old = atomNew op w signed old (x k) (y k) := by
  subst h
  cases op with
  | cas =>
    simp only [AtomOp.leaves, AtomOp.new, atomNew]
    split <;> rfl
  | min | max => cases signed <;> simp [AtomOp.leaves, AtomOp.new, atomNew]
  | add | swp | and | or | xor => rfl

theorem planOf_pairs (f : Nat → Addr) (ks : List Nat) (hs : List Hit) :
    (planOf (ks.map (fun k => ⟨k, f k⟩)) hs).map (fun e => (e.1, e.2.2)) = ks.zip (hs.map (fun h => h.place)) := by
  rw [planOf, List.map_map, List.zip_map_left, List.zip_map_right, List.map_map]
  rfl

/-! ### The plan of a vector atomic -/

/-- Where the elements of a vector atomic are known: they pass their checks on plain memory, and nothing of the agent or of its vector file
is under way. -/
structure State.VamoReady (u : State) (is : Issue) (k : Acc) (n : Nat) (els : List Elem) (hs : List Hit) : Prop where
  memoryOk : u.MemoryOk
  fresh : (u.ag is.g).Fresh
  drained : (u.ag is.g).Drained
  rest : (u.ag is.g).AtRest
  calm : u.landings is.g = []
  watched : (u.tile (quayOf is.g)).watched = []
  feeds : (u.tile (quayOf is.g)).feeds = []
  checks : u.checkElems is n n k els = .ok hs
  plain : ∀ h ∈ hs, h.place.Plain
  good : ∀ h ∈ hs, u.badRead h.place n = none

theorem planOf_mem {els : List Elem} {hs : List Hit} {e : Nat × Addr × Place} (h : e ∈ planOf els hs) : ∃ x ∈ hs, e.2.2 = x.place := by
  obtain ⟨p, hp, rfl⟩ := List.mem_map.1 h
  exact ⟨p.2, (List.of_mem_zip hp).2, rfl⟩

section
variable {u : State} {is : Issue} {op : AtomOp} {pair signed : Bool} {d : Fin 48} {o : MOrd} {w n g : Nat} {els : List Elem} {hs : List Hit}
  {x y : Nat → Nat}

/-- A vector atomic up to its elements: the plan is made. -/
theorem vamoElems_planned (hu : u.VamoReady is op.acc n els hs) :
    ∃ v, vamoElems op pair d o w n signed els x y is u
        = (performAtoms is n op signed x y (writeOld pair d w is) (planOf els hs) >>= fun _ => do
            writeOld pair d w is
            vecRecord is els 2 (8 * n)) v
      ∧ u.Around v ∧ (∀ j, j ≠ is.g → v.ag j = u.ag j) ∧ (∀ r, v.byte r = u.byte r)
      ∧ v.ag is.g = (u.ag is.g).planned (planOf els hs) := by
  have hfirst (p : State) (hp : u.Beside p) :
      ∃ t, (if ordRel o then releaseM is (scopeOf ((hs.map (fun h => h.place)).foldl (fun acc q => max acc (u.locScope is.g q)) 0)) else pure () : M Unit) p
        = .ok ((), t) ∧ p.Beside t := by
    have htile : p.tile (quayOf is.g) = u.tile (quayOf is.g) := hp.tile _
    by_cases ho : ordRel o = true
    · rw [if_pos ho]
      exact releaseM_beside _ (by rw [hp.ag]; exact hu.drained) (by rw [htile]; exact hu.watched) (by rw [htile]; exact hu.feeds)
    · rw [if_neg ho]
      exact ⟨p, rfl, .refl p⟩
  obtain ⟨t, ht, hb⟩ := planM_ok (first := fun ps => if ordRel o then
    releaseM is (scopeOf (ps.foldl (fun acc q => max acc (u.locScope is.g q)) 0)) else pure ()) hu.fresh hu.watched hu.checks hu.good hfirst
  refine ⟨t.modAg is.g (Agent.planned (planOf els hs)), ?_, hb.toAround.trans (modAg_around _ _ _), fun j hj => ?_, hb.byte, ?_⟩
  · rw [vamoElems, bind_ok (a := u) (t := u) rfl]
    exact bind_ok ht
  · rw [modAg_ag_ne _ _ _ hj, hb.ag]
  · rw [modAg_ag_self, hb.ag]

/-- A vector atomic whose elements all have their home here: they are performed in order, and the old values are written. -/
theorem vamoElems_here (hu : u.VamoReady is op.acc n els hs) (haway : ∀ h ∈ hs, u.away h.place = false)
    (hix : ((planOf els hs).map (fun e => e.1)).Nodup)
    (hold : ∀ l : List (Nat × Nat), l.map (fun q => q.1) = (planOf els hs).map (fun e => e.1) → ((oldElems pair l).map (fun q => q.1)).Nodup
      ∧ ∀ q ∈ oldElems pair l, (elemAt (u.ag is.g).strip.vlen w q.1).1 < g)
    (hv : 0 < (u.ag is.g).strip.vlen) (hdvd : w ∣ (u.ag is.g).strip.vlen) (hle : (u.ag is.g).strip.vlen ≤ 8192) (hd : d.val + g ≤ 48)
    (hroom : g ≤ (u.ag is.g).freeRegs.length) :
    let r := atomRun n (op.leaves n signed x y) ((planOf els hs).map (fun e => (e.1, e.2.2))) u.byte
    ∃ t, vamoElems op pair d o w n signed els x y is u = .ok ((), t) ∧ u.Around t ∧ (∀ j, j ≠ is.g → t.ag j = u.ag j)
      ∧ (∃ f m tr, t.ag is.g = { u.ag is.g with vec := f, marks := m, trace := tr })
      ∧ (u.ag is.g).ElementsAre (t.ag is.g) d g w (oldElems pair r.1) ∧ t.byte = r.2 := by
  intro r
  obtain ⟨v, hbody, har, hoth, hbyte, hag⟩ := vamoElems_planned (pair := pair) (signed := signed) (d := d) (o := o) (w := w) (x := x) (y := y) hu
  have hdone : (v.ag is.g).marks.done = [] := by rw [hag]; exact hu.fresh.2.1
  obtain ⟨p, hp, hpar, hpoth, hpag, hpbyte⟩ := performAtoms_here (is := is) (n := n) (op := op) (signed := signed) (x := x) (y := y)
    (keep := writeOld pair d w is) (planOf els hs) (s := v) (har.memoryOk hu.memoryOk) (by rw [hag]; exact hu.drained)
    (fun e he => by
      obtain ⟨h, hh, e'⟩ := planOf_mem he
      rw [e']
      exact ⟨hu.plain h hh, (har.away _).trans (haway h hh)⟩) hix (by rw [hdone]; simp)
  rw [hdone, List.nil_append, funext hbyte, hag] at hpag
  rw [funext hbyte] at hpbyte
  obtain ⟨hnd, hreg⟩ := hold r.1 ((atomRun_keys _ _ _ _).trans (List.map_map ..))
  have hstrip : (p.ag is.g).strip = (u.ag is.g).strip := by rw [hpag]; rfl
  have hdone' : (p.ag is.g).marks.done = r.1 := by rw [hpag]; rfl
  have hrest : (p.ag is.g).AtRest := by
    rw [hpag]
    obtain ⟨h1, h2, h3, h4⟩ := hu.rest
    exact ⟨h1, h2, h3, h4⟩
  obtain ⟨q, hq, hbec⟩ := vwrite_becomes (is := is) (v := d) (w := w) (n := g) (ups := oldElems pair r.1)
    ((landings_around (har.trans hpar) _).trans hu.calm) hrest (by rw [hstrip]; exact hv) (by rw [hstrip]; exact hdvd) (by rw [hstrip]; exact hle)
    hd (by rw [hstrip]; exact hreg) (by rw [hpag]; exact hroom)
  have hwrite : writeOld pair d w is p = .ok ((), q) := by
    rw [writeOld, bind_ok (a := p.ag is.g) (t := p) rfl, hdone']
    exact hq
  have hels := elementsAre_of_becomes hbec hd (by rw [hstrip]; exact hreg) hnd
  obtain ⟨f, hf⟩ := hbec.own
  obtain ⟨t, ht, htar, htoth, htbyte, tr, htag⟩ := vecRecord_ok q is els 2 (8 * n)
  refine ⟨t, ?_, ((har.trans hpar).trans hbec.around).trans htar, fun j hj => ?_, ?_, ?_, ?_⟩
  · rw [hbody, bind_ok hp, bind_ok hwrite]
    exact ht
  · rw [htoth j hj, hbec.others j hj, hpoth j hj, hoth j hj]
  · exact ⟨f, _, tr, by rw [htag, hf, hpag]; rfl⟩
  · rw [htag]
    rw [hpag] at hels
    exact hels
  · exact (funext fun r => (htbyte r).trans (hbec.byte r)).trans hpbyte

/-- A vector atomic whose first element has its home on another module: it asks for it. -/
theorem vamoElems_away (hu : u.VamoReady is op.acc n els hs) {e : Nat × Addr × Place} {es : List (Nat × Addr × Place)}
    (hplan : planOf els hs = e :: es) (haway : u.away e.2.2 = true) :
    ∃ t, vamoElems op pair d o w n signed els x y is u
        = .error (.wait (.remote u.link.nextTag e.1 (.amo u.link.nextTag (op.number signed) (writerOf is.g).1 (writerOf is.g).2 (quayOf is.g) e.2.2.addr n
            (x e.1) (y e.1))) t)
      ∧ (∀ j, j ≠ is.g → t.ag j = u.ag j) ∧ (∀ r, t.byte r = u.byte r) ∧ t.ag is.g = (u.ag is.g).planned (planOf els hs)
      ∧ t.Sent (e.2.2.addr / 2 ^ 44) (.amo u.link.nextTag (op.number signed) (writerOf is.g).1 (writerOf is.g).2 (quayOf is.g) e.2.2.addr n (x e.1) (y e.1)) := by
  obtain ⟨v, hbody, har, hoth, hbyte, hag⟩ := vamoElems_planned (pair := pair) (signed := signed) (d := d) (o := o) (w := w) (x := x) (y := y) hu
  obtain ⟨h, hh, e'⟩ := planOf_mem (hplan ▸ List.mem_cons_self : e ∈ planOf els hs)
  obtain ⟨t, ht, htag, htbyte, hsent⟩ := askHome_asks (α := Unit) (s := v) (g := is.g) (by rw [hag]; exact hu.drained) e.1 e.2.2 (e.2.2.span n)
    (fun t => .amo t (op.number signed) (writerOf is.g).1 (writerOf is.g).2 (quayOf is.g) e.2.2.addr n (x e.1) (y e.1))
  have hatoms := performAtoms_cons (is := is) (n := n) (op := op) (signed := signed) (x := x) (y := y)
    (keep := writeOld pair d w is) (e := e) (es := es) (s := v) (by rw [hag]; simp [show ((u.ag is.g).planned (planOf els hs)).marks.done = [] from hu.fresh.2.1])
    (by rw [e']; exact (hu.plain h hh).1)
  rw [if_pos ((har.away _).trans haway)] at hatoms
  rw [hplan] at hbody
  rw [har.nextTag] at ht hsent
  exact ⟨t, hbody.trans (bind_error (hatoms.trans ht)), fun j hj => (htag j).trans (hoth j hj), fun r => (htbyte r).trans (hbyte r),
    (htag _).trans hag, hsent⟩

end

/-! ### Lanes, groups and elements (R8, R96) -/

theorem vlen_le (st : Strip) : st.vlen ≤ 8192 := by
  have h : popCount st.live.toNat 32 ≤ 32 := (List.length_filter_le _ _).trans (List.length_range (n := 32)).le
  unfold Strip.vlen
  omega

theorem dvd_vlen {w : Nat} (h : w ∣ 256) (st : Strip) : w ∣ st.vlen := h.mul_right _

/-- A group that starts at a multiple of its size lies within the registers. -/
theorem aligned_group {v g : Nat} (hg : g ∣ 48) (hv : v < 48) (h : v % g = 0) : v + g ≤ 48 := by
  obtain ⟨p, hp⟩ := hg
  obtain ⟨q, rfl⟩ := Nat.dvd_of_mod_eq_zero h
  have hlt : q < p := by
    rw [hp] at hv
    exact Nat.lt_of_mul_lt_mul_left hv
  calc g * q + g = g * (q + 1) := rfl
    _ ≤ g * p := Nat.mul_le_mul_left _ hlt
    _ = 48 := hp.symm

theorem vtGroup_dvd (t : Nat) : vtGroup t ∣ 48 := by
  have h : t / 16 % 4 ≤ 3 := by omega
  exact (pow_dvd_pow 2 h).trans (by decide)

theorem vtGroup_le (t : Nat) : vtGroup t ≤ 8 := Nat.pow_le_pow_right (n := 2) (by decide) (by omega : t / 16 % 4 ≤ 3)

theorem actives_nodup (x : Agent) (m : Option (Fin 12)) : (x.actives m).Nodup := List.nodup_range.filter _

theorem actives_lt {x : Agent} {m : Option (Fin 12)} {k : Nat} (h : k ∈ x.actives m) : k < x.strip.vl.toNat :=
  List.mem_range.1 (List.mem_filter.1 h).1

/-- An element below a length that fits the group lies in one of its registers. -/
theorem elemAt_lt {vlen w g vl i : Nat} (hw : 0 < w) (hi : i < vl) (h : vl * w ≤ g * vlen) : (elemAt vlen w i).1 < g := by
  refine Nat.div_lt_of_lt_mul ?_
  calc i * w < vl * w := Nat.mul_lt_mul_of_pos_right hi hw
    _ ≤ g * vlen := h
    _ = vlen * g := Nat.mul_comm ..

/-- The elements that a performed element of an atomic is written to: a pair is two. -/
def writtenKeys (pair : Bool) (k : Nat) : List Nat := if pair then [k, k + 1] else [k]

theorem oldElems_keys (pair : Bool) (l : List (Nat × Nat)) : (oldElems pair l).map (fun q => q.1) = (l.map (fun q => q.1)).flatMap (writtenKeys pair) := by
  rw [oldElems, List.map_flatMap, List.flatMap_map]
  cases pair <;> rfl

theorem oldElems_single (l : List (Nat × Nat)) : oldElems false l = l := List.flatMap_singleton' l

theorem oldElems_pairs (l : List (Nat × Nat)) : oldElems true l = l.flatMap (fun x => [(x.1, x.2 % 2 ^ 64), (x.1 + 1, x.2 / 2 ^ 64)]) := rfl

theorem mem_atomElems {pair : Bool} {vl k : Nat} {es : List Nat} (h : k ∈ atomElems pair vl es) :
    k ∈ es ∧ (pair = true → k % 2 = 0 ∧ k + 1 < vl) := by
  cases pair
  · exact ⟨h, by simp⟩
  · exact ⟨List.mem_of_mem_filter h, fun _ => by simpa using (List.mem_filter.1 h).2⟩

theorem atomElems_nodup (pair : Bool) (vl : Nat) {es : List Nat} (h : es.Nodup) : (atomElems pair vl es).Nodup := by
  cases pair
  · exact h
  · exact h.filter _

/-- The elements that an atomic's elements are written to differ, since a pair starts at an even one (R187). -/
theorem writtenKeys_nodup {pair : Bool} {ks : List Nat} (hn : ks.Nodup) (he : pair = true → ∀ k ∈ ks, k % 2 = 0) :
    (ks.flatMap (writtenKeys pair)).Nodup := by
  rw [List.nodup_flatMap]
  cases pair
  · refine ⟨fun k _ => by simp [writtenKeys], hn.imp_of_mem fun {a b} _ _ hne => ?_⟩
    simpa [Function.onFun, writtenKeys] using Ne.symm hne
  · refine ⟨fun k _ => by simp [writtenKeys], hn.imp_of_mem fun {a b} ha hb hne => ?_⟩
    have h1 := he rfl a ha
    have h2 := he rfl b hb
    simp only [Function.onFun, writtenKeys, if_true, List.disjoint_cons_left, List.mem_cons, List.not_mem_nil, or_false,
      List.disjoint_nil_left, and_true]
    omega

theorem zip_fst_sublist {α β : Type} (l : List α) : ∀ r : List β, ((l.zip r).map Prod.fst).Sublist l := by
  induction l with
  | nil => exact fun _ => by simp
  | cons a l ih =>
    intro r
    cases r with
    | nil => simp
    | cons b r => exact (ih r).cons_cons a

/-- A plan performs elements of the list it is made of. -/
theorem planOf_keys (f : Nat → Addr) (ks : List Nat) (hs : List Hit) : ((planOf (ks.map (fun k => ⟨k, f k⟩)) hs).map (fun e => e.1)).Sublist ks := by
  have h : (planOf (ks.map (fun k => ⟨k, f k⟩)) hs).map (fun e => e.1) = (ks.zip hs).map Prod.fst := by
    rw [planOf, List.map_map, List.zip_map_left, List.map_map]
    rfl
  rw [h]
  exact zip_fst_sublist ks hs

/-- Where the elements performed are written: different elements, each within the group. -/
theorem oldElems_fit {pair : Bool} {vl vlen w g : Nat} {es ks : List Nat} {l : List (Nat × Nat)} (hw : 0 < w) (hfit : vl * w ≤ g * vlen)
    (hn : es.Nodup) (hlt : ∀ k ∈ es, k < vl) (hk : ks.Sublist (atomElems pair vl es)) (hl : l.map (fun q => q.1) = ks) :
    ((oldElems pair l).map (fun q => q.1)).Nodup ∧ ∀ q ∈ oldElems pair l, (elemAt vlen w q.1).1 < g := by
  have hmem (k : Nat) (h : k ∈ ks) := mem_atomElems (hk.subset h)
  rw [oldElems_keys, hl]
  refine ⟨writtenKeys_nodup ((atomElems_nodup pair vl hn).sublist hk) fun hp k h => ((hmem k h).2 hp).1, fun q hq => elemAt_lt hw ?_ hfit⟩
  have hq' : q.1 ∈ ks.flatMap (writtenKeys pair) := by
    rw [← hl, ← oldElems_keys]
    exact List.mem_map_of_mem hq
  obtain ⟨k, hk', hqk⟩ := List.mem_flatMap.1 hq'
  obtain ⟨hes, hpair⟩ := hmem k hk'
  cases pair
  · rw [List.mem_singleton.1 hqk]
    exact hlt k hes
  · have := (hpair rfl).2
    rcases List.mem_cons.1 hqk with h | h
    · omega
    · rw [List.mem_singleton.1 h]
      exact this

/-! ### What the cut before an instruction leaves -/

namespace Agent.CutFrom
variable {x y : Agent} {pc : Word} (h : x.CutFrom y pc)
include h

theorem vec : y.vec = x.vec := (congrArg Agent.vec h.own).trans rfl
theorem marks : y.marks = x.marks := (congrArg Agent.marks h.own).trans rfl
theorem mem : y.mem = x.mem := (congrArg Agent.mem h.own).trans rfl
theorem ra (r : Fin 16) : y.ra r = x.ra r := (congrArg (fun z : Agent => z.ra r) h.own).trans rfl
theorem vlen : y.strip.vlen = x.strip.vlen := by simp only [Strip.vlen, h.live]
theorem venv : y.venv = x.venv := by simp only [Agent.venv, h.vtype, h.vl]
theorem vreg (r : Nat) : y.vreg r = x.vreg r := (congrArg (fun z : Agent => z.vreg r) h.own).trans rfl
theorem mreg (m : Fin 12) : y.mreg m = x.mreg m := (congrArg (fun z : Agent => z.mreg m) h.own).trans rfl
theorem elem (v w i : Nat) : y.elem v w i = x.elem v w i := by simp only [Agent.elem, h.vlen, h.vreg]
theorem actives (m : Option (Fin 12)) : y.actives m = x.actives m := by simp only [Agent.actives, Agent.active, h.vl, h.mreg]

theorem sameAccess : x.SameAccess y :=
  ⟨(congrArg Agent.part h.own).trans rfl, (congrArg Agent.ctx h.own).trans rfl, by rw [h.marks], (congrArg Agent.trap h.own).trans rfl⟩

theorem elementsAre {z : Agent} {d n w : Nat} {ups : List (Nat × Nat)} (he : y.ElementsAre z d n w ups) : x.ElementsAre z d n w ups := by
  obtain ⟨h1, h2, h3⟩ := he
  refine ⟨fun i hi => ?_, fun r hr ho => (h2 r hr ho).trans (h.vreg r), fun k => (h3 k).trans (h.mreg k)⟩
  rw [h1 i (by rw [h.vlen]; exact hi), h.elem]

end Agent.CutFrom

/-- A list of accesses passes its checks when each of them does. -/
theorem checkElems_cons {s : State} {is : Issue} {n al : Nat} {k : Acc} {e : Elem} {es : List Elem} {hs : List Hit} :
    s.checkElems is n al k (e :: es) = .ok hs ↔
      ∃ h t, s.check is e.addr n al k e.ix = .ok h ∧ s.checkElems is n al k es = .ok t ∧ hs = h :: t := by
  constructor
  · intro hok
    rw [State.checkElems] at hok
    split at hok
    · cases hok
    · cases hok
    · dsimp only at hok
      split at hok
      · split at hok
        · split at hok <;> cases hok
        · cases hok
      · cases hok
    · next h hc =>
      split at hok
      · next t ht => exact ⟨h, t, hc, ht, (Except.ok.inj hok).symm⟩
      · cases hok
  · rintro ⟨h, t, hc, ht, rfl⟩
    simp only [State.checkElems, hc, ht]

/-- A list of accesses that passes its checks passes them in every state with the same maps. -/
theorem checkElems_same {s t : State} {is : Issue} (h : s.SameMaps t) (ha : (s.ag is.g).SameAccess (t.ag is.g)) {n al : Nat} {k : Acc} (es : List Elem) :
    ∀ hs, s.checkElems is n al k es = .ok hs → t.checkElems is n al k es = .ok hs := by
  induction es with
  | nil => exact fun _ hok => hok
  | cons e es ih =>
    intro hs hok
    obtain ⟨hit, rest, hc, hr, rfl⟩ := checkElems_cons.1 hok
    exact checkElems_cons.2 ⟨hit, rest, (check_same h ha _ _ _ _ _).trans hc, ih rest hr, rfl⟩

end Sys2Proof.Machine
end

section
/-! Vector atomics as instructions: what one completes or asks for. The statement O36 is settled here. -/

namespace Sys2Proof.Machine

/-! ### A vector atomic that begins (R88, R184) -/

/-- The hypotheses of a vector atomic: it can begin, its type and its groups are accepted, and its elements pass their checks on plain
memory. -/
structure State.VamoCan (s : State) (i : Instr) (op : AtomOp) (pair : Bool) (d b : Fin 48) (n : Nat) (els : List Elem) (hs : List Hit) : Prop where
  memoryOk : s.MemoryOk
  calm : s.VecCalm i
  quiet : s.AllQuiet
  ready : s.CutReady
  type : tyAtom pair s.env.ty = true
  dest : d.val % s.env.g = 0
  index : b.val % s.env.g = 0
  cas : op = .cas → d.val + 2 * s.env.g ≤ 48
  checks : s.checkElems s.issue n n op.acc els = .ok hs
  good : ∀ h ∈ hs, h.place.Plain ∧ s.badRead h.place n = none

/-- The rule of a vector atomic (R88). -/
def vamoRule : Rule := { Rule.vector with cut := true }

theorem pre_vamo {s : State} {i : Instr} (h : s.VecCalm i) : s.pre s.issue i vamoRule = none := by
  obtain ⟨⟨-, hx⟩, hp, hshut, hsusp, -⟩ := h
  have h1 : ¬ (s.issue.pfx ≠ [] ∧ i.takesExt = false) := by
    rcases hx with h | h
    · exact fun e => e.1 h
    · exact fun e => by simp [h] at e
  unfold State.pre
  dsimp only
  rw [if_neg h1]
  simp [hp, hshut, hsusp, vamoRule, Rule.vector]

section
variable {s : State} {i : Instr} {op : AtomOp} {pair : Bool} {d b : Fin 48} {a : Fin 16} {m : Option (Fin 12)} {o : MOrd} {n : Nat}
  {els : List Elem} {hs : List Hit} (hc : s.VamoCan i op pair d b n els hs)
include hc

theorem vamo_inStrip : (s.ag s.cur).inStrip = true := by
  obtain ⟨-, hopen, -⟩ := hc.ready
  obtain ⟨-, -, -, hsusp, -⟩ := hc.calm
  rw [Agent.inStrip, hopen, hsusp]
  rfl

/-- Past the cut before it, a vector atomic's elements are ready. -/
theorem vamo_ready : s.cutBegun.VamoReady s.issue op.acc n els hs := by
  obtain ⟨hcut, hmaps, har, hbyte, -⟩ := cutBegun_ag (s := s) hc.ready.1
  obtain ⟨hq, hwc, hmarks, hwatch, hfeeds⟩ := hc.quiet
  obtain ⟨-, -, -, -, hm, hp, he, hl, hn, -⟩ := hc.calm
  have hown : (s.cutBegun.ag s.cur).vec = (s.ag s.cur).vec := hcut.vec
  have htile : s.cutBegun.tile (quayOf s.cur) = s.tile (quayOf s.cur) := har.tile _
  refine ⟨har.memoryOk hc.memoryOk, clear_fresh ?_, ?_, ?_, (landings_around har _).trans hl, ?_, ?_, checkElems_same hmaps hcut.sameAccess _ _ hc.checks,
    fun h hh => (hc.good h hh).1, fun h hh => (hmaps.badRead _ _).trans (hc.good h hh).2⟩
  · rw [issue_g, hcut.marks]; exact hmarks
  · rw [issue_g, Agent.Drained, hcut.mem]; exact ⟨hq, hwc⟩
  · exact ⟨by rw [issue_g, hown]; exact hm, by rw [issue_g, hown]; exact hp, by rw [issue_g, hown]; exact he, by rw [issue_g, hown]; exact hn⟩
  · rw [issue_g, htile]; exact hwatch
  · rw [issue_g, htile]; exact hfeeds


/-- The width in bits of the elements of an atomic. -/
theorem vamo_width : 0 < s.env.w ∧ s.env.w ∣ 256 := by
  have hty : s.env.ty = 2 ∨ s.env.ty = 3 ∨ s.env.ty = 6 ∨ s.env.ty = 7 := by
    have h := hc.type
    simp only [tyAtom, Bool.or_eq_true, Bool.and_eq_true, decide_eq_true_eq] at h
    omega
  have hw : s.env.w = elemBits s.env.ty := rfl
  rcases hty with h | h | h | h <;> rw [hw, h] <;> decide

/-- There are free registers for the destination's group. -/
theorem vamo_room : s.env.g ≤ (s.cutBegun.ag s.cur).freeRegs.length := by
  obtain ⟨hcut, -⟩ := cutBegun_ag (s := s) hc.ready.1
  obtain ⟨-, -, -, -, -, -, -, hl, -, -, hfree, -⟩ := hc.calm
  rw [freePhys_eq hl] at hfree
  calc s.env.g ≤ 8 := vtGroup_le _
    _ ≤ (s.ag s.cur).freeRegs.length := hfree
    _ ≤ (s.cutBegun.ag s.cur).freeRegs.length := ((List.nodup_range.filter _).subperm hcut.free).length_le

end

/-- A cut-forcing instruction within a strip retires, and the cut after it is made (R88). -/
theorem retire_cut {t : State} {is : Issue} (h : (t.ag is.g).status = .run) (hin : (t.ag is.g).inStrip = true) (hb : (t.ag is.g).strip.buf = []) :
    t.retire is true = t.modAg is.g (fun x => (x.retired is.pc true).atCut (t.ag is.g).regs.pc) := by
  have h1 : ¬ ((t.ag is.g).status = .absent ∨ (t.ag is.g).status = .halted) := by simp [h]
  have hag : (t.modAg is.g (fun x => x.retired is.pc true)).ag is.g = (t.ag is.g).retired is.pc true := modAg_ag_self _ _ _
  unfold State.retire
  rw [if_neg h1]
  dsimp only
  rw [hag, if_pos (by rw [Bool.true_and]; exact hin), cutAt_empty (by rw [hag]; exact hb), modAg_modAg]
  rfl

theorem cutBefore_vl {s : State} (h : (s.ag s.cur).strip.buf = []) : ((s.cutBefore s.issue).ag s.cur).strip.vl = (s.ag s.cur).strip.vl := by
  unfold State.cutBefore
  split
  · rfl
  · rw [cutAt_empty (by rw [issue_g]; exact h), issue_g, modAg_ag_self]
    rfl

/-- The agent at the cut after an instruction whose body has written its vector file, its marks and its trace. -/
theorem cut_after {x y z : Agent} {pc : Word} (h : x.CutFrom y pc) {f : VecFile} {mk : Marks} {tr : Trace} (hz : z = { y with vec := f, marks := mk, trace := tr })
    (hrun : x.status = .run) (hopen : x.strip.isOpen = true) :
    let q := (z.retired x.regs.pc true).atCut z.regs.pc
    x.Retired q pc ∧ x.ScalarKept q ∧ x.AddressKept q ∧ q.strip.isOpen = true ∧ q.strip.vl = x.strip.vl ∧ q.strip.vtype = x.strip.vtype
      ∧ q.strip.live = x.strip.live ∧ q.strip.spc = pc ∧ q.strip.ckpt.map = some q.vec.map ∧ q.fp = x.fp := by
  obtain ⟨hown, hvl, htype, hlive, hop, -, -, -⟩ := h
  generalize y.strip = st at hown hvl htype hlive hop
  subst hown hz
  exact ⟨⟨hrun, rfl, rfl, rfl, rfl, rfl⟩, rfl, rfl, hop.trans hopen, hvl, htype, hlive, rfl, rfl, rfl⟩

/-! ### The elements of a vector atomic and their operands (R184, R187) -/

/-- The elements that an atomic performs. -/
def State.atomAct (s : State) (pair : Bool) (m : Option (Fin 12)) : List Nat := atomElems pair s.env.vl (s.act m)

/-- The accesses of an atomic: each element at the address of its index. -/
def State.atomEls (s : State) (pair : Bool) (a : Fin 16) (b : Fin 48) (m : Option (Fin 12)) : List Elem :=
  (s.atomAct pair m).map (fun k => ⟨k, (s.ag s.cur).ra a + BitVec.ofInt 72 (sext s.env.w (s.el b s.env.w k))⟩)

/-- The bytes of one location. -/
def State.atomBytes (s : State) (pair : Bool) : Nat := if pair then 16 else s.env.w / 8

/-- What a location is combined or compared with. -/
def State.atomX (s : State) (pair : Bool) (d : Fin 48) (k : Nat) : Nat := wideElem pair (s.el d s.env.w) k

/-- What a compare-and-swap writes: an element of the group after the destination's. -/
def State.atomY (s : State) (op : AtomOp) (pair : Bool) (d : Fin 48) (k : Nat) : Nat :=
  if op = .cas then wideElem pair (s.el (d.val + s.env.g) s.env.w) k else s.atomX pair d k

theorem wideElem_congr {pair : Bool} {f h : Nat → Nat} {es : List Nat} (e : ∀ k ∈ (if pair then es.flatMap (fun i => [i, i + 1]) else es), f k = h k)
    {k : Nat} (hk : k ∈ es) : wideElem pair f k = wideElem pair h k := by
  cases pair
  · exact e k hk
  · have h1 := e k (List.mem_flatMap.2 ⟨k, hk, by simp⟩)
    have h2 := e (k + 1) (List.mem_flatMap.2 ⟨k, hk, by simp⟩)
    rw [wideElem, wideElem, h1, h2]

section
variable {s : State} {i : Instr} {op : AtomOp} {pair : Bool} {d b : Fin 48} {a : Fin 16} {m : Option (Fin 12)} {o : MOrd} {hs : List Hit}
  (hc : s.VamoCan i op pair d b (s.atomBytes pair) (s.atomEls pair a b m) hs)
include hc

/-- The body of a vector atomic from where its elements and their operands are known. -/
theorem vamo_begun : ∃ x y : Nat → Nat, (∀ k ∈ s.atomAct pair m, x k = s.atomX pair d k ∧ y k = s.atomY op pair d k)
    ∧ vamo op pair d a b m o s.issue s.cutBegun
      = vamoElems op pair d o s.env.w (s.atomBytes pair) (isI s.env.ty) (s.atomEls pair a b m) x y s.issue s.cutBegun := by
  obtain ⟨hcut, -⟩ := cutBegun_ag (s := s) hc.ready.1
  have hu := vamo_ready hc
  have henv : (s.cutBegun.ag s.issue.g).venv = s.env := hcut.venv
  have hact : (s.cutBegun.ag s.issue.g).actives m = s.act m := hcut.actives m
  obtain ⟨xs, ys, ks, hx, hy, hk, hbody⟩ := vamo_elems (is := s.issue) (op := op) (pair := pair) (d := d) (b := b) (a := a) (m := m) (o := o)
    hu.rest hu.calm (by rw [henv]; exact hc.type) (by rw [henv]; exact hc.cas) (by rw [henv]; exact hc.dest) (by rw [henv]; exact hc.index)
    (by rw [henv]; exact vamo_room hc)
  rw [henv, hact] at hx hy hk hbody
  refine ⟨wideElem pair xs, if op = .cas then wideElem pair ys else wideElem pair xs, fun k hk => ⟨?_, ?_⟩, hbody.trans ?_⟩
  · exact wideElem_congr (fun j hj => (hx j hj).trans (hcut.elem _ _ _)) hk
  · rw [State.atomY]
    by_cases h : op = .cas
    · simp only [if_pos h]
      refine wideElem_congr (fun j hj => ?_) hk
      rw [hy j hj, otherReg_val h (hc.cas h) (vtGroup_pos _)]
      exact hcut.elem _ _ _
    · simp only [if_neg h]
      exact wideElem_congr (fun j hj => (hx j hj).trans (hcut.elem _ _ _)) hk
  · have hels : (atomElems pair s.env.vl (s.act m)).map (fun i => (⟨i, (s.cutBegun.ag s.issue.g).ra a + BitVec.ofInt 72 (sext s.env.w (ks i))⟩ : Elem))
        = s.atomEls pair a b m := by
      refine List.map_congr_left fun k hk' => ?_
      rw [hk k hk', issue_g, hcut.ra]
      rw [hcut.elem]
      rfl
    rw [hels]
    rfl


/-- The elements of an atomic and the registers that hold them. -/
theorem vamo_fit {l : List (Nat × Nat)} (hl : l.map (fun q => q.1) = (planOf (s.atomEls pair a b m) hs).map (fun e => e.1)) :
    ((oldElems pair l).map (fun q => q.1)).Nodup ∧ ∀ q ∈ oldElems pair l, (elemAt (s.cutBegun.ag s.cur).strip.vlen s.env.w q.1).1 < s.env.g := by
  obtain ⟨hcut, -⟩ := cutBegun_ag (s := s) hc.ready.1
  obtain ⟨-, -, -, -, -, -, -, -, -, -, -, -, hfit⟩ := hc.calm
  rw [hcut.vlen]
  exact oldElems_fit (vamo_width hc).1 hfit (actives_nodup _ m) (fun _ h => actives_lt h) (planOf_keys _ _ _) hl

/-- A vector atomic whose elements all have their home here. -/
theorem vamo_here (hx : exec i s = s.run i vamoRule (vamo op pair d a b m o)) (haway : ∀ h ∈ hs, s.away h.place = false) :
    let r := atomRun (s.atomBytes pair) (op.leaves (s.atomBytes pair) (isI s.env.ty) (s.atomX pair d) (s.atomY op pair d))
      ((s.atomAct pair m).zip (hs.map (fun h => h.place))) s.byte
    ∃ t, exec i s = .next t ∧ s.CutCompleted t ∧ (s.ag s.cur).ElementsAre (t.ag s.cur) d s.env.g s.env.w (oldElems pair r.1) ∧ ∀ p, t.byte p = r.2 p := by
  intro r
  obtain ⟨hcut, -, har, hbyte, hoth⟩ := cutBegun_ag (s := s) hc.ready.1
  obtain ⟨x, y, hxy, hbody⟩ := vamo_begun (o := o) hc
  obtain ⟨⟨hrun, -⟩, -, -, hsusp, -, -, -, -, -, -, -, hpos, -⟩ := hc.calm
  obtain ⟨hbuf, hopen, -⟩ := hc.ready
  obtain ⟨t, ht, htar, htoth, ⟨f, mk, tr, htag⟩, hels, htbyte⟩ := vamoElems_here (pair := pair) (signed := isI s.env.ty) (d := d) (o := o) (w := s.env.w)
    (g := s.env.g) (x := x) (y := y) (vamo_ready hc) (fun h hh => (har.away _).trans (haway h hh))
    ((atomElems_nodup pair s.env.vl (actives_nodup (s.ag s.cur) m)).sublist (planOf_keys _ _ _))
    (fun l hl => vamo_fit hc hl) (by rw [issue_g, hcut.vlen]; exact hpos) (dvd_vlen (vamo_width hc).2 _) (vlen_le _)
    (aligned_group (vtGroup_dvd _) d.isLt hc.dest) (vamo_room hc)
  rw [issue_g] at htag hels htoth
  have hrunEq : atomRun (s.atomBytes pair) (op.leaves (s.atomBytes pair) (isI s.env.ty) x y)
      ((planOf (s.atomEls pair a b m) hs).map (fun e => (e.1, e.2.2))) s.cutBegun.byte = r := by
    rw [State.atomEls, planOf_pairs, funext hbyte]
    refine atomRun_congr _ _ fun p hp old => ?_
    obtain ⟨h1, h2⟩ := hxy p.1 (List.of_mem_zip hp).1
    rw [AtomOp.leaves, AtomOp.leaves, h1, h2]
  rw [hrunEq] at hels htbyte
  have hown := hcut.own
  have hretire := retire_cut (t := t) (is := s.issue) (by rw [issue_g, htag, hown]; exact hrun)
    (by rw [issue_g, htag, Agent.inStrip, hcut.isOpen, hcut.susp, hopen, hsusp]; rfl) (by rw [issue_g, htag]; exact hcut.buf.trans hbuf)
  refine ⟨_, by rw [hx, run_next, runBody_cut (pre_vamo hc.calm) rfl hc.ready (vamo_inStrip hc), hbody, ht, finish_ok, hretire], ⟨fun j hj => ?_, ?_⟩, ?_, ?_⟩
  · rw [issue_g, modAg_ag_ne _ _ _ hj, htoth j hj, hoth j hj]
  · rw [issue_g, modAg_ag_self]
    exact cut_after hcut htag hrun hopen
  · rw [issue_g, modAg_ag_self]
    exact hcut.elementsAre hels
  · exact congrFun htbyte

/-- A vector atomic whose first element has its home on another module. -/
theorem vamo_away (hx : exec i s = s.run i vamoRule (vamo op pair d a b m o)) {k : Nat} {ks : List Nat} {h : Hit} {hs' : List Hit}
    (hk : s.atomAct pair m = k :: ks) (hh : hs = h :: hs') (haway : s.away h.place = true) :
    s.Asks i k (h.place.addr / 2 ^ 44) (fun t => .amo t (op.number (isI s.env.ty)) (writerOf s.cur).1 (writerOf s.cur).2 (quayOf s.cur)
      h.place.addr (s.atomBytes pair) (s.atomX pair d k) (s.atomY op pair d k)) := by
  obtain ⟨hcut, -, har, hbyte, hoth⟩ := cutBegun_ag (s := s) hc.ready.1
  obtain ⟨x, y, hxy, hbody⟩ := vamo_begun (o := o) hc
  obtain ⟨h1, h2⟩ := hxy k (by rw [hk]; exact .head _)
  obtain ⟨e, es, hplan, he1, he2⟩ : ∃ e es, planOf (s.atomEls pair a b m) hs = e :: es ∧ e.1 = k ∧ e.2.2 = h.place := by
    rw [State.atomEls, hk, hh]
    exact ⟨_, _, rfl, rfl, rfl⟩
  obtain ⟨t, ht, htoth, htbyte, htag, hsent⟩ := vamoElems_away (pair := pair) (signed := isI s.env.ty) (d := d) (o := o) (w := s.env.w) (x := x) (y := y)
    (vamo_ready hc) hplan (by rw [he2]; exact (har.away _).trans haway)
  rw [he1, he2, h1, h2, har.nextTag] at ht hsent
  rw [issue_g] at ht hsent htag htoth
  have hown := hcut.own
  have hvl : (t.ag s.cur).strip.vl = ((s.cutBefore s.issue).ag s.cur).strip.vl := by
    rw [htag, cutBefore_vl hc.ready.1]
    exact hcut.vl
  refine asks_of_stay (t := t) (mark := ((s.cutBefore s.issue).ag s.cur).strip.mark) ?_ (by rw [htag, hown]; rfl) (by rw [htag, hown]; rfl)
    (fun j hj => (htoth j hj).trans (hoth j hj)) (fun r => (htbyte r).trans (hbyte r)) hsent
  rw [hx, run_next, runBody_cut (pre_vamo hc.calm) rfl hc.ready (vamo_inStrip hc), hbody, ht, finish_wait, issue_g, untrim_same hvl]

end

/-! ### The vector instructions of the atomics -/

theorem exec_vector (op : AtomOp) (s : State) (d b : Fin 48) (a : Fin 16) (m : Option (Fin 12)) (o : MOrd) :
    exec (op.vector d a b m o) s = s.run (op.vector d a b m o) vamoRule (vamo op false d a b m o) := by
  cases op <;> rfl

theorem tyAtom_iff {pair : Bool} {t : Nat} : tyAtom pair t = true ↔ t = 3 ∨ t = 7 ∨ (pair = false ∧ (t = 2 ∨ t = 6)) := by
  cases pair <;> simp [tyAtom, or_assoc]

theorem elemBits_bytes {t : Nat} (h : t = 2 ∨ t = 3 ∨ t = 6 ∨ t = 7) : 8 * (elemBits t / 8) = elemBits t := by
  rcases h with rfl | rfl | rfl | rfl <;> rfl

/-- Atomics of single elements (R184, R185). -/
theorem vector_atomics : Claim.VectorAtomicResults := by
  intro s op d b a m o hs e act nb els y r hm hcalm hquiet hready hty hd hb hcas hchk hgood
  have hc : s.VamoCan (op.vector d a b m o) op false d b (s.atomBytes false) (s.atomEls false a b m) hs :=
    ⟨hm, hcalm, hquiet, hready, tyAtom_iff.2 (by tauto), hd, hb, hcas, hchk, hgood⟩
  have hx := exec_vector op s d b a m o
  refine ⟨fun haway => ?_, fun k ks h hs' hk hh haway => vamo_away hc hx hk hh haway⟩
  have hr : atomRun (s.atomBytes false) (op.leaves (s.atomBytes false) (isI s.env.ty) (s.atomX false d) (s.atomY op false d))
      ((s.atomAct false m).zip (hs.map (fun h => h.place))) s.byte = r :=
    atomRun_congr _ _ fun p _ old => leaves_eq (elemBits_bytes hty) _ _ _ _ _
  obtain ⟨t, ht, hcut, hels, hbytes⟩ := vamo_here hc hx haway
  rw [hr, oldElems_single] at hels
  rw [hr] at hbytes
  exact ⟨t, ht, hcut, hels, hbytes⟩

/-- Compare-and-swaps of pairs of elements (R187). -/
theorem pair_atomics : Claim.PairAtomicResults := by
  intro s d b a m o hs e act els pair r hm hcalm hquiet hready hty hd hb hcas hchk hgood
  have hc : s.VamoCan (.vamocasw d a b m o) .cas true d b (s.atomBytes true) (s.atomEls true a b m) hs :=
    ⟨hm, hcalm, hquiet, hready, tyAtom_iff.2 (by tauto), hd, hb, fun _ => hcas, hchk, hgood⟩
  have hx : exec (.vamocasw d a b m o) s = s.run (.vamocasw d a b m o) vamoRule (vamo .cas true d a b m o) := rfl
  refine ⟨fun haway => ?_, fun k ks h hs' hk hh haway => vamo_away hc hx hk hh haway⟩
  have hr : atomRun (s.atomBytes true) (AtomOp.leaves .cas (s.atomBytes true) (isI s.env.ty) (s.atomX true d) (s.atomY .cas true d))
      ((s.atomAct true m).zip (hs.map (fun h => h.place))) s.byte = r :=
    atomRun_congr _ _ fun p _ old => leaves_eq (w := 128) rfl _ _ _ _ _
  obtain ⟨t, ht, hcut, hels, hbytes⟩ := vamo_here hc hx haway
  rw [hr, oldElems_pairs] at hels
  rw [hr] at hbytes
  exact ⟨t, ht, hcut, hels, hbytes⟩

/-- Settles O36: past the cut before it the plan of the elements is made, they are performed in order or the first is asked of its home, the
old values are written to the destination's group, and the cut after it is made. -/
theorem vectorAtomicResults : Obligations.VectorAtomicResults := ⟨vector_atomics, pair_atomics⟩

end Sys2Proof.Machine
end

section
/-! Commits and forces that a held Wharf keeps waiting (R221), and the zero points of a pair that lies beyond the registers (R138). The
statements O33, O58 and O34 are refuted here, each at a state that the model runs. -/

namespace Sys2Proof.Machine

/-! ### A commit of bytes of a held Wharf (R83, R221) -/

/-- Hart 0 with an open strip that has buffered a byte of its Wharf, whose hash is about to change: accesses to the Wharf are held. -/
def heldCommit : State :=
  { agents := [(0, { status := .run, strip := { isOpen := true, shut := false, buf := [⟨2 ^ 65, ⟨.wharf 0, 0⟩, 1, none, false, false⟩] } })]
    quays := [(0, { whold := true })] }

/-- VEND waits there until the hash has changed: the hart stays at it, stalled. -/
theorem heldCommit_waits : ∃ t, exec .vend heldCommit = .next t ∧ (t.ag 0).marks.stall = true := ⟨_, rfl, by decide⟩

theorem not_stripEndsAndCuts : ¬ Claim.StripEndsAndCuts := by
  intro h
  obtain ⟨⟨t, ht, -, hret, -⟩, -⟩ := (h heldCommit (by decide) ⟨by decide, .inl (by decide)⟩ (by decide) (by decide) (by decide)).2 (by decide)
  obtain ⟨-, -, -, -, hruns, -⟩ := hret
  obtain ⟨u, hu, hstalls⟩ := heldCommit_waits
  obtain rfl : u = t := Host.Outcome.next.inj (hu.symm.trans ht)
  exact Bool.false_ne_true (hruns.symm.trans hstalls)

/-- Refutes O33: its part on VEND and VCUT does not exclude a buffered byte of a Wharf whose hash is about to change. The commit waits for
such a Wharf (R221), so that VEND neither retires nor ends the strip. -/
theorem not_stripResults : ¬ Obligations.StripResults := fun h => not_stripEndsAndCuts h.2

/-! ### An asynchronous force that reads a held Wharf (R221, R251) -/

/-- An asynchronous force of one element that a TLD reads from the Wharf, which is held. -/
def heldForce : State :=
  { quays := [(0, { whold := true, tile := {
      versions := [(0, { ty := 12, rows := 1, cols := 1, computed := 0, data := []
                         node := some { num := 0, order := 0, op := .tld, pc := 0, mode := .rne, srcs := [], addr := 2 ^ 65 } })]
      asyncs := [⟨8, 0, 0, 1, none, none⟩] } })] }

theorem heldForce_noErrors : heldForce.NoErrors := by
  intro q
  simp only [heldForce, State.qy, Assoc.get]
  split <;> rfl

/-- The force is to be made again: it waits for no host translation. -/
theorem heldForce_waits : ∃ t, exec (.asyncForceDone 0) heldForce = .next t ∧ (t.tile 0).asyncs = [⟨8, 0, 0, 1, none, none⟩] :=
  ⟨_, rfl, by decide +kernel⟩

/-- What stops the force is no fault (cause 0), and its subcode is that of a held Wharf and not that of a host translation. -/
theorem heldForce_stop : ((heldForce.tile 0).force (heldForce.tileRead 0 none) 0 1).2.map (fun e => (e.cause, e.sub)) = some (0, 1) := by
  decide +kernel

/-- Refutes O58: its part on ASYNC_FORCE_DONE lets every force that has to wait wait for a host translation. One that reads a Wharf whose hash
is about to change waits for none (R221) and stands in the list as it was. -/
theorem not_engineResults : ¬ Obligations.EngineResults := by
  intro h
  obtain ⟨-, -, -, hforce, -⟩ := h heldForce 0 0 0 0 0 0 0 0 0
  obtain ⟨t, ht, htile, -⟩ := hforce heldForce_noErrors _ [] rfl rfl
  obtain ⟨u, hu, hsame⟩ := heldForce_waits
  obtain rfl : u = t := Host.Outcome.next.inj (hu.symm.trans ht)
  rw [htile] at hsame
  cases hz : ((heldForce.tile 0).force (heldForce.tileRead 0 none) 0 1).2 with
  | none => exact absurd heldForce_stop (by rw [hz]; decide)
  | some e =>
    have hcause : e.cause = 0 := by
      have hstop := heldForce_stop
      rw [hz] at hstop
      exact congrArg Prod.fst (Option.some.inj hstop)
    simp only [hz, if_pos hcause] at hsame
    cases hsame

/-! ### A padding element and the pair of parameter registers (R138, R177) -/

/-- Whether a computation answers with a value. -/
def answers {ε α : Type} [DecidableEq α] (r : Except ε α) (v : α) : Bool := match r with
  | .ok x => decide (x = v)
  | .error _ => false

theorem eq_ok_of_answers {ε α : Type} [DecidableEq α] {r : Except ε α} {v : α} (h : answers r v = true) : r = .ok v := by
  cases r with
  | ok x => rw [of_decide_eq_true h]
  | error e => cases h

/-- Hart 0 with an open strip of one q8 element, a padding one, every address register at its Wharf, and a pair of parameter registers from
v63 on that is in force; v16 begins with a 1. -/
def highPair : State :=
  { agents := [(0, {
      status := .run, regs := { a := Vector.replicate 16 (2 ^ 65) }
      strip := { isOpen := true, shut := false, vtype := 0x4F, vl := 1, pad := 1, live := 1 }
      fp := { qparm := 0x7F }
      vec := { phys := (Vector.replicate 96 0).set 16 1 } })] }

/-- What VST stores there: the element's byte is v16's, the register that the number 64 comes to among 48. -/
def highUnit : StoreUnit := ⟨⟨0, 2 ^ 65⟩, [1], some 0, false⟩
def highHit : Hit := ⟨⟨.wharf 0, 0⟩, 0, none⟩

theorem highPair_calm : highPair.VecCalm (.vst 0 0 0 none false) := by
  unfold State.VecCalm State.Ready
  decide

theorem highPair_ready : highPair.VecStoreReady (vstUnits tyAny (.unit 0) 0 0 none) 1 1 [highUnit] [highHit] :=
  ⟨eq_ok_of_answers (by decide +kernel), eq_ok_of_answers (by decide +kernel), by decide, by decide +kernel, by decide +kernel⟩

/-- Refutes O34: it does not ask that the second register of the parameter pair be one of the 48. For qparm.PREG = 63 with PEN set, which no
write of qparm leaves (R134), the model reads the zero point in v16, and the statement where no register lies. -/
theorem not_vectorStoreResults : ¬ Obligations.VectorStoreResults := by
  intro h
  obtain ⟨hvst, -⟩ := h highPair 0 0 0 0 none false false [highUnit] [highHit]
  obtain ⟨-, hbytes⟩ := hvst highPair_calm ⟨rfl, by decide⟩ highPair_ready
  exact absurd hbytes (by decide +kernel)

end Sys2Proof.Machine
end

section
/-! The events of an agent's memory, of barriers, of futures and of trap records (R178, R205, R238, R318, R328, R330, R343). The statement O59
is settled here. -/

namespace Sys2Proof.Machine

/-! ### Messages put into ports (R379, R380) -/

/-- Between two states only the ports of the Jetty differ. -/
def State.OnlyPorts (s t : State) : Prop := t = { s with link := { s.link with jetty := t.link.jetty } }

theorem State.OnlyPorts.refl (s : State) : s.OnlyPorts s := rfl
theorem State.OnlyPorts.trans {s t u : State} (h : s.OnlyPorts t) (h' : t.OnlyPorts u) : s.OnlyPorts u := by
  unfold State.OnlyPorts at *
  rw [h', h]

theorem State.OnlyPorts.ag {s t : State} (h : s.OnlyPorts t) (j : Nat) : t.ag j = s.ag j := by rw [h]; rfl
theorem State.OnlyPorts.byte {s t : State} (h : s.OnlyPorts t) (r : Place) : t.byte r = s.byte r := by rw [h]; rfl
theorem State.OnlyPorts.agents {s t : State} (h : s.OnlyPorts t) : t.agents = s.agents := by rw [h]
theorem State.OnlyPorts.work {s t : State} (h : s.OnlyPorts t) : t.work = s.work := by rw [h]

theorem sendTo_onlyPorts (s : State) (m : Nat) (x : LinkMsg) : s.OnlyPorts (s.sendTo m x) := rfl

section
variable {α : Type} (m : α → Nat) (x : α → LinkMsg)

theorem foldl_sendTo_onlyPorts (l : List α) : ∀ s : State, s.OnlyPorts (l.foldl (fun s a => s.sendTo (m a) (x a)) s) := by
  induction l with
  | nil => exact .refl
  | cons a l ih => exact fun s => (sendTo_onlyPorts s (m a) (x a)).trans (ih _)

/-- A port that is given another message keeps what waits in it and what it has put on the line. -/
theorem send_subset (j : Jetty) (dst src : Nat) (y : LinkMsg) : j.queue ⊆ (j.send dst src y).queue ∧ j.buffer ⊆ (j.send dst src y).buffer := by
  unfold Jetty.send
  split
  · exact ⟨List.subset_append_left _ _, List.Subset.refl _⟩
  · exact ⟨List.Subset.refl _, List.subset_append_left _ _⟩

theorem sendTo_keeps_sent {s : State} {n : Nat} {y : LinkMsg} (h : s.Sent n y) (n' : Nat) (y' : LinkMsg) : (s.sendTo n' y').Sent n y := by
  unfold State.Sent at *
  dsimp only at *
  have hport : Assoc.get {} (Config.jettyPort n % 64) (s.sendTo n' y').link.jetty
      = if Config.jettyPort n % 64 = Config.jettyPort n' % 64 then (Assoc.get {} (Config.jettyPort n % 64) s.link.jetty).send n' s.modid y'
        else Assoc.get {} (Config.jettyPort n % 64) s.link.jetty := by
    split
    · next e => rw [e]; exact Assoc.get_set_self _ _ _ _
    · next e => exact Assoc.get_set_ne _ _ _ e
  rw [hport]
  split
  · obtain ⟨hq, hb⟩ := send_subset (Assoc.get {} (Config.jettyPort n % 64) s.link.jetty) n' s.modid y'
    exact h.imp (fun h => hq h) (fun ⟨k, ack, h⟩ => ⟨k, ack, hb h⟩)
  · exact h

theorem foldl_sendTo_keeps_sent {n : Nat} {y : LinkMsg} (l : List α) :
    ∀ s : State, s.Sent n y → (l.foldl (fun s a => s.sendTo (m a) (x a)) s).Sent n y := by
  induction l with
  | nil => exact fun _ h => h
  | cons a l ih => exact fun s h => ih _ (sendTo_keeps_sent h _ _)

theorem foldl_sendTo_sent {a : α} (l : List α) : ∀ s : State, a ∈ l → (l.foldl (fun s a => s.sendTo (m a) (x a)) s).Sent (m a) (x a) := by
  induction l with
  | nil => exact fun _ h => absurd h List.not_mem_nil
  | cons b l ih =>
    intro s h
    rcases List.mem_cons.1 h with rfl | h
    · exact foldl_sendTo_keeps_sent m x l _ (sendTo_sent _ _ _)
    · exact ih _ h

end

theorem tellHomes_onlyPorts (s : State) (kind slot quay : Nat) (bs : List (Place × Byte)) : s.OnlyPorts (s.tellHomes kind slot quay bs) :=
  foldl_sendTo_onlyPorts (fun r : Nat × List Byte => r.1 / 2 ^ 44) (fun r => .store kind slot quay r.1 r.2) _ s

/-! ### A committed store performed (R178, R198, R205) -/

theorem wipe_beside (s : State) (p : Place) : s.Beside (s.wipe p) :=
  (clearPoison_beside s p).trans (foldl_beside _ (fun u _ => clearUe_beside u _) _ _)

/-- A write of bytes changes no agent, and each place holds the last byte written there. -/
theorem writeBytes_view {s : State} (h : s.MemoryOk) (bs : List (Place × Byte)) :
    (∀ j, (s.writeBytes bs).ag j = s.ag j) ∧ ∀ r, (s.writeBytes bs).byte r = (lastByte r bs).getD (s.byte r) := by
  have hw := writeBytes_beside s bs
  exact ⟨fun j => (hw.ag j).trans ((setBytes_around bs s).2 j), fun r => (hw.byte r).trans (setBytes_byte bs r h)⟩

/-- A piece performed up to its bytes in host memory. -/
def State.performHere (s : State) (g : Nat) (p : Piece) (left : List Piece) : State :=
  let s := (s.writeBytes (p.bytes.filter (fun x => x.1.space ≠ .host))).tellHomes (writerOf g).1 (writerOf g).2 (quayOf g) p.bytes
  match p.bytes with
  | x :: _ => if p.completes left then s.wipe x.1 else s
  | [] => s

/-- The bytes of a piece that go to host memory. -/
def Piece.host (p : Piece) : List (Nat × Byte) := (p.bytes.filter (fun x => x.1.space = .host)).map (fun x => (x.1.addr, x.2))

theorem performPiece_eq (s : State) (g : Nat) (p : Piece) (left : List Piece) : s.performPiece g p left
    = ((p.host.map (fun x => x.1 / 64)).dedup).foldl (fun s ln => s.enterWc g p.op p.nt ln (p.host.filter (fun x => x.1 / 64 = ln)))
        (s.performHere g p left) := rfl

theorem performHere_view {s : State} (h : s.MemoryOk) (g : Nat) (p : Piece) (left : List Piece) :
    (∀ j, (s.performHere g p left).ag j = s.ag j)
    ∧ ∀ r, (s.performHere g p left).byte r = (lastByte r (p.bytes.filter (fun x => x.1.space ≠ .host))).getD (s.byte r) := by
  obtain ⟨hag, hbyte⟩ := writeBytes_view h (p.bytes.filter (fun x => x.1.space ≠ .host))
  have hport := tellHomes_onlyPorts (s.writeBytes (p.bytes.filter (fun x => x.1.space ≠ .host))) (writerOf g).1 (writerOf g).2 (quayOf g) p.bytes
  have hwipe : (((s.writeBytes (p.bytes.filter (fun x => x.1.space ≠ .host))).tellHomes (writerOf g).1 (writerOf g).2 (quayOf g) p.bytes)).Beside
      (s.performHere g p left) := by
    unfold State.performHere
    dsimp only
    split
    · exact ite_beside (wipe_beside _ _) (.refl _)
    · exact .refl _
  exact ⟨fun j => (hwipe.ag j).trans ((hport.ag j).trans (hag j)), fun r => (hwipe.byte r).trans ((hport.byte r).trans (hbyte r))⟩

/-- A piece without a byte in host memory. -/
theorem performPiece_memory {s : State} (h : s.MemoryOk) (g : Nat) {p : Piece} (left : List Piece) (hp : ∀ y ∈ p.bytes, y.1.space ≠ .host) :
    (∀ j, (s.performPiece g p left).ag j = s.ag j) ∧ ∀ r, (s.performPiece g p left).byte r = (lastByte r p.bytes).getD (s.byte r) := by
  have hhost : p.host = [] := by
    rw [Piece.host, List.filter_eq_nil_iff.2 (fun y hy => by simpa using hp y hy)]
    rfl
  have hall : p.bytes.filter (fun x => x.1.space ≠ .host) = p.bytes := List.filter_eq_self.2 (fun y hy => by simpa using hp y hy)
  have hview := performHere_view h g p left
  rw [hall] at hview
  rw [performPiece_eq, hhost]
  exact hview

/-- The line that a piece begins in an empty write-combining buffer. -/
def Piece.line (p : Piece) (ln : Nat) (bs : List (Nat × Byte)) : WcLine := ⟨p.op, ln, p.nt, bs.foldl (fun m b => Assoc.set b.1 b.2 m) []⟩

/-- An agent whose write-combining buffer holds one line. -/
def Agent.combining (l : WcLine) (a : Agent) : Agent := { a with mem := { a.mem with wc := [l] } }

theorem enterWc_first {s : State} {g : Nat} (p : Piece) (ln : Nat) {bs : List (Nat × Byte)} (hwc : (s.ag g).mem.wc = [])
    (hlen : (p.line ln bs).bytes.length ≠ 64) : s.enterWc g p.op p.nt ln bs = s.modAg g (Agent.combining (p.line ln bs)) := by
  have hne : ¬ (bs.foldl (fun m b => Assoc.set b.1 b.2 m) ([] : Assoc Byte)).length = 64 := hlen
  simp only [State.enterWc, hwc, List.find?_nil, Option.getD_none]
  rw [if_neg hne]
  simp only [State.modAg, hwc, List.any_nil, Bool.false_eq_true, if_false]
  rfl

/-- A piece whose bytes lie in one host line. -/
theorem performPiece_host {s : State} (h : s.MemoryOk) {g ln : Nat} {p : Piece} (left : List Piece) (hne : p.bytes ≠ [])
    (hp : ∀ y ∈ p.bytes, y.1.space = .host ∧ y.1.addr / 64 = ln) (hwc : (s.ag g).mem.wc = [])
    (hlen : (p.line ln (p.bytes.map (fun y => (y.1.addr, y.2)))).bytes.length ≠ 64) :
    s.performPiece g p left = (s.performHere g p left).modAg g (Agent.combining (p.line ln (p.bytes.map (fun y => (y.1.addr, y.2))))) := by
  have hhost : p.host = p.bytes.map (fun y => (y.1.addr, y.2)) := by
    rw [Piece.host, List.filter_eq_self.2 (fun y hy => by simpa using (hp y hy).1)]
  have hin : ∀ x ∈ p.host, x.1 / 64 = ln := by
    rw [hhost]
    intro x hx
    obtain ⟨y, hy, rfl⟩ := List.mem_map.1 hx
    exact (hp y hy).2
  have hlines : (p.host.map (fun x => x.1 / 64)).dedup = [ln] := by
    rw [List.eq_replicate_of_mem (a := ln) (l := p.host.map (fun x => x.1 / 64)) (fun n hn => by
      obtain ⟨x, hx, rfl⟩ := List.mem_map.1 hn
      exact hin x hx)]
    exact List.replicate_dedup (by simpa [hhost] using hne)
  have hfilter : p.host.filter (fun x => x.1 / 64 = ln) = p.host := List.filter_eq_self.2 (fun x hx => by simpa using hin x hx)
  rw [performPiece_eq, hlines, List.foldl_cons, List.foldl_nil, hfilter, hhost]
  exact enterWc_first p ln (by rw [(performHere_view h g p left).1]; exact hwc) hlen

/-- The queue of an agent without one of its pieces. -/
def Agent.unqueue (i : Nat) (a : Agent) : Agent := { a with mem := { a.mem with queue := a.mem.queue.eraseIdx i } }

theorem exec_storePerformed {s : State} {g i : Nat} {p : Piece} (hi : (s.ag g).mem.queue[i]? = some p) (hm : mayPerform (s.ag g).mem.queue i = true) :
    exec (.storePerformed g i) s = .next ((s.modAg g (Agent.unqueue i)).performPiece g p ((s.ag g).mem.queue.eraseIdx i)) := by
  show execStorePerformed g i s = _
  simp only [execStorePerformed, hi, hm, if_true]
  rfl

/-- A committed store to the fabric or to a Wharf. -/
theorem storePerformed_memory {s : State} {g i : Nat} {p : Piece} (h : s.MemoryOk) (hi : (s.ag g).mem.queue[i]? = some p)
    (hm : mayPerform (s.ag g).mem.queue i = true) (hp : ∀ y ∈ p.bytes, y.1.Plain) :
    ∃ t, exec (.storePerformed g i) s = .next t ∧ t.ag g = (s.ag g).unqueue i ∧ (∀ j, j ≠ g → t.ag j = s.ag j)
      ∧ ∀ r, t.byte r = (lastByte r p.bytes).getD (s.byte r) := by
  obtain ⟨hag, hbyte⟩ := performPiece_memory (s := s.modAg g (Agent.unqueue i)) h g ((s.ag g).mem.queue.eraseIdx i) (fun y hy => (hp y hy).1)
  exact ⟨_, exec_storePerformed hi hm, by rw [hag, modAg_ag_self], fun j hj => by rw [hag, modAg_ag_ne _ _ _ hj], hbyte⟩

/-- A committed store to a host line, the first in the write-combining buffer. -/
theorem storePerformed_host {s : State} {g i ln : Nat} {p : Piece} (h : s.MemoryOk) (hi : (s.ag g).mem.queue[i]? = some p)
    (hm : mayPerform (s.ag g).mem.queue i = true) (hne : p.bytes ≠ []) (hp : ∀ y ∈ p.bytes, y.1.space = .host ∧ y.1.addr / 64 = ln)
    (hwc : (s.ag g).mem.wc = []) (hlen : (p.line ln (p.bytes.map (fun y => (y.1.addr, y.2)))).bytes.length ≠ 64) :
    ∃ t, exec (.storePerformed g i) s = .next t ∧ (t.ag g).mem.queue = (s.ag g).mem.queue.eraseIdx i
      ∧ (t.ag g).mem.wc = [p.line ln (p.bytes.map (fun y => (y.1.addr, y.2)))]
      ∧ (t.ag g).regs = (s.ag g).regs ∧ (∀ j, j ≠ g → t.ag j = s.ag j) ∧ ∀ r, t.byte r = s.byte r := by
  obtain ⟨hag, hbyte⟩ := performHere_view (s := s.modAg g (Agent.unqueue i)) h g p ((s.ag g).mem.queue.eraseIdx i)
  have hnone : p.bytes.filter (fun x => x.1.space ≠ .host) = [] := List.filter_eq_nil_iff.2 (fun y hy => by simpa using (hp y hy).1)
  have hpiece := performPiece_host (s := s.modAg g (Agent.unqueue i)) h ((s.ag g).mem.queue.eraseIdx i) hne hp (by rw [modAg_ag_self]; exact hwc) hlen
  rw [hnone] at hbyte
  refine ⟨_, (exec_storePerformed hi hm).trans (congrArg _ hpiece), ?_, ?_, ?_, fun j hj => ?_, hbyte⟩
  · rw [modAg_ag_self, hag, modAg_ag_self]
    rfl
  · rw [modAg_ag_self]
    rfl
  · rw [modAg_ag_self, hag, modAg_ag_self]
    rfl
  · rw [modAg_ag_ne _ _ _ hj, hag, modAg_ag_ne _ _ _ hj]

/-! ### The write-combining buffer and loads (R178, R238) -/

theorem loadReturned_counts (s : State) (g : Nat) : ∃ t, exec (.loadReturned g) s = .next t
    ∧ t.ag g = { s.ag g with mem := { (s.ag g).mem with loadsOut := (s.ag g).mem.loadsOut - 1 } } ∧ (∀ i, i ≠ g → t.ag i = s.ag i)
    ∧ ∀ r : Place, t.byte r = s.byte r :=
  ⟨_, rfl, modAg_ag_self _ _ _, fun _ hi => modAg_ag_ne _ _ _ hi, fun _ => rfl⟩

theorem exec_wcDrainTimeout {s : State} {g : Nat} {l : WcLine} (hl : (s.ag g).mem.wc.getLast? = some l) :
    exec (.wcDrainTimeout g) s = .next (s.drainLine g l) := by
  show execWcDrainTimeout g s = _
  simp only [execWcDrainTimeout, hl]

/-- Marks a port as having carried a relaxed write, for a line of non-temporal stores. -/
def State.relaxFor (s : State) (g : Nat) (nt : Bool) : State :=
  if nt then s.modLink (fun k => { k with relaxed := k.relaxed ||| BitVec.ofNat 2 (2 ^ s.portOfAgent g) }) else s

theorem drainLine_eq (s : State) (g : Nat) (l : WcLine) : s.drainLine g l
    = ((s.setBytes (l.bytes.map (fun b => (⟨.host, b.1⟩, b.2)))).relaxFor g l.nt).modAg g
        (fun a => { a with mem := { a.mem with wc := a.mem.wc.filter (fun x => x.line ≠ l.line) } }) := rfl

theorem relaxFor_view (s : State) (g : Nat) (nt : Bool) : (∀ j, (s.relaxFor g nt).ag j = s.ag j) ∧ (∀ r, (s.relaxFor g nt).byte r = s.byte r)
    ∧ (s.relaxFor g nt).link.relaxed = if nt = true then s.link.relaxed ||| BitVec.ofNat 2 (2 ^ s.portOfAgent g) else s.link.relaxed := by
  cases nt
  · exact ⟨fun _ => rfl, fun _ => rfl, rfl⟩
  · exact ⟨fun _ => rfl, fun _ => rfl, rfl⟩

theorem setBytes_relaxed (bs : List (Place × Byte)) : ∀ s : State, (s.setBytes bs).link.relaxed = s.link.relaxed := by
  induction bs with
  | nil => exact fun _ => rfl
  | cons x t ih =>
    intro s
    refine (ih (s.setByte x.1 x.2)).trans ?_
    unfold State.setByte
    split <;> rfl

theorem drainLine_view {s : State} (h : s.MemoryOk) (g : Nat) (l : WcLine) :
    (s.drainLine g l).ag g = { s.ag g with mem := { (s.ag g).mem with wc := (s.ag g).mem.wc.filter (fun y => !decide (y.line = l.line)) } }
    ∧ (∀ j, j ≠ g → (s.drainLine g l).ag j = s.ag j)
    ∧ (s.drainLine g l).link.relaxed = (if l.nt = true then s.link.relaxed ||| BitVec.ofNat 2 (2 ^ s.portOfAgent g) else s.link.relaxed)
    ∧ ∀ r, (s.drainLine g l).byte r = (lastByte r (l.bytes.map (fun b => (⟨.host, b.1⟩, b.2)))).getD (s.byte r) := by
  obtain ⟨har, hag⟩ := setBytes_around (l.bytes.map (fun b => ((⟨.host, b.1⟩ : Place), b.2))) s
  obtain ⟨hrag, hrbyte, hrel⟩ := relaxFor_view (s.setBytes (l.bytes.map (fun b => (⟨.host, b.1⟩, b.2)))) g l.nt
  have hport : (s.setBytes (l.bytes.map (fun b => (⟨.host, b.1⟩, b.2)))).portOfAgent g = s.portOfAgent g := by
    simp only [State.portOfAgent, State.ctx, hag, har.fw]
  rw [setBytes_relaxed, hport] at hrel
  rw [drainLine_eq]
  refine ⟨?_, fun j hj => ?_, hrel, fun r => ?_⟩
  · rw [modAg_ag_self, hrag, hag]
    simp only [ne_eq, decide_not]
  · rw [modAg_ag_ne _ _ _ hj, hrag, hag]
  · rw [modAg_byte, hrbyte, setBytes_byte _ _ h]

/-! ### Barriers (R328, R330, R378) -/

theorem group_complete_iff (y : Group) :
    y.complete = true ↔ (∀ a ∈ y.arrivals, y.phase < a.2 ∨ a.1 ∈ y.gone) ∧ y.remote ≤ y.away + y.lost ∧ y.fresh = false := by
  simp only [Group.complete, Bool.and_eq_true, List.all_eq_true, Bool.or_eq_true, decide_eq_true_eq, List.contains_iff_mem, Bool.not_eq_true',
    and_assoc]

theorem modGroup_get (s : State) (k : Nat) (f : Group → Group) (j : Nat) :
    (s.modGroup k f).work.groups[j]? = if k = j then s.work.groups[j]?.map f else s.work.groups[j]? := by
  show (s.work.groups.modify k f)[j]? = _
  rw [List.getElem?_modify]
  split
  · rfl
  · exact Option.map_id_apply

theorem modGroup_get_self {s : State} {k : Nat} {y : Group} (f : Group → Group) (h : s.work.groups[k]? = some y) :
    (s.modGroup k f).work.groups[k]? = some (f y) := by
  rw [modGroup_get, if_pos rfl, h]
  rfl

/-- The modules that hear of a completed phase. -/
def State.phasePeers (s : State) (y : Group) : List Nat := if y.remote = 0 then [] else (s.part (s.launch y.launch).part).peers.map (fun m => m.1)

/-- What they hear. -/
def State.phaseMsg (s : State) (y : Group) : LinkMsg := .phase (s.launchName y.launch).1 (s.launchName y.launch).2 y.level y.key (y.phase + 1)

theorem exec_barrierPhaseComplete {s : State} {k : Nat} {y : Group} (hy : s.work.groups[k]? = some y) (hdie : y.die < 8) (hc : y.complete = true) :
    exec (.barrierPhaseComplete k) s = .next ((s.phasePeers y).foldl (fun u m => u.sendTo m (s.phaseMsg y)) (s.modGroup k Group.next)) := by
  show execBarrierPhaseComplete k s = _
  simp only [execBarrierPhaseComplete, hy, hdie, hc, and_self, if_true]
  rfl

/-- A phase that every participant has arrived at completes. -/
theorem barrierPhaseComplete_goes {s : State} {k : Nat} {y : Group} (hy : s.work.groups[k]? = some y) (hdie : y.die < 8) (hc : y.complete = true) :
    ∃ t, exec (.barrierPhaseComplete k) s = .next t ∧ t.work.groups[k]? = some y.next ∧ (∀ j, j ≠ k → t.work.groups[j]? = s.work.groups[j]?)
      ∧ t.agents = s.agents ∧ (y.remote ≠ 0 → ∀ m ∈ (s.part (s.launch y.launch).part).peers,
        t.Sent m.1 (s.phaseMsg y)) := by
  have hports := foldl_sendTo_onlyPorts (fun m : Nat => m) (fun _ => s.phaseMsg y) (s.phasePeers y) (s.modGroup k Group.next)
  refine ⟨_, exec_barrierPhaseComplete hy hdie hc, ?_, fun j hj => ?_, hports.agents, fun hr m hm => ?_⟩
  · rw [hports.work]
    exact modGroup_get_self _ hy
  · rw [hports.work, modGroup_get, if_neg (Ne.symm hj)]
  · refine foldl_sendTo_sent (fun m : Nat => m) (fun _ => s.phaseMsg y) _ _ ?_
    rw [State.phasePeers, if_neg hr]
    exact List.mem_map_of_mem hm

/-- The record of a phase that has stayed incomplete for its timeout. -/
def State.timeoutRecord (s : State) (y : Group) : TrapRecord :=
  { s.hmRecord (s.hmActor (s.launch y.launch).part none) (Cause.waitOverflow, 2) fInfo 0 with detail := y.level + y.phase % 2 ^ 32 * 2 ^ 32 }

theorem exec_barrierTimeout {s : State} {k : Nat} {y : Group} (hy : s.work.groups[k]? = some y) (hdie : y.die < 8) (hp : y.posted = false)
    (ht : y.timeout ≠ 0) (hf : y.fresh = false) (hc : y.complete = false) (hs : y.stopped = 0)
    (hh : ∀ a ∈ y.arrivals, s.taskHalted a.1 = false) :
    exec (.barrierTimeout k) s
      = .next ((s.report (s.launch y.launch).part (s.timeoutRecord y)).modGroup k (fun y => { y with posted := true })) := by
  have hany : ¬ y.arrivals.any (fun a => s.taskHalted a.1) = true := by
    rw [List.any_eq_true]
    rintro ⟨a, ha, hhalt⟩
    exact Bool.false_ne_true ((hh a ha).symm.trans hhalt)
  have hno : ¬ (8 ≤ y.die ∨ y.complete = true ∨ y.posted = true ∨ y.timeout = 0 ∨ y.fresh = true ∨ 0 < y.stopped
      ∨ y.arrivals.any (fun a => s.taskHalted a.1) = true) := by
    simp only [hp, hf, hc, hs, ht, hany, not_le.2 hdie, Bool.false_eq_true, lt_irrefl, or_self, not_false_eq_true]
  show execBarrierTimeout k s = _
  simp only [execBarrierTimeout, hy]
  rw [if_neg hno]
  rfl

/-! ### The wake-up of a future (R318) -/

theorem get_erase_append_ne {β : Type} (d v : β) {j k : Nat} (h : j ≠ k) (m : Assoc β) :
    Assoc.get d j (Assoc.erase k m ++ [(k, v)]) = Assoc.get d j m := by
  induction m with
  | nil => simp [Assoc.erase, Assoc.get, Ne.symm h]
  | cons q t ih =>
    by_cases hq : q.1 = k
    · rw [Assoc.get, if_neg (fun e => h (e.symm.trans hq)), ← ih]
      simp [Assoc.erase, hq]
    · by_cases hj : q.1 = j
      · simp [Assoc.erase, Assoc.get, hj, h]
      · rw [Assoc.get, if_neg hj, ← ih]
        simp [Assoc.erase, Assoc.get, hq, hj]

theorem toTail_task_self (s : State) (k : Nat) (t : Task) : (s.toTail k t).task k = { t with since := s.work.nextReady } := get_erase_append _ _ _ _
theorem toTail_task_ne (s : State) {j k : Nat} (h : j ≠ k) (t : Task) : (s.toTail k t).task j = s.task j := get_erase_append_ne _ _ h _

/-- What the FWAIT or FGET of a task that waits comes to (R318). -/
def Task.answer (t : Task) (w : Wake) : Word := if t.get && decide (w.st ≠ 3) then w.value else BitVec.ofNat 64 w.st

/-- The saved agent of a task with the destination of its FWAIT or FGET written, in the registers and in the cut after it. -/
def Task.answered (t : Task) (w : Wake) (a : Agent) : Agent :=
  if h : 0 < t.dest ∧ t.dest < 32 then
    let b := a.ws ⟨t.dest, h.2⟩ (t.answer w)
    if b.strip.isOpen then { b with strip := { b.strip with ckpt := { b.strip.ckpt with s := b.strip.ckpt.s.set t.dest (t.answer w) h.2 } } } else b
  else a

theorem wake_parked {s : State} {k : Nat} {w : Wake} (h : (s.task k).state = .parked w.addr) : s.wake k w
    = s.toTail k { s.task k with
        state := .ready, saved := (s.task k).saved.map ((s.task k).answered w), fut := 0, effPrio := (s.task k).prio } := by
  unfold State.wake
  rw [if_neg (not_not_intro h)]
  rfl

theorem answered_keeps (t : Task) (w : Wake) (a : Agent) :
    (t.answered w a).regs.pc = a.regs.pc ∧ (t.answered w a).regs.a = a.regs.a ∧ (t.answered w a).vec = a.vec := by
  unfold Task.answered Agent.ws
  dsimp only
  split_ifs <;> exact ⟨rfl, rfl, rfl⟩

theorem answered_rs (t : Task) (w : Wake) (a : Agent) (j : Fin 32) :
    (t.answered w a).rs j = if j.val = t.dest ∧ j ≠ 0 then t.answer w else a.rs j := by
  unfold Task.answered
  split
  · next h =>
    have hws : ((a.ws ⟨t.dest, h.2⟩ (t.answer w)).rs j) = if j.val = t.dest ∧ j ≠ 0 then t.answer w else a.rs j := by
      rw [ws_rs]
      refine if_congr ?_ rfl rfl
      simp only [Fin.ext_iff, ne_eq, Fin.val_zero]
      omega
    dsimp only
    split
    · exact hws
    · exact hws
  · next h =>
    rw [if_neg]
    rintro ⟨hj, hz⟩
    have := j.isLt
    have : j.val ≠ 0 := fun e => hz (Fin.ext e)
    omega

/-- A future's entry leaves the wait table of its die, and its wake-up the list of those on their way. -/
def Die.woken (pa : Nat) (w : Wake) (x : Die) : Die := { x with wakes := x.wakes.erase w, waits := x.waits.filter (fun w => w.1 ≠ pa) }

/-- The mooring records that name a future are freed. -/
def State.unmoor (s : State) (pa : Nat) : State :=
  { s with fw := { s.fw with parts := s.fw.parts.map (fun p => (p.1, { p.2 with moored := p.2.moored.filter (fun w => w.1 ≠ pa) })) } }

/-- The wake-up of a future on which one task of this module waits. -/
theorem exec_futureWakeup {s : State} {pa k : Nat} {w : Wake} (hw : (s.die (s.homeKey pa)).wakes.find? (fun v => v.addr = pa) = some w)
    (hwaits : (s.die (s.homeKey pa)).waits = [(pa, k)]) (hk : k < 2 ^ 32) (hmoored : ∀ p ∈ s.fw.parts, p.2.moored = [])
    (hpark : (s.task k).state = .parked pa) :
    exec (.futureWakeup pa) s = .next (((s.modDie (s.homeKey pa) (Die.woken pa w)).unmoor pa).wake k w) := by
  have hmoor : s.fw.parts.flatMap (fun p => (p.2.moored.filter (fun w => w.1 = pa)).map (·.2)) = [] :=
    List.flatMap_eq_nil_iff.2 (fun p hp => by rw [hmoored p hp]; rfl)
  have hhere : k < awayTask 0 0 := hk
  have hruns : s.parksYet k = false := by
    unfold State.parksYet
    rw [hpark]
  have hnames : ([(pa, k)].filter (fun w => w.1 = pa)).map (·.2) ++ [] = [k] := by simp
  have hours : [k].filter (· < awayTask 0 0) = [k] := by simp [hhere]
  have hothers : [k].filter (awayTask 0 0 ≤ ·) = [] := by simp [hhere]
  show execFutureWakeup pa s = _
  simp only [execFutureWakeup, hw, hwaits, hmoor, hnames, hours, hothers, List.any_cons, List.any_nil, hruns, Bool.or_self, Bool.false_eq_true,
    if_false]
  rfl

/-- The task that waits is ready, with the answer in its destination. -/
theorem futureWakeup_goes {s : State} {pa k : Nat} {w : Wake} (hw : (s.die (s.homeKey pa)).wakes.find? (fun v => v.addr = pa) = some w)
    (hwaits : (s.die (s.homeKey pa)).waits = [(pa, k)]) (hk : k < 2 ^ 32) (hmoored : ∀ p ∈ s.fw.parts, p.2.moored = [])
    (hpark : (s.task k).state = .parked pa) :
    ∃ t, exec (.futureWakeup pa) s = .next t ∧ (t.task k).state = .ready ∧ (t.task k).effPrio = (s.task k).prio
      ∧ (t.die (s.homeKey pa)).wakes = (s.die (s.homeKey pa)).wakes.erase w ∧ (t.die (s.homeKey pa)).waits = []
      ∧ (∀ j, j ≠ k → t.task j = s.task j) ∧ t.agents = s.agents ∧ (t.task k).saved = (s.task k).saved.map ((s.task k).answered w) := by
  have haddr : w.addr = pa := by simpa using List.find?_some hw
  have hdie : (s.modDie (s.homeKey pa) (Die.woken pa w)).die (s.homeKey pa) = (s.die (s.homeKey pa)).woken pa w := modDie_die_self _ _ _
  refine ⟨_, (exec_futureWakeup hw hwaits hk hmoored hpark).trans (congrArg _ (wake_parked (hpark.trans (congrArg _ haddr.symm)))), ?_⟩
  rw [toTail_task_self]
  refine ⟨rfl, rfl, congrArg Die.wakes hdie, (congrArg Die.waits hdie).trans ?_, fun j hj => toTail_task_ne _ hj _, rfl, rfl⟩
  simp [Die.woken, hwaits]

/-! ### Records that wait (R340, R343) -/

/-- The first fatal record is posted next when no record of its source stands before it. -/
theorem nextHeld_fatal {P : Part} {z zs : List TrapRecord} {a : TrapRecord} (hheld : P.held = z ++ a :: zs)
    (hz : ∀ y ∈ z, y.flags.testBit 2 = false ∧ y.sameSource a = false) (ha : a.flags.testBit 2 = true) (hfree : 1 ≤ P.slotsFree) :
    P.nextHeld = some z.length := by
  have hbefore : ((z ++ a :: zs).take z.length).any (fun q => q.sameSource a) = false := by
    rw [List.take_left, List.any_eq_false]
    exact fun y hy => by simp [(hz y hy).2]
  have hfirst : P.held.zipIdx.find? (fun r => r.1.flags.testBit 2 && !((P.held.take r.2).any (fun q => q.sameSource r.1))) = some (a, z.length) := by
    rw [hheld, List.zipIdx_append, List.find?_append, List.zipIdx_cons, Nat.zero_add, List.find?_cons_of_pos (by simp only [ha, hbefore]; rfl),
      List.find?_eq_none.2 (fun r hr => by simp [(hz r.1 (List.fst_mem_of_mem_zipIdx hr)).1])]
    rfl
  simp only [Part.nextHeld, hfirst, hfree, if_true]

/-- Without a fatal record the first one is posted next. -/
theorem nextHeld_first {P : Part} (hne : P.held ≠ []) (hz : ∀ y ∈ P.held, y.flags.testBit 2 = false) (hfree : 3 ≤ P.slotsFree) :
    P.nextHeld = some 0 := by
  have hnone : P.held.zipIdx.find? (fun r => r.1.flags.testBit 2 && !((P.held.take r.2).any (fun q => q.sameSource r.1))) = none :=
    List.find?_eq_none.2 (fun r hr => by simp [hz r.1 (List.fst_mem_of_mem_zipIdx hr)])
  simp only [Part.nextHeld, hnone]
  exact if_pos ⟨hne, hfree⟩

theorem nextHeld_nil {P : Part} (h : P.held = []) : P.nextHeld = none := by
  simp [Part.nextHeld, h]

theorem stamp_of_ne {s : State} {r : TrapRecord} (h : r.cause ≠ 0x32) : s.stamp r = r := if_neg h
theorem stamp_of_watchEngine {s : State} {r : TrapRecord} (h : r.cause = 0x32) :
    s.stamp r = { r with detail := r.detail % 2 ^ 64 + (s.die (r.quay - 0x8000)).cycle.toNat * 2 ^ 64 } := if_pos h

/-- A record that is held is posted and no longer held. -/
theorem trapRecordPost_held {s : State} {n : Nat} {z zs : List TrapRecord} {a : TrapRecord} (hheld : (s.part n).held = z ++ a :: zs)
    (hnext : (s.part n).nextHeld = some z.length) :
    ∃ t, exec (.trapRecordPost n) s = .next t ∧ t.part n = { s.part n with held := z ++ zs }.post (s.stamp a) ∧ t.agents = s.agents := by
  have hx : exec (.trapRecordPost n) s = .next (s.modPart n (fun y =>
      { y with held := y.held.eraseIdx z.length }.post (s.stamp (y.held.getD z.length (s.hmRecord (s.hmActor n none) (0, 0) 0 0))))) := by
    show execTrapRecordPost n s = _
    simp only [execTrapRecordPost, hnext]
  refine ⟨_, hx, ?_, rfl⟩
  rw [modPart_part_self, hheld, List.eraseIdx_append_of_length_le le_rfl, List.getD_append_right _ _ _ _ le_rfl, Nat.sub_self]
  rfl

/-- The record of an agent of a partition that waits for room. -/
def waitingRecord (n : Nat) (e : Nat × Agent) : Option (Nat × TrapRecord) := match e.2.status with
  | .unposted r => if e.2.part = n then some (e.1, r) else none
  | _ => none

theorem waitingRecord_of_unposted {n g : Nat} {a : Agent} {z : TrapRecord} (hp : a.part = n) (h : a.status = .unposted z) :
    waitingRecord n (g, a) = some (g, z) := by
  simp only [waitingRecord, h, hp, if_true]

theorem waitingRecord_eq_none {n : Nat} {e : Nat × Agent} (h : ∀ y, e.2.status ≠ .unposted y) : waitingRecord n e = none := by
  unfold waitingRecord
  split
  · next r hr => exact absurd hr (h r)
  · rfl

/-- The record found is that of the one agent which waits for room. -/
theorem findSome_waitingRecord {n g : Nat} {z : TrapRecord} (l : Assoc Agent) (hp : (Assoc.get {} g l).part = n)
    (h : (Assoc.get {} g l).status = .unposted z) (hno : ∀ e ∈ l, e.1 ≠ g → ∀ y, e.2.status ≠ .unposted y) :
    l.findSome? (waitingRecord n) = some (g, z) := by
  induction l with
  | nil => cases h
  | cons e l ih =>
    by_cases he : e.1 = g
    · rw [Assoc.get, if_pos he] at hp h
      subst he
      rw [List.findSome?_cons, waitingRecord_of_unposted hp h]
    · rw [Assoc.get, if_neg he] at hp h
      rw [List.findSome?_cons, waitingRecord_eq_none (hno e (.head _) he)]
      exact ih hp h (fun e' h' => hno e' (.tail _ h'))

theorem exec_trapRecordPost_stalled {s : State} {n g : Nat} {z : TrapRecord} (hheld : (s.part n).held = []) (hfree : 3 ≤ (s.part n).slotsFree)
    (hfound : s.agents.findSome? (waitingRecord n) = some (g, z)) : exec (.trapRecordPost n) s = .next (s.postReplay g z) := by
  show execTrapRecordPost n s = _
  simp only [execTrapRecordPost, nextHeld_nil hheld]
  rw [if_neg (not_lt.2 hfree)]
  show Host.Outcome.next (match s.agents.findSome? (waitingRecord n) with
    | some (g, r) => s.postReplay g r
    | none => _) = _
  rw [hfound]

theorem postReplay_plain {s : State} {g : Nat} {z : TrapRecord} (hheld : (s.part (s.ag g).part).held = [])
    (hfree : 3 ≤ (s.part (s.ag g).part).slotsFree) (hpri : z.cause ≠ 0x0E) (hur : z.cause ≠ 0x0F) :
    s.postReplay g z = (s.modPart (s.ag g).part (fun x => x.post z)).modAg g
      (fun a => { a with status := .replay ((s.part (s.ag g).part).seq + 1) }) := by
  unfold State.postReplay
  simp only [hheld, List.any_nil, Bool.not_false, and_true, hfree, if_true]
  rw [if_neg hpri, if_neg hur]

/-- The record of the agent that waits for room is posted. -/
theorem trapRecordPost_stalled {s : State} {n g : Nat} {z : TrapRecord} (hheld : (s.part n).held = []) (hfree : 3 ≤ (s.part n).slotsFree)
    (hp : (s.ag g).part = n) (hz : (s.ag g).status = .unposted z) (hpri : z.cause ≠ 0x0E) (hur : z.cause ≠ 0x0F)
    (hno : ∀ e ∈ s.agents, e.1 ≠ g → ∀ y, e.2.status ≠ .unposted y) :
    ∃ t, exec (.trapRecordPost n) s = .next t ∧ t.part n = { s.part n with held := [] }.post z
      ∧ t.ag g = { s.ag g with status := .replay ((s.part n).seq + 1) }
      ∧ ∀ j, j ≠ g → t.ag j = s.ag j := by
  subst hp
  have hsame : { s.part (s.ag g).part with held := [] } = s.part (s.ag g).part := by rw [← hheld]
  refine ⟨_, exec_trapRecordPost_stalled hheld hfree (findSome_waitingRecord s.agents rfl hz hno), ?_⟩
  rw [hsame, postReplay_plain hheld hfree hpri hur]
  exact ⟨modPart_part_self s _ (fun x => x.post z), modAg_ag_self _ _ _, fun j hj => modAg_ag_ne _ _ _ hj⟩

/-! ### The statement -/

/-- Settles O59: each event is taken when its conditions hold, and its rule above says what it changes. -/
theorem eventResults : Obligations.EventResults := by
  intro s g n k pa i x goes
  refine ⟨fun p hmem hi hm => ⟨storePerformed_memory hmem hi hm, fun ln hne hp hwc hlen => storePerformed_host hmem hi hm hne hp hwc hlen⟩,
    loadReturned_counts s g, fun l hmem hl => ⟨_, exec_wcDrainTimeout hl, drainLine_view hmem g l⟩,
    fun y hy hdie hf harr hr => barrierPhaseComplete_goes hy hdie ((group_complete_iff y).2 ⟨harr, hr, hf⟩),
    fun y hy hdie hp ht hf hc hs hh => ?_, fun v hv hwaits hk hmoored hpark => ?_, fun y ys hheld hnext => ?_,
    fun z zs a b hheld hz ha hfree hb hc => ?_, fun z hheld hfree hp hz hpri hur hno => trapRecordPost_stalled hheld hfree hp hz hpri hur hno⟩
  · exact ⟨_, exec_barrierTimeout hy hdie hp ht hf hc hs hh, modGroup_get_self _ hy, rfl, s.timeoutRecord y, rfl, rfl, rfl, rfl,
      modPart_part_self s _ (fun x => x.postOrHold (s.timeoutRecord y) 3)⟩
  · obtain ⟨t, ht, hst, hprio, hwakes, hnone, hothers, hag, hsaved⟩ := futureWakeup_goes hv hwaits hk hmoored hpark
    refine ⟨t, ht, hst, hprio, hwakes, hnone, hothers, hag, fun y hy => ⟨(s.task k).answered v y, by rw [hsaved, hy]; rfl, ?_⟩⟩
    obtain ⟨hpc, ha, hvec⟩ := answered_keeps (s.task k) v y
    exact ⟨hpc, ha, hvec, fun j => by rw [answered_rs, Task.answer]; simp⟩
  · have hfirst : (s.part n).nextHeld = some 0 := by
      rcases hnext with ⟨hfatal, hfree⟩ | ⟨hfree, hnone⟩
      · exact nextHeld_fatal (z := []) hheld (fun y hy => absurd hy List.not_mem_nil) hfatal hfree
      · exact nextHeld_first (by simp [hheld]) (by rwa [hheld]) hfree
    obtain ⟨t, ht, hpart, hag⟩ := trapRecordPost_held (z := []) hheld hfirst
    exact ⟨fun hc => ⟨t, ht, hpart.trans (congrArg _ (stamp_of_ne hc)), hag⟩,
      fun hc => ⟨t, ht, hpart.trans (congrArg _ (stamp_of_watchEngine hc)), hag⟩⟩
  · obtain ⟨t, ht, hpart, hag⟩ := trapRecordPost_held hheld (nextHeld_fatal hheld hz ha hfree)
    rw [stamp_of_ne hc, ← hb] at hpart
    exact ⟨t, ht, hpart, hag⟩

end Sys2Proof.Machine
end
